-- ==== Sys2Proof/Word.lean ====
section
/-! DEFINITION. The word types of the NX760: 64-bit scalar words, 8-bit bytes, 1024-bit vector registers, 128-bit element masks and 32-bit syllables (R9, R39, R171, R175, R205). -/

namespace Sys2Proof

/-- A scalar register, a belt position, a system register, a tagged pointer (R37, R39, R171). -/
abbrev Word := BitVec 64

/-- A byte of any memory (R5). -/
abbrev Byte := BitVec 8

/-- A syllable of a bundle (R9). -/
abbrev Syl := BitVec 32

/-- EM and CM (R175). -/
abbrev Mask := BitVec 128

/-- A vector register (R205). -/
abbrev VReg := BitVec 1024

/-- A register field or source code of five bits (R19). -/
abbrev R5 := BitVec 5

end Sys2Proof
end

