-- ==== Sys2Proof/Machine/Num.lean ====
section
/-! DEFINITION. Exact values and their entry into number formats (R106, R110 to R119): the formats by their parameters, decoding, rounding in every mode, and the exact operations of the scalar, vector and matrix units. -/

namespace Sys2Proof.Machine

open Sys2Proof

/-- Rounding modes (R117); SR carries the random bits. -/
inductive RMode where
  | rne | rtz | rup | rdn | sr (u : Nat)
  deriving DecidableEq, Repr

/-- Modes by their codes (R105, R186). -/
def RMode.ofCode : Nat → RMode
  | 1 => .rtz | 2 => .rup | 3 => .rdn | _ => .rne

/-- An exact value: a NaN, an infinity, or a signed ratio whose zero keeps its sign (R8, R118). -/
inductive FVal where
  | nan
  | inf (neg : Bool)
  | fin (neg : Bool) (num den : Nat)
  deriving DecidableEq, Repr

namespace FVal
def zero : FVal := .fin false 0 1
def one : FVal := .fin false 1 1
def ofInt (i : Int) : FVal := .fin (decide (i < 0)) i.natAbs 1
def ofNat (n : Nat) : FVal := .fin false n 1

/-- m × 2^q with a sign. -/
def scaled (neg : Bool) (m : Nat) (q : Int) : FVal :=
  if 0 ≤ q then .fin neg (m * 2 ^ q.toNat) 1 else .fin neg m (2 ^ (-q).toNat)

def neg : FVal → FVal
  | .nan => .nan
  | .inf s => .inf !s
  | .fin s n d => .fin (!s) n d

def isNan : FVal → Bool
  | .nan => true
  | _ => false
def isInf : FVal → Bool
  | .inf _ => true
  | _ => false
def isZero : FVal → Bool
  | .fin _ n _ => n == 0
  | _ => false
def isFin : FVal → Bool
  | .fin _ _ _ => true
  | _ => false
def isNeg : FVal → Bool
  | .inf s => s
  | .fin s _ _ => s
  | .nan => false

/-- Signed numerator over the denominator. -/
def sgn (s : Bool) (n : Nat) : Int := if s then -(n : Int) else n

/-- Exact sum; a zero sum of opposite signs is +0, or −0 in RDN (R186; log 16, DEDUCED). -/
def add (m : RMode) : FVal → FVal → FVal
  | .nan, _ => .nan
  | _, .nan => .nan
  | .inf s, .inf t => if s == t then .inf s else .nan
  | .inf s, _ => .inf s
  | _, .inf t => .inf t
  | .fin s n d, .fin t k e =>
    let x := sgn s n * e + sgn t k * d
    if x == 0 then .fin (if n == 0 && k == 0 && s == t then s else m == .rdn) 0 1
    else .fin (decide (x < 0)) x.natAbs (d * e)

/-- Exact product, with the special values of IEEE multiplication (R124; log 16, DEDUCED). -/
def mul : FVal → FVal → FVal
  | .nan, _ => .nan
  | _, .nan => .nan
  | .inf s, .inf t => .inf (s != t)
  | .inf s, .fin t n _ => if n == 0 then .nan else .inf (s != t)
  | .fin s n _, .inf t => if n == 0 then .nan else .inf (s != t)
  | .fin s n d, .fin t k e => .fin (s != t) (n * k) (d * e)

/-- Exact quotient (R186: x/±0 gives ±∞, 0/0 NaN). -/
def div : FVal → FVal → FVal
  | .nan, _ => .nan
  | _, .nan => .nan
  | .inf _, .inf _ => .nan
  | .inf s, .fin t _ _ => .inf (s != t)
  | .fin s _ _, .inf t => .fin (s != t) 0 1
  | .fin s n d, .fin t k e =>
    if k == 0 then (if n == 0 then .nan else .inf (s != t)) else .fin (s != t) (n * e) (d * k)

/-- Multiply by 2^q exactly. -/
def shift (v : FVal) (q : Int) : FVal :=
  match v with
  | .fin s n d => if 0 ≤ q then .fin s (n * 2 ^ q.toNat) d else .fin s n (d * 2 ^ (-q).toNat)
  | _ => v

/-- Order of two values that are not NaN; zeros are equal. -/
def lt : FVal → FVal → Bool
  | .nan, _ => false
  | _, .nan => false
  | .inf s, .inf t => s && !t
  | .inf s, _ => s
  | _, .inf t => !t
  | .fin s n d, .fin t k e => decide (sgn s n * e < sgn t k * d)

def eq : FVal → FVal → Bool
  | .nan, _ => false
  | _, .nan => false
  | .inf s, .inf t => s == t
  | .inf _, _ => false
  | _, .inf _ => false
  | .fin s n d, .fin t k e => decide (sgn s n * e = sgn t k * d)

def le (a b : FVal) : Bool := lt a b || eq a b

/-- The magnitude. -/
def abs : FVal → FVal
  | .nan => .nan
  | .inf _ => .inf false
  | .fin _ n d => .fin false n d
end FVal

/-! ### Rounding -/

/-- floor(log2(num/den)) for a positive ratio. -/
def ilog2 (num den : Nat) : Int :=
  let k : Int := (Nat.log2 num : Int) - (Nat.log2 den : Int)
  let below := if 0 ≤ k then num < den * 2 ^ k.toNat else num * 2 ^ (-k).toNat < den
  if below then k - 1 else k

/-- Whether a remainder `r` of `d` rounds the magnitude up (R117); `odd` is bit 0 of the lower code. -/
def roundsUp (m : RMode) (neg odd : Bool) (r d : Nat) : Bool :=
  r != 0 && (match m with
    | .rne => decide (d < 2 * r) || (2 * r == d && odd)
    | .rtz => false
    | .rup => !neg
    | .rdn => neg
    | .sr u => decide (65536 ≤ 65536 * r / d + u))

/-- The magnitude's code in a format of precision `p` and least exponent `qmin` of a unit, with no upper bound (R117). Codes of successive magnitudes are successive numbers. -/
def roundIdx (p : Nat) (qmin : Int) (m : RMode) (neg : Bool) (num den : Nat) : Nat :=
  if num == 0 then 0
  else
    let q := max (ilog2 num den - (p : Int) + 1) qmin
    let n := if 0 ≤ q then num else num * 2 ^ (-q).toNat
    let d := if 0 ≤ q then den * 2 ^ q.toNat else den
    let code := (q - qmin).toNat * 2 ^ (p - 1) + n / d
    if roundsUp m neg (code % 2 == 1) (n % d) d then code + 1 else code

/-- The value of a magnitude's code. -/
def idxVal (p : Nat) (qmin : Int) (neg : Bool) (idx : Nat) : FVal :=
  let h := 2 ^ (p - 1)
  let e := idx / h
  if e == 0 then FVal.scaled neg idx qmin else FVal.scaled neg (h + idx % h) (qmin + (e : Int) - 1)

/-- A floating-point format by its parameters (R110, R112, R114, R116): precision, unit exponent, code of the largest finite magnitude, sign bit, codes of infinity and NaN. -/
structure FloatFmt where
  p : Nat
  qmin : Int
  maxFin : Nat
  /-- weight of the sign bit; none for an unsigned format -/
  sign : Option Nat
  infCode : Option Nat
  nanCode : Nat
  negZero : Bool
  deriving DecidableEq, Repr

def fmtF16 : FloatFmt := { p := 11, qmin := -24, maxFin := 0x7BFF, sign := some 0x8000, infCode := some 0x7C00, nanCode := 0x7E00, negZero := true }
def fmtBf16 : FloatFmt := { p := 8, qmin := -133, maxFin := 0x7F7F, sign := some 0x8000, infCode := some 0x7F80, nanCode := 0x7FC0, negZero := true }
def fmtF32 : FloatFmt :=
  { p := 24, qmin := -149, maxFin := 0x7F7FFFFF, sign := some 0x80000000, infCode := some 0x7F800000, nanCode := 0x7FC00000, negZero := true }
def fmtF64 : FloatFmt :=
  { p := 53, qmin := -1074, maxFin := 0x7FEFFFFFFFFFFFFF, sign := some 0x8000000000000000, infCode := some 0x7FF0000000000000,
    nanCode := 0x7FF8000000000000, negZero := true }

/-- A variant of binary8 (R112). -/
def fmtB8 (p : Nat) (uns inf : Bool) : FloatFmt :=
  let w := if uns then 9 - p else 8 - p
  let bias : Int := 2 ^ (w - 1)
  let top := if uns then 0xFE else 0x7F
  { p := p, qmin := 1 - bias - ((p : Int) - 1), maxFin := if inf then top - 1 else top,
    sign := if uns then none else some 0x80, infCode := if inf then some top else none,
    nanCode := if uns then 0xFF else 0x80, negZero := false }

/-- A result past the largest finite value (R118); `exact` is an infinite input, which SAT or the format decides. -/
def FloatFmt.overflow (f : FloatFmt) (m : RMode) (sat neg exact : Bool) : Nat :=
  let s := if neg then f.sign.getD 0 else 0
  let toZero := !exact && (match m with
    | .rtz => true
    | .rdn => !neg
    | .rup => neg
    | _ => false)
  if sat || toZero then s + f.maxFin
  else match f.infCode with
    | some i => s + i
    | none => f.nanCode

/-- Enter a floating-point format (R117, R118). -/
def FloatFmt.encode (f : FloatFmt) (m : RMode) (sat : Bool) (v : FVal) : Nat :=
  match v with
  | .nan => f.nanCode
  | .inf neg => if neg && f.sign.isNone then 0 else f.overflow m sat neg true
  | .fin neg n d =>
    if neg && f.sign.isNone then 0
    else
      let i := roundIdx f.p f.qmin m neg n d
      if f.maxFin < i then f.overflow m sat neg false
      else if i == 0 then (if neg && f.negZero then f.sign.getD 0 else 0)
      else (if neg then f.sign.getD 0 else 0) + i

/-- The value of a code. -/
def FloatFmt.decode (f : FloatFmt) (c : Nat) : FVal :=
  if !f.negZero && c == f.nanCode then .nan
  else
    let neg := match f.sign with
      | some s => decide (s ≤ c)
      | none => false
    let mag := match f.sign with
      | some s => c % s
      | none => c
    match f.infCode with
    | some i =>
      if mag == i then .inf neg
      else if i < mag then .nan
      else idxVal f.p f.qmin neg mag
    | none => idxVal f.p f.qmin neg mag

/-- Round to an integer (R119). -/
def roundInt (m : RMode) (neg : Bool) (n d : Nat) : Int :=
  let q := n / d
  FVal.sgn neg (if roundsUp m neg (q % 2 == 1) (n % d) d then q + 1 else q)

/-- Enter an integer range: rounded, then clamped; NaN gives 0 (R119). -/
def toIntRange (m : RMode) (lo hi : Int) (v : FVal) : Int :=
  match v with
  | .nan => 0
  | .inf neg => if neg then lo else hi
  | .fin neg n d => max lo (min hi (roundInt m neg n d))

/-- Least and greatest value of an integer of `bits` bits. -/
def intRange (bits : Nat) (signed : Bool) : Int × Int :=
  if signed then (-(2 ^ (bits - 1) : Int), 2 ^ (bits - 1) - 1) else (0, 2 ^ bits - 1)

/-- The code of an integer in `bits` bits. -/
def intCode (bits : Nat) (i : Int) : Nat := (i % (2 ^ bits : Int)).toNat

/-- The integer that a code of `bits` bits stands for. -/
def codeInt (bits : Nat) (signed : Bool) (c : Nat) : Int :=
  if signed && 2 ^ (bits - 1) ≤ c then (c : Int) - 2 ^ bits else c

/-! ### f4 and E4M3 -/

/-- The standard values of E2M1 (R114). -/
def f4Val (code : Nat) : FVal := idxVal 2 (-1) (decide (8 ≤ code)) (code % 8)

/-- |a − b| for finite values, as an exact value; infinite where one is infinite and they differ. -/
def FVal.dist (a b : FVal) : FVal := (FVal.add .rne a b.neg).abs

/-- Encode into f4 with the value X of code 0x8 (R115). -/
def f4Encode (x : FVal) (m : RMode) (v : FVal) : Nat :=
  match v with
  | .nan => if x.isNan then 8 else 0
  | .inf neg => if x == .inf neg then 8 else if neg then 15 else 7
  | .fin neg n d =>
    let i := Nat.min 7 (roundIdx 2 (-1) m neg n d)
    let std := if i == 0 then 0 else if neg then 8 + i else i
    let eligible := match m with
      | .rtz => x.isZero || (!x.isNan && x.isNeg == neg && FVal.le x.abs v.abs)
      | .rup => FVal.le v x
      | .rdn => FVal.le x v
      | _ => !x.isNan
    if eligible && x.isFin && FVal.lt (FVal.dist x v) (FVal.dist (if i == 0 then FVal.zero else idxVal 2 (-1) neg i) v) then 8 else std

/-- The value of an f4 code (R114). -/
def f4Decode (x : FVal) (c : Nat) : FVal := if c == 8 then x else f4Val c

/-- A scale byte is bad (R116). -/
def scaleBad (b : Nat) : Bool := 0x7F ≤ b

/-- The value of a good scale (R116). -/
def scaleVal (b : Nat) : FVal := idxVal 4 (-9) false b

/-- The smallest good scale not below q, for 0 < q ≤ 448 (R116). -/
def rupE4M3 (n d : Nat) : Nat := roundIdx 4 (-9) .rup false n d

/-! ### Roots, exponentials and logarithms

An irrational result is given by a ratio that lies on the same side of every rounding boundary: its last place is made odd, as a sticky bit. -/

/-- Integer square root by bits from `i − 1` down. -/
def isqrtFrom (n : Nat) : Nat → Nat → Nat
  | 0, r => r
  | i + 1, r => if (r + 2 ^ i) * (r + 2 ^ i) ≤ n then isqrtFrom n i (r + 2 ^ i) else isqrtFrom n i r

def isqrt (n : Nat) : Nat := isqrtFrom n (Nat.log2 n / 2 + 1) 0

/-- √(num/den), exact or with an odd last place far below every format's. -/
def rootOdd (num den : Nat) : Nat × Nat :=
  let k := ((300 - ilog2 num den).toNat + 1) / 2
  let s := isqrt (num * 4 ^ k / den)
  (2 * s + (if s * s * den == num * 4 ^ k then 0 else 1), 2 ^ (k + 1))

def FVal.sqrt : FVal → FVal
  | .nan => .nan
  | .inf neg => if neg then .nan else .inf false
  | .fin neg n d =>
    if n == 0 then .fin neg 0 1
    else if neg then .nan
    else .fin false (rootOdd n d).1 (rootOdd n d).2

/-- Fraction bits of the fixed-point series (log 17, DESIGN CHOICE). -/
def fixBits : Nat := 400

/-- floor(2^400 × ln 2). -/
def ln2Fix : Nat := 0xb17217f7d1cf79abc9e3b39803f2f6af40f343267298b62d8a0d175b8baafa2be7b876206debac98559552fb4afa1b10ed2e

/-- Terms of the exponential series from term `n`: the running term and the sum. -/
def expSeries (x : Nat) : Nat → Nat → Nat → Nat → Nat
  | 0, _, _, sum => sum
  | fuel + 1, n, term, sum =>
    let t := term * x / 2 ^ fixBits / (n + 1)
    expSeries x fuel (n + 1) t (sum + t)

/-- 2^a (R212; log 17, DESIGN CHOICE). -/
def FVal.exp2 : FVal → FVal
  | .nan => .nan
  | .inf neg => if neg then .fin false 0 1 else .inf false
  | .fin neg n d =>
    if n % d == 0 then FVal.scaled false 1 (max (-5000) (min 5000 (sgn neg (n / d))))
    else if 5000 * d < n then FVal.scaled false 1 (if neg then -5000 else 5000)
    else
      let i := if neg then -((n / d : Nat) : Int) - 1 else (n / d : Nat)
      let f := if neg then d - n % d else n % d
      let x := (f * 2 ^ fixBits / d) * ln2Fix / 2 ^ fixBits
      let r := expSeries x 110 0 (2 ^ fixBits) (2 ^ fixBits)
      (FVal.fin false ((r / 2 ^ 100) ||| 1) (2 ^ (fixBits - 100))).shift i

/-- Terms of the series of atanh. -/
def atanhSeries (z2 : Nat) : Nat → Nat → Nat → Nat → Nat
  | 0, _, _, sum => sum
  | fuel + 1, k, pow, sum => atanhSeries z2 fuel (k + 2) (pow * z2 / 2 ^ fixBits) (sum + pow / k)

/-- log2 a (R212; log 17, DESIGN CHOICE). -/
def FVal.log2 : FVal → FVal
  | .nan => .nan
  | .inf neg => if neg then .nan else .inf false
  | .fin neg n d =>
    if n == 0 then .inf true
    else if neg then .nan
    else
      let e := ilog2 n d
      let nn := if 0 ≤ e then n else n * 2 ^ (-e).toNat
      let dd := if 0 ≤ e then d * 2 ^ e.toNat else d
      if nn == dd then FVal.ofInt e
      else
        let z := (nn - dd) * 2 ^ fixBits / (nn + dd)
        let s := atanhSeries (z * z / 2 ^ fixBits) 140 1 z 0
        let t : Int := e * 2 ^ fixBits + ((2 * s * 2 ^ fixBits / ln2Fix : Nat) : Int)
        .fin (decide (t < 0)) ((t.natAbs / 2 ^ 60) ||| 1) (2 ^ (fixBits - 60))

/-- 1/√a with the special cases of R212. -/
def FVal.rsqrt : FVal → FVal
  | .nan => .nan
  | .inf neg => if neg then .nan else .fin false 0 1
  | .fin neg n d =>
    if n == 0 then .inf neg
    else if neg then .nan
    else .fin false (rootOdd d n).1 (rootOdd d n).2

/-! ### Operations on codes of an IEEE format -/

/-- Smaller of two operands, as their own bits: −0 < +0, one NaN gives the other operand, two give NaN (R186). -/
def FloatFmt.min (f : FloatFmt) (a b : Nat) : Nat :=
  let x := f.decode a
  let y := f.decode b
  if x.isNan then (if y.isNan then f.nanCode else b)
  else if y.isNan then a
  else if x.isZero && y.isZero then (if x.isNeg then a else b)
  else if FVal.lt y x then b else a

/-- Larger of two operands (R186). -/
def FloatFmt.max (f : FloatFmt) (a b : Nat) : Nat :=
  let x := f.decode a
  let y := f.decode b
  if x.isNan then (if y.isNan then f.nanCode else b)
  else if y.isNan then a
  else if x.isZero && y.isZero then (if x.isNeg then b else a)
  else if FVal.lt x y then b else a

/-- Class bits (R187). -/
def FloatFmt.classBits (f : FloatFmt) (c : Nat) : Nat :=
  let quiet := 2 ^ (f.p - 2)
  match f.decode c with
  | .nan => if c / quiet % 2 == 1 then 512 else 256
  | .inf neg => if neg then 1 else 128
  | .fin neg n _ =>
    let sub := decide (c % (f.sign.getD 1) < 2 ^ (f.p - 1))
    if n == 0 then (if neg then 8 else 16)
    else if sub then (if neg then 4 else 32)
    else if neg then 2 else 64

end Sys2Proof.Machine
end

