-- ==== Sys2Proof/Syntax.lean ====
section
/-! DEFINITION. The syntax: one constructor of Instr for every row of the operation table. A syllable's constructor holds the fields of its format (R18, R20, R22, R23); an event's constructor holds what names the event. -/

namespace Sys2Proof

/-- The seven slots that hold a syllable, in position order (R9). -/
inductive Slot where
  | s0 | s1 | v0 | v1 | m | c | x
  deriving DecidableEq, Repr

/-- The slot classes; each has an opcode map of its own (R24). -/
inductive SlotClass where
  | s | v | m | c | x
  deriving DecidableEq, Repr

/-- Position of a slot in its bundle, 1 to 7 (R9). -/
def Slot.pos : Slot → Nat
  | .s0 => 1 | .s1 => 2 | .v0 => 3 | .v1 => 4 | .m => 5 | .c => 6 | .x => 7

def Slot.cls : Slot → SlotClass
  | .s0 => .s | .s1 => .s | .v0 => .v | .v1 => .v | .m => .m | .c => .c | .x => .x

/-- Element types of the V syllable and of brcm (R20). -/
inductive VType where
  | i8 | i16 | i32 | i64 | bf16 | f16 | f32 | f64
  deriving DecidableEq, Repr

/-- Widths of the V syllable (R20). -/
inductive VWidth where
  | w256 | w512 | w1024
  deriving DecidableEq, Repr

/-- Format SR (R18). -/
structure SR where
  d : R5
  a : R5
  b : R5
  c : R5
  fn : R5
  deriving DecidableEq, Repr

/-- Format SI (R18). -/
structure SI where
  d : R5
  a : R5
  imm : BitVec 15
  deriving DecidableEq, Repr

/-- Format SL (R18). -/
structure SL where
  d : R5
  imm : BitVec 20
  deriving DecidableEq, Repr

/-- Format SS (R18). -/
structure SS where
  data : R5
  base : R5
  imm : BitVec 15
  deriving DecidableEq, Repr

/-- The V syllable's fields (R20). -/
structure VF where
  width : VWidth
  dup : Bool
  vd : R5
  va : R5
  vb : R5
  vc : R5
  ty : VType
  deriving DecidableEq, Repr

/-- The M syllable's fields (R22). -/
structure MF where
  acc : BitVec 3
  qa : BitVec 4
  qb : BitVec 4
  x : R5
  y : R5
  pa : Bool
  pb : Bool
  z : Bool
  ck : Bool
  neg : Bool
  deriving DecidableEq, Repr

/-- A memory command (R23, R66). -/
structure MemF where
  x : R5
  y : R5
  delta : BitVec 8
  cnt : BitVec 4
  sync : BitVec 4
  deriving DecidableEq, Repr

/-- The copy-family layout: two sources, count − 1 and a sync slot (R162, R271, R372). -/
structure CopyF where
  x : R5
  y : R5
  cnt : BitVec 12
  sync : BitVec 4
  deriving DecidableEq, Repr

/-- pput and pget (R264). -/
structure PutF where
  x : R5
  y : R5
  notify : Bool
  cnt : BitVec 11
  sync : BitVec 4
  deriving DecidableEq, Repr

/-- pputv (R264). -/
structure PutvF where
  x : R5
  y : R5
  notify : Bool
  width : BitVec 2
  sync : BitVec 4
  deriving DecidableEq, Repr

/-- pamo (R264, R266). -/
structure PamoF where
  x : R5
  y : R5
  aop : BitVec 4
  wide : Bool
  ret : Bool
  q : BitVec 4
  sync : BitVec 4
  deriving DecidableEq, Repr

/-- A scratchpad atomic (R168). -/
structure AtomF where
  d : R5
  addr : R5
  v : R5
  c : R5
  wide : Bool
  deriving DecidableEq, Repr

/-- A request that a peer sends to one of this device's windows (R260, R263). -/
structure PeerReq where
  src : Nat
  world : Nat
  window : Nat
  offset : Nat
  deriving DecidableEq, Repr

/-- What a put carries or a get brings: the bytes, and the numbers of the 64-byte lines among them that were read poisoned (R137, R264). -/
structure Payload where
  bytes : List Byte
  bad : List Nat
  deriving DecidableEq, Repr

/-- What a ckload's fetch met: a failed port or peer (3), a shard that does not open (6), or the stored bytes; and the key that the owner's release service gave for a manifest, if it did (R375). -/
structure CkFetch where
  status : Nat
  bytes : List Byte
  key : Option (BitVec 256)
  deriving DecidableEq, Repr

/-- What GET_MEASUREMENTS asks for: a block, or `0` for their number, and a signature (R358, R360). -/
structure MeasureReq where
  index : Nat
  signed : Bool
  deriving DecidableEq, Repr

/-- A request that a function does not support: the function and the kind, ATS, PRI or peer-to-peer (R377). -/
structure Unsupported where
  world : Nat
  kind : Nat
  deriving DecidableEq, Repr

/-- How a request that this device sent ended: done, refused at the target with a fault code (R263), or lost with its port or peer (R270). -/
inductive Reply where
  | done
  | refused (code : Nat)
  | lost
  | retry
  deriving DecidableEq, Repr

/-- What a world owner writes through its virtual function (R357). -/
inductive VfItem where
  /-- add a value to the allowlist -/
  | allow (digest : BitVec 256)
  /-- replace a value of the allowlist, or take it out -/
  | allowAt (index : Nat) (digest : Option (BitVec 256))
  | debug (on : Bool)
  | exportEntry (index : Nat) (entry : List Byte)
  | peerSet (index : Nat) (devices : List Nat)
  /-- a group: this device's member index, the identifier of the reduction switch, the members' devices -/
  | group (index member switch : Nat) (devices : List Nat)
  /-- the owner's HSS verification key -/
  | ownerKey (key : List Byte)
  /-- the owner's ML-KEM-1024 encapsulation key -/
  | releaseKey (key : List Byte)
  /-- the owner's peer policy, by its digest (R360, R361) -/
  | peerPolicy (digest : BitVec 256)
  deriving DecidableEq, Repr

/-- A licensor policy as METER_BIND carries it: its bytes, with what the device finds of its signature (R365, R366). -/
structure Policy where
  bytes : List Byte
  sigOk : Bool
  deriving DecidableEq, Repr

/-- A cluster's grant: the watts granted, the activity estimated, in watts per 1,000 MHz of its clock, and the watts that it draws at the floor (R380, R381). -/
structure Grant where
  cluster : Nat
  watts : Nat
  activity : Nat
  floor : Nat
  deriving DecidableEq, Repr

/-- One row of the operation table. -/
inductive Instr where
  | nop
  -- S slot, integer (R180)
  | add (f : SR) | sub (f : SR) | mul (f : SR) | mulh (f : SR) | mulhu (f : SR)
  | div (f : SR) | divu (f : SR) | rem (f : SR) | remu (f : SR)
  | and (f : SR) | or (f : SR) | xor (f : SR) | shl (f : SR) | shr (f : SR) | sra (f : SR) | rotr (f : SR)
  | min (f : SR) | max (f : SR) | minu (f : SR) | maxu (f : SR)
  | seq (f : SR) | sne (f : SR) | slt (f : SR) | sltu (f : SR) | sel (f : SR)
  | clz (f : SR) | ctz (f : SR) | popc (f : SR) | mov (f : SR) | padd (f : SR)
  -- immediates (R182, R183)
  | addi (f : SI) | andi (f : SI) | ori (f : SI) | xori (f : SI) | shli (f : SI) | shri (f : SI) | srai (f : SI)
  | rotri (f : SI) | slti (f : SI) | sltui (f : SI) | seqi (f : SI) | ptag (f : SI)
  | li (f : SL) | lcat (f : SL) | lpc (f : SL)
  -- random numbers and masks (R177-R179, R184, R185)
  | rng (f : SR) | ctradd (f : SR) | msave (f : SR) | mrest (f : SR) | mcomb (f : SR) | mcm (f : SR)
  -- floating point (R186-R188)
  | fadd (f : SR) | fsub (f : SR) | fmul (f : SR) | ffma (f : SR) | fdiv (f : SR) | fsqrt (f : SR)
  | fmin (f : SR) | fmax (f : SR) | feq (f : SR) | flt (f : SR) | fle (f : SR) | fclass (f : SR) | fcvt (f : SR)
  | fabs (f : SR) | fneg (f : SR)
  -- loads and stores (R190, R191)
  | ldB (f : SI) | ldH (f : SI) | ldW (f : SI) | ldD (f : SI) | ldnB (f : SI) | ldnH (f : SI) | ldnW (f : SI)
  | stB (f : SS) | stH (f : SS) | stW (f : SS) | stD (f : SS)
  -- V slot (R211-R232)
  | vadd (f : VF) | vsub (f : VF) | vmul (f : VF) | vfma (f : VF) | vfms (f : VF) | vfnma (f : VF) | vdiv (f : VF)
  | vsqrt (f : VF) | vmin (f : VF) | vmax (f : VF) | vabs (f : VF) | vneg (f : VF) | vexp2 (f : VF) | vlog2 (f : VF)
  | vrcp (f : VF) | vrsqrt (f : VF)
  | vand (f : VF) | vor (f : VF) | vxor (f : VF) | vshl (f : VF) | vshr (f : VF) | vsra (f : VF)
  | vcmp (f : VF) | vsel (f : VF) | vcvt (f : VF) | vbcst (f : VF) | vmov (f : VF) | vslide (f : VF) | vperm (f : VF)
  | vscan (f : VF) | vred (f : VF) | vpopc (f : VF) | vdot4 (f : VF) | vclass (f : VF)
  | vadds (f : VF) | vmuls (f : VF) | vfmas (f : VF) | vmins (f : VF) | vmaxs (f : VF) | vminn (f : VF) | vmaxn (f : VF)
  | vld (f : VF) | vlds (f : VF) | vldx (f : VF) | vst (f : VF) | vsts (f : VF) | vstx (f : VF) | vacr (f : VF) | vacw (f : VF)
  -- M slot (R239)
  | mma (f : MF) | mmas (f : MF) | mzero (f : MF) | mgeo (f : MF) | tquant (f : MF) | tcast (f : MF) | mchk (f : MF)
  | mscl (f : MF) | macc (f : MF)
  -- C slot: memory commands (R66)
  | mact (f : MemF) | mpre (f : MemF) | mprea (f : MemF) | mrd (f : MemF) | mwr (f : MemF) | mref (f : MemF)
  | mrefa (f : MemF) | mrdt (f : MemF) | mnop (f : MemF)
  -- C slot: copies, rings, sync words, fabric, checkpoints
  | xcpy (f : CopyF) | xcpyt (f : CopyF) | xfill (f : CopyF) | tscale (x y : R5)
  | qcfg (x : R5) (q : BitVec 4) | qpush (q : BitVec 4) (n : BitVec 8) | qpushRef (x : R5) (n : BitVec 8)
  | qpop (q : BitVec 4) (n : BitVec 8) | swset (x : R5) (k : BitVec 4)
  | pput (f : PutF) | pget (f : PutF) | pputv (f : PutvF) | pamo (f : PamoF) | csum (f : CopyF)
  | cksave (x : R5) (sync : BitVec 4) | ckload (x : R5) (sync : BitVec 4)
  -- X slot: control (R194-R204)
  | br (off : BitVec 24) | brz (a : R5) (off : BitVec 19) | brnz (a : R5) (off : BitVec 19)
  | brcm (cond : BitVec 2) (ty : VType) (off : BitVec 19) | call (off : BitVec 24) | ret | jmp (a : R5)
  | loop (a : R5) (off : BitVec 19) | rep (n : BitVec 6) (step : BitVec 18)
  | repRepetition (core strand : Nat)
  | endStrand
  -- X slot: waits and ordering
  | qwait (q : BitVec 4) (n : BitVec 12) | qarv (q : BitVec 4) (n : BitVec 8) | swwait (k : BitVec 4) (g : R5)
  | phase | xfence (src dst : BitVec 7) | ifence
  -- X slot: atomics (R168, R169)
  | aadd (f : AtomF) | aand (f : AtomF) | aor (f : AtomF) | axor (f : AtomF) | amin (f : AtomF) | amax (f : AtomF)
  | aminu (f : AtomF) | amaxu (f : AtomF) | aswp (f : AtomF) | acas (f : AtomF) | afadd (f : AtomF)
  | atomicPerform (core bank : Nat)
  -- X slot: containment and system registers (R335-R340)
  | cropen (mask : BitVec 8) (off : BitVec 16) | crclose | cmpd (reg : R5) (mask : BitVec 8) | trap (imm : BitVec 16)
  | brk (imm : BitVec 16) | sysr (d : R5) (idx : BitVec 12) | sysw (src : R5) (idx : BitVec 12)
  | bwheelWrite (src : R5) (k : BitVec 4) | syncRegisterWrite (src : R5) (k : BitVec 4) | repcWrite (src : R5)
  | lcWrite (src : R5) | mgWrite (src : R5) | vctlWrite (src : R5) | xinvWrite (src : R5) | estatWrite (src : R5)
  -- X slot: trust (R350, R362-R369)
  | scrub (a len : R5) (sync : BitVec 4) | krot (a : R5) (sync : BitVec 4) | metr (d a : R5)
  | mets (a : R5) (sync : BitVec 4) | seal (a : R5) (sync : BitVec 4) | unseal (a : R5) (sync : BitVec 4)
  -- events of a strand, of bring-up and of main memory
  | resultLanding (core strand : Nat) | reset (sigOk : Bool)
  | commandPlay (stack pc arrive : Nat) | grainLanding (stack pc : Nat) | lineVerdict (stack pc : Nat)
  | lineCommit (stack pc : Nat) | refreshClock (stack pc : Nat) | rowOpenLimit (stack pc bank : Nat)
  -- capacity (R81-R86, R101)
  | rowRepair (stack pc bank row : Nat) | withdrawalNotice (stack pc : Nat) (sids : BitVec 4) (noticeUs : Nat)
  | layerMapOut (stack sid : Nat) | channelRetirement (stack pc : Nat) | withdrawn (stack pc : Nat) (sids : BitVec 4)
  | logicalChannelMove (world lchan stack pc : Nat) | systemSliceMove (stack slice pc sid : Nat)
  | sliceFillComplete (world lchan sidslot stack pc sid : Nat)
  -- engines of a core
  | syncCount (core bank : Nat) | copyComplete (core id : Nat) | matrixOperationStart (core : Nat)
  | matrixOperationRetire (core : Nat)
  -- fabric (R263-R272, R102, R103, R257)
  | putRequest (r : PeerReq) (notify : Bool) (data : Payload) | getRequest (r : PeerReq) (lines : Nat)
  | pamoRequest (r : PeerReq) (ident : Nat) (aop : BitVec 4) (wide : Bool) (v c : Word)
  | putAcknowledgement (id : Nat) (reply : Reply) | getDataArrival (id : Nat) (reply : Reply) (data : Payload)
  | pamoReply (id : Nat) (reply : Reply) (old : Word) (poison : Bool) | csumResult (id : Nat) (total : List Word)
  | retryResend (id : Nat) | frameAuthFailure (port : Nat) | peerLost (device : Nat) | linkRekey (port : Nat)
  | bridgeFailure | peerBinding (world device remote : Nat) (ok : Bool)
  -- queues and scheduling (R282-R305)
  | qnotifyWrite (world q : Nat) (n : Nat) | submissionFetchRetry (world q : Nat) | queueEnable (world q : Nat) (v : Word)
  | queueDisable (world q : Nat) | qconsWrite (world q n : Nat) | workgroupStart (world : Nat)
  | strandFinish (core strand : Nat) | launchComplete (world q seq : Nat) | coalescingTimeout (world q : Nat)
  | allowanceExhausted (world q seq : Nat) | waitLimitSwitch (core : Nat) | governorEvaluation | clusterMove (cluster : Nat)
  | phaseBoundary (wg : Nat)
  -- faults, checking, sealing
  | faultDelivery (core strand : Nat) | lockstepMismatch (core : Nat) | scratchpadScrub (core bank block : Nat)
  | sealNoticeEnd (id : Nat) | sealStopped (id : Nat) | sealDrainComplete (id : Nat) | sealImageCommitted (id : Nat)
  | unsealPlacement (id : Nat) | restorePoint (wg : Nat)
  -- trust (R355-R376)
  | krotComplete (world : Nat) | meterStatementSigned (world : Nat) | cksaveComplete (id core : Nat)
  | ckloadComplete (id : Nat) (result : CkFetch) (sources : List Nat) (plain : List Byte) | debugResume (world core strand : Nat)
  | lockInterfaceRequest (world : Nat) | startInterfaceRequest (world : Nat) | stopInterfaceRequest (world : Nat)
  | ideIntegrityFailure (world : Nat) | functionLevelReset (world : Nat) | spdmSessionLoss (world : Nat)
  | getMeasurements (world : Nat) (index : MeasureReq) | challenge (world : Nat) | keyExchange (world : Nat)
  | pwctlWrite (world : Nat) (v : Word) | frozenRegisterWrite (world offset : Nat) (v : Word)
  | vfConfigWrite (world : Nat) (item : VfItem)
  | meterBind (world : Nat) (p : Policy) | meterUnbind (world meter : Nat)
  | meterPred (world : Nat) (values : List Word) (last : BitVec 256) (sigOk : Bool)
  | migrationQuiesce (world : Nat) (permitOk : Bool) | migrationArm (world : Nat) (image : Nat)
  | migrationErase (world : Nat) (ackOk : Bool) | migrationConfirm (world : Nat) | migrationAbort (world : Nat)
  | armedTimeout (world : Nat) | escrowRelease (world : Nat) (ok : Bool)
  | drbgReseed
  -- host and power (R377-R383)
  | readTelemetry (stack : Nat) | readRepairInventory (stack : Nat) | stageFirmwareImage (verifies : Bool)
  | readAgeingRecord (stack : Nat)
  | bar2Access (world offset : Nat) (write : Option (List Byte)) (len : Nat) | unsupportedRequest (kind : Unsupported)
  | hearthGrant (grants : List Grant) | voltageReplan (cluster : Nat) (slower : Nat)
  | remoteTokenArrival (id : Nat) | replyAcknowledgement (src ident : Nat) | bridgeLaneRepair
  | systemChannelPatrol (stack : Nat) (errors : Nat) | lockstepResynchronised (core : Nat)
  deriving DecidableEq, Repr

/-- What the next step of bring-up finds and is given (R382, R383, R389). -/
structure BringUp where
  /-- failing rows of main memory: pseudo-channel × 64 + bank, and row -/
  rows : List (Nat × Nat)
  /-- VCTL arguments of the march other than zero: cluster, rank, value -/
  vctl : List (Nat × Nat × Word)
  /-- the tables that the arguments' injections predict, by cluster -/
  predicted : List (Nat × List Word)
  /-- clusters whose greatest clock the re-plan lowers, with the clock -/
  slower : List (Nat × Nat)
  /-- pseudo-channels that cannot meet profile G, by stack × 64 + number -/
  weak : List Nat
  /-- ports whose partner declines Shenen -/
  base : List Nat
  deriving DecidableEq, Repr

end Sys2Proof
end

