-- ==== Sys2Proof/Config.lean ====
section
/-! DEFINITION. What is fixed for the machine: the timing profiles (R57), default register values, and the free values, which are constants without a body (log 8, DESIGN CHOICE). -/

namespace Sys2Proof.Config

/-- A free 64-bit value, numbered by the model's counter: nothing constrains it (log 8, DESIGN CHOICE). -/
opaque freeWord : Nat → Word

/-- The secret drawn as `kind` for `world` at the draw of that number (R87, R358): no instruction or register reads it (log 7, DESIGN CHOICE). -/
opaque key : Nat → Nat → Nat → BitVec 256

/-- AES-256 of one block (FIPS 197): the manual names it and does not define it, and its keys are unreadable (log 7, DESIGN CHOICE). -/
opaque aes256 : BitVec 256 → BitVec 128 → BitVec 128

/-- Mask of a scratchpad line under a key: core rank, bank, line (R88): the manual does not give its derivation (log 7, DESIGN CHOICE). -/
opaque scramble : BitVec 256 → Nat → Nat → Nat → BitVec 512

/-- Byte `i` of the HSS signature made with leaf `leaf` over a message of the given digest (R358; log 7, DESIGN CHOICE). -/
opaque signature : BitVec 256 → Nat → Nat → Byte

/-- SHA-256 values of the firmware, fuses and tables that a measurement block reports (R360; log 8, DESIGN CHOICE). -/
opaque measurement : Nat → Nat → BitVec 256

/-- SHA-256 value of a measurement block over tables whose encoding the manual does not give: by index, of the tables' bytes (R360; log 8, DESIGN CHOICE). -/
opaque blockHash : Nat → List Byte → BitVec 256

/-- SHA-256 of the device's HSS public key (R358; log 8, DESIGN CHOICE). -/
opaque deviceIdentity : BitVec 256

/-- The identity of a peer device, by its number (R358, R361; log 8, DESIGN CHOICE). -/
opaque peerIdentity : Nat → BitVec 256

/-- The key that replaces a link key at its n-th rekeying: the manual does not say how the port engine derives it (R102; log 7, DESIGN CHOICE). -/
opaque rekeyed : BitVec 256 → Nat → BitVec 256

/-- Which of the four core dies of a SID holds a bank of a pseudo-channel (R46, R346; log 8, DESIGN CHOICE). -/
opaque dieOf : Nat → Nat → Nat

/-- Word of the payload in which a mailbox command reports the values that it reads: by command, values and index; the manual gives no layout (R379; log 61, DESIGN CHOICE). -/
opaque mailboxWord : Nat → List Nat → Nat → Word

/-- Size of a seal image, of which the manual gives only the bound (R350; log 8, DESIGN CHOICE). -/
opaque imageBytes : Nat → Nat

/-- One Zstandard frame of a plaintext at a level (RFC 8878; R373; log 8, DESIGN CHOICE). -/
opaque zstd : Nat → List Byte → List Byte

/-- What a Zstandard frame decompresses to, if it is one (RFC 8878; R375; log 8, DESIGN CHOICE). -/
opaque unzstd : List Byte → Option (List Byte)

/-- AES-256-GCM (R102, R373): ciphertext and tag of a text under a key, an IV and additional data (log 8, DESIGN CHOICE). -/
opaque gcmSeal : BitVec 256 → BitVec 96 → List Byte → List Byte → List Byte

/-- The text that AES-256-GCM takes from what was sealed, if its tag is right (R375; log 8, DESIGN CHOICE). -/
opaque gcmOpen : BitVec 256 → BitVec 96 → List Byte → List Byte → Option (List Byte)

/-- Byte of the 256-byte header of a stored shard, by epoch, shard index, source list, byte counts and number: the manual gives no layout (R373; log 8, DESIGN CHOICE). -/
opaque shardHeader : Nat → Nat → List Nat → List Nat → Nat → Byte

/-- The source list, and the byte counts of the frames, that a stored shard's header gives (R373, R375; log 8, DESIGN CHOICE). -/
opaque headerSources : List Byte → List Nat
opaque headerCounts : List Byte → List Nat

/-- ML-KEM-1024: byte of the ciphertext that an encapsulation key and a draw give, and the secret that a ciphertext to that key carries (R370, R374; log 8, DESIGN CHOICE). -/
opaque encapsulation : List Byte → Nat → Nat → Byte
opaque kemSecret : List Byte → List Byte → BitVec 256

/-- Byte of a key wrapped under RFC 3394 with a key derived from a secret (R374; log 8, DESIGN CHOICE). -/
opaque keyWrap : BitVec 256 → BitVec 256 → Nat → Byte

/-- Whether an HSS signature over a message of the given digest verifies under an owner's key (R375; log 8, DESIGN CHOICE). -/
opaque hssVerify : List Byte → BitVec 256 → List Byte → Bool

/-- The bytes in which a migrating state, or a part of one, goes over the management channel: the manual gives no encoding (R370; log 8, DESIGN CHOICE). -/
opaque wire {α : Type} : α → List Byte

/-- Spare rows of a bank beyond the one that R81 maps a row to, and the microseconds beyond 100 ms of the notice that a slice is given when a bank has none left (R82, R346; log 8, DESIGN CHOICE). -/
opaque spareRows : Nat
opaque noticeMore : Nat

/-- Whether the part is fused for qualification, which profile N needs (R57; log 8, DESIGN CHOICE). -/
opaque qualified : Bool

/-- One parameter set of the command timeline, in ticks (R57). -/
structure Profile where
  tRCD : Nat
  tRP : Nat
  tRAS : Nat
  tRC : Nat
  tRRDS : Nat
  tRRDL : Nat
  tFAW : Nat
  tCCDS : Nat
  tCCDL : Nat
  tRL : Nat
  tWL : Nat
  tBURST : Nat
  tWR : Nat
  tRTP : Nat
  tWTRS : Nat
  tWTRL : Nat
  tRTW : Nat
  tRFCpb : Nat
  tRFCab : Nat
  tPBR2PBR : Nat
  deriving DecidableEq, Repr

/-- Profile G, which every production part keeps (R57). -/
def profileG : Profile :=
  { tRCD := 26, tRP := 26, tRAS := 56, tRC := 82, tRRDS := 4, tRRDL := 6, tFAW := 24, tCCDS := 2, tCCDL := 4, tRL := 30,
    tWL := 12, tBURST := 2, tWR := 28, tRTP := 10, tWTRS := 8, tWTRL := 14, tRTW := 20, tRFCpb := 200, tRFCab := 560,
    tPBR2PBR := 8 }

/-- Profile N of qualification parts (R57). -/
def profileN : Profile :=
  { profileG with tRCD := 22, tRP := 22, tRAS := 48, tRC := 70, tRL := 28, tWR := 24 }

/-- The profile that MPROF names: 0x47 is G, 0x4E is N (R39, R57). -/
def profile (mprof : Nat) : Profile := if mprof == 0x4E then profileN else profileG

/-- Refresh debt interval (R57, R63). -/
def tREFI : Nat := 6240

/-- Row-open limit (R57, R64). -/
def tRASMAX : Nat := 56160

/-- The default wheel L M L C L M L R L M L C L W W W, position 0 first (R139). -/
def defaultWheel : Word := 0x0000B69651851651

/-- Bytes of a system page: 2 MiB (R45, R163). -/
def pageBytes : Nat := 2097152

/-- Banks of a core and bytes of a bank (R134). -/
def bankBytes : Nat := 65536

end Sys2Proof.Config
end

