-- ==== Sys2Proof/WellFormed.lean ====
section
/-! DEFINITION. Well-formed syllables: the field rules that depend on the syllable's bits alone and whose breach is ILLEG (R7, R18, R19, R23, R24, and each entry). Events carry no encoded field and are always well formed. -/

namespace Sys2Proof

/-- Element width in bits (R20). -/
def VType.bits : VType → Nat
  | .i8 => 8 | .i16 => 16 | .i32 => 32 | .i64 => 64 | .bf16 => 16 | .f16 => 16 | .f32 => 32 | .f64 => 64

/-- The F types (R209). -/
def VType.isF : VType → Bool
  | .bf16 => true | .f16 => true | .f32 => true | .f64 => true
  | .i8 => false | .i16 => false | .i32 => false | .i64 => false

/-- The I types (R209). -/
def VType.isI (t : VType) : Bool := !t.isF

/-- The type named by three bits (R20). -/
def VType.ofBits (b : BitVec 3) : VType :=
  match b.toNat with
  | 0 => .i8 | 1 => .i16 | 2 => .i32 | 3 => .i64 | 4 => .bf16 | 5 => .f16 | 6 => .f32 | _ => .f64

def VType.toBits : VType → BitVec 3
  | .i8 => 0 | .i16 => 1 | .i32 => 2 | .i64 => 3 | .bf16 => 4 | .f16 => 5 | .f32 => 6 | .f64 => 7

/-- Width in bits (R20). -/
def VWidth.bits : VWidth → Nat
  | .w256 => 256 | .w512 => 512 | .w1024 => 1024

/-- The number of elements N of a syllable's range (R206). -/
def VF.count (f : VF) : Nat := f.width.bits / f.ty.bits

/-- A destination code names n0 to n15 or the belt (R19). -/
def dstOk (d : R5) : Bool := d.toNat ≤ 15 || d == 31

/-- The source code of an even named register (R184). -/
def evenSrc (a : R5) : Bool := 16 ≤ a.toNat && a.toNat % 2 == 0

/-- The destination of a two-result instruction (R184, R185). -/
def pairDst (d : R5) : Bool := d == 31 || (d.toNat ≤ 14 && d.toNat % 2 == 0)

/-- Sub-op fields held in vc (R221, R223: op in [7:6]). -/
def vcOp (f : VF) : Nat := (f.vc.extractLsb' 3 2).toNat

namespace SR
def bin (f : SR) : Bool := dstOk f.d && f.c == 0 && f.fn == 0
def un (f : SR) : Bool := f.bin && f.b == 0
def pair (f : SR) : Bool := pairDst f.d && evenSrc f.a && f.c == 0 && f.fn == 0
/-- Rounding-mode field of a floating-point instruction (R186). -/
def rm (f : SR) : Nat := (f.fn.extractLsb' 1 3).toNat
/-- Precision bit: true is f64 (R186). -/
def dbl (f : SR) : Bool := f.fn.getLsbD 0
/-- A floating-point form: `rounds` allows RM 1 to 3, `usesC` allows c, `usesB` allows b (R186). -/
def fp (rounds usesB usesC : Bool) (f : SR) : Bool :=
  dstOk f.d && !f.fn.getLsbD 4 && (if rounds then f.rm ≤ 3 else f.rm == 0) && (usesB || f.b == 0) && (usesC || f.c == 0)
/-- Conversions: kinds 0 to 8, and which of them round (R188). -/
def cvt (f : SR) : Bool :=
  f.b.toNat ≤ 8 &&
    f.fp (match f.b.toNat with
      | 4 => !f.dbl
      | 6 => false
      | 8 => false
      | _ => true) true false
end SR

namespace SI
def shift (f : SI) : Bool := dstOk f.d && f.imm.extractLsb' 6 9 == 0
def any (f : SI) : Bool := dstOk f.d
end SI

namespace VF
/-- Three-register forms: which of vb and vc the entry uses (R211, R213, R214). -/
def regs (usesB usesC : Bool) (f : VF) : Bool := (usesB || f.vb == 0) && (usesC || f.vc == 0)
/-- Source type of vcvt, bits [7:5] of the syllable (R217). -/
def srcTy (f : VF) : VType := VType.ofBits (f.vc.extractLsb' 2 3)
/-- Mode of vcvt, bits [4:3] of the syllable (R217). -/
def cvtMode (f : VF) : Nat := (f.vc.extractLsb' 0 2).toNat
/-- The rules of R217. -/
def cvt (f : VF) : Bool :=
  f.srcTy != f.ty &&
  (match f.cvtMode with
   | 2 => f.ty.isF && f.ty != .f64 && f.srcTy.isF && f.ty.bits < f.srcTy.bits
   | 3 => (f.ty.isI || f.srcTy.isI) && f.vb == 0
   | _ => f.vb == 0)
/-- The rules of R215. -/
def cmp (f : VF) : Bool :=
  !f.dup && f.vd == 0 &&
  (f.vc.toNat ≤ 5 || (f.vc.toNat ≤ 9 && f.ty.isI) || (f.vc.toNat ≤ 11 && 10 ≤ f.vc.toNat && f.ty.isF))
/-- |s| ≤ N of R219. -/
def slide (f : VF) : Bool := f.vc.toInt.natAbs ≤ f.count
end VF

/-- Readable system registers below 0x800 (R39, R40); at or above 0x800 every index may be read. -/
def sysListed (i : Nat) : Bool :=
  i ≤ 5 || (0x10 ≤ i && i ≤ 0x2F) || i == 0x30 || i == 0x31 || (0x40 ≤ i && i ≤ 0x42) || i == 0x60
    || (0x70 ≤ i && i ≤ 0x7F) || i == 0x80 || 0x800 ≤ i

/-- Listed registers whose access is R (R39, R86, R324, R344; log 29, DEDUCED). -/
def sysReadOnly (i : Nat) : Bool :=
  i ≤ 3 || i == 0x30 || i == 0x31 || i == 0x820 || i == 0x829 || i == 0x831 || i == 0x834 || (0x840 ≤ i && i ≤ 0x847)

/-- Registers whose write has a row of its own. -/
def sysOwnRow (i : Nat) : Bool :=
  i == 4 || i == 5 || (0x20 ≤ i && i ≤ 0x2F) || i == 0x60 || (0x70 ≤ i && i ≤ 0x7F) || i == 0x80 || i == 0x828 || i == 0x833

/-- R66: fields that must be zero, and sync F. -/
def MemF.plain (f : MemF) : Bool := f.y == 0 && f.cnt == 0 && f.sync == 15

/-- R168: destination codes of an atomic; 30 means no result. -/
def AtomF.ok (f : AtomF) : Bool := (dstOk f.d || f.d == 30) && f.c == 0

/-- R239: zero fields of an M syllable, by which fields the entry uses. -/
def MF.uses (f : MF) (acc qa qb x y pa pb z ck neg : Bool) : Bool :=
  (acc || f.acc == 0) && (qa || f.qa == 0) && (qb || f.qb == 0) && (x || f.x == 0) && (y || f.y == 0)
    && (pa || !f.pa) && (pb || !f.pb) && (z || !f.z) && (ck || !f.ck) && (neg || !f.neg)

/-- The field rules of every syllable (log 29, DEDUCED). -/
def Instr.wf : Instr → Bool
  | .nop => true
  | .add f | .sub f | .mul f | .mulh f | .mulhu f | .div f | .divu f | .rem f | .remu f
  | .and f | .or f | .xor f | .shl f | .shr f | .sra f | .rotr f | .min f | .max f | .minu f | .maxu f
  | .seq f | .sne f | .slt f | .sltu f | .padd f => f.bin
  | .sel f => dstOk f.d && f.fn == 0
  | .clz f | .ctz f | .popc f | .mov f => f.un
  | .addi f | .andi f | .ori f | .xori f | .slti f | .sltui f | .seqi f => f.any
  | .shli f | .shri f | .srai f | .rotri f => f.shift
  | .ptag f => f.any && f.imm.extractLsb' 0 7 == 0
  | .li f | .lpc f => dstOk f.d
  | .lcat f => f.d.toNat ≤ 15
  | .rng f | .ctradd f => f.pair
  | .msave f => dstOk f.d && f.a == 0 && f.b == 0 && f.c == 0 && f.fn.extractLsb' 2 3 == 0
  | .mrest f => dstOk f.d && f.b == 0 && f.c == 0 && f.fn.extractLsb' 2 3 == 0
  | .mcomb f => dstOk f.d && f.a == 0 && f.b == 0 && f.c == 0 && f.fn.toNat ≤ 7
  | .mcm f => dstOk f.d && f.c == 0 && f.fn.toNat ≤ 3 && (2 ≤ f.fn.toNat || f.b == 0)
  | .fadd f | .fsub f | .fmul f | .fdiv f => f.fp true true false
  | .ffma f => f.fp true true true
  | .fsqrt f => f.fp true false false
  | .fmin f | .fmax f | .feq f | .flt f | .fle f => f.fp false true false
  | .fclass f | .fabs f | .fneg f => f.fp false false false
  | .fcvt f => f.cvt
  | .ldB f | .ldH f | .ldW f | .ldD f | .ldnB f | .ldnH f | .ldnW f => f.any
  | .stB _ | .stH _ | .stW _ | .stD _ => true
  | .vadd f | .vsub f | .vmul f | .vmin f | .vmax f => f.regs true false
  | .vfma f | .vfms f | .vfnma f => f.regs true true
  | .vdiv f => f.ty.isF && f.regs true false
  | .vsqrt f | .vexp2 f | .vlog2 f | .vrcp f | .vrsqrt f => f.ty.isF && f.regs false false
  | .vabs f | .vneg f => f.regs false false
  | .vand f | .vor f | .vxor f | .vshl f | .vshr f | .vsra f | .vminn f | .vmaxn f => f.ty.isI && f.regs true false
  | .vcmp f => f.cmp
  | .vsel f => f.regs true false
  | .vcvt f => f.cvt
  | .vbcst f | .vmov f => f.regs false false
  | .vslide f => f.slide
  | .vperm f => f.regs true false
  | .vscan f => f.vb == 0 && vcOp f != 3
  | .vred f => !f.dup && dstOk f.vd && f.vb == 0 && vcOp f != 3 && f.vc.extractLsb' 0 3 == 0
  | .vpopc f => !f.dup && dstOk f.vd && f.va == 0 && f.vb == 0 && f.vc == 0
  | .vdot4 f => f.ty == .i32
  | .vclass f => f.ty.isF && f.regs false false
  | .vadds f | .vmuls f | .vmins f | .vmaxs f => f.regs false true
  | .vfmas _ => true
  | .vld f | .vlds f => f.vc == 0
  | .vldx f => f.vb == 0
  | .vst f | .vsts f => !f.dup && f.vc == 0
  | .vstx f => !f.dup && f.vb == 0
  | .vacr f => f.vb == 0 && vcOp f == 0
  | .vacw f => !f.dup && f.vb == 0 && vcOp f == 0
  | .mma _ | .mmas _ => true
  | .mzero f => f.uses true false false false false false false false false false
  | .mgeo f => f.uses false false false true false false false false false false
  | .tquant f | .tcast f => f.uses true true false true false false false false false false
  | .mchk f => f.uses true true false true false false false false true false
  | .mscl f => f.uses true false false true false false false false false true
  | .macc f => f.uses true true false true false true false true true true
  | .mact f | .mpre f | .mprea f | .mref f | .mrefa f | .mnop f => f.plain
  | .mrd _ | .mwr _ | .mrdt _ => true
  | .xcpy _ | .xcpyt _ | .xfill _ | .csum _ => true
  | .tscale _ _ | .qcfg _ _ | .qpush _ _ | .qpushRef _ _ | .qpop _ _ | .swset _ _ => true
  | .pput _ => true
  | .pget f => !f.notify
  | .pputv f => f.width != 3
  | .pamo f => f.aop.toNat ≤ 10 && evenSrc f.y && (f.ret || f.q == 0)
  | .cksave _ _ | .ckload _ _ => true
  | .br _ | .brz _ _ | .brnz _ _ | .call _ | .ret | .jmp _ | .endStrand => true
  | .brcm cond _ _ => cond != 3
  | .loop _ off => off != 0
  | .rep _ step => step.extractLsb' 15 3 == 0
  | .qwait _ n => n != 0
  | .qarv _ _ | .swwait _ _ | .phase | .ifence => true
  | .xfence src dst => src != 0 && dst != 0
  | .aadd f | .aand f | .aor f | .axor f | .amin f | .amax f | .aminu f | .amaxu f | .aswp f | .afadd f => f.ok
  | .acas f => dstOk f.d || f.d == 30
  | .cropen mask _ => mask != 0
  | .crclose | .trap _ | .brk _ => true
  | .cmpd _ mask => mask != 0
  | .sysr d idx => dstOk d && sysListed idx.toNat
  | .sysw _ idx => sysListed idx.toNat && !sysReadOnly idx.toNat && !sysOwnRow idx.toNat
  | .bwheelWrite _ _ | .syncRegisterWrite _ _ | .repcWrite _ | .lcWrite _ | .mgWrite _ | .vctlWrite _ | .xinvWrite _
  | .estatWrite _ => true
  | .scrub _ _ _ | .krot _ _ | .mets _ _ | .seal _ _ | .unseal _ _ => true
  | .metr d _ => dstOk d
  -- events
  | .repRepetition _ _ | .atomicPerform _ _ | .resultLanding _ _ | .commandPlay _ _ _ | .grainLanding _ _
  | .lineVerdict _ _ | .lineCommit _ _ | .refreshClock _ _ | .rowOpenLimit _ _ _ | .rowRepair _ _ _ _
  | .withdrawalNotice _ _ _ _ | .layerMapOut _ _ | .channelRetirement _ _ | .withdrawn _ _ _
  | .logicalChannelMove _ _ _ _ | .systemSliceMove _ _ _ _ | .sliceFillComplete _ _ _ _ _ _ | .syncCount _ _
  | .copyComplete _ _ | .matrixOperationStart _ | .matrixOperationRetire _ | .putRequest _ _ _ | .getRequest _ _
  | .pamoRequest _ _ _ _ _ _ | .putAcknowledgement _ _ | .getDataArrival _ _ _ | .pamoReply _ _ _ _ | .csumResult _ _
  | .retryResend _ | .frameAuthFailure _ | .peerLost _ | .linkRekey _ | .bridgeFailure | .peerBinding _ _ _ _
  | .qnotifyWrite _ _ _ | .submissionFetchRetry _ _ | .queueEnable _ _ _ | .queueDisable _ _ | .qconsWrite _ _ _
  | .workgroupStart _ | .strandFinish _ _ | .launchComplete _ _ _ | .coalescingTimeout _ _ | .allowanceExhausted _ _ _
  | .waitLimitSwitch _ | .governorEvaluation | .clusterMove _ | .phaseBoundary _ | .faultDelivery _ _
  | .lockstepMismatch _ | .scratchpadScrub _ _ _ | .sealNoticeEnd _ | .sealStopped _ | .sealDrainComplete _
  | .sealImageCommitted _ | .unsealPlacement _ | .restorePoint _ | .krotComplete _ | .meterStatementSigned _
  | .cksaveComplete _ _ | .ckloadComplete _ _ _ _ | .debugResume _ _ _ | .lockInterfaceRequest _ | .startInterfaceRequest _
  | .stopInterfaceRequest _ | .ideIntegrityFailure _ | .functionLevelReset _ | .spdmSessionLoss _ | .getMeasurements _ _
  | .challenge _ | .keyExchange _ | .pwctlWrite _ _ | .frozenRegisterWrite _ _ _ | .vfConfigWrite _ _ | .meterBind _ _
  | .meterUnbind _ _ | .meterPred _ _ _ _ | .migrationQuiesce _ _ | .migrationArm _ _ | .migrationErase _ _
  | .migrationConfirm _ | .migrationAbort _ | .armedTimeout _ | .escrowRelease _ _ | .drbgReseed | .readTelemetry _
  | .readRepairInventory _ | .stageFirmwareImage _ | .readAgeingRecord _ | .bar2Access _ _ _ _ | .unsupportedRequest _
  | .hearthGrant _ | .voltageReplan _ _ | .reset _ | .remoteTokenArrival _ | .replyAcknowledgement _ _
  | .bridgeLaneRepair | .systemChannelPatrol _ _ | .lockstepResynchronised _ => true

end Sys2Proof
end

