-- ==== Sys2Proof/Decode.lean ====
section
/-! DEFINITION. The decoder of syllables, headers and bundles (R9 to R24), total on any bits and rejecting by name, and the encoder written from the same formats. A rejection is the ILLEG of steps 1 and 2 of R26. -/

namespace Sys2Proof

/-- Why a bundle is rejected, and at which position (0 the header): every one is ILLEG (R7, R12, R14, R17, R21, R24). -/
inductive Reject where
  | headerK | ports | suffix
  | width (pos : Nat) | widthSum | shadow (pos : Nat)
  | opcode (pos : Nat) | field (pos : Nat)
  | notBytes
  deriving DecidableEq, Repr

/-- SLOT of the syndrome of a rejection (R328). -/
def Reject.pos : Reject → Nat
  | .width p => p | .shadow p => p | .opcode p => p | .field p => p
  | .headerK => 0 | .ports => 0 | .suffix => 0 | .widthSum => 0 | .notBytes => 0

def getSR (w : Syl) : SR :=
  { d := w.extractLsb' 20 5, a := w.extractLsb' 15 5, b := w.extractLsb' 10 5, c := w.extractLsb' 5 5, fn := w.extractLsb' 0 5 }
def getSI (w : Syl) : SI := { d := w.extractLsb' 20 5, a := w.extractLsb' 15 5, imm := w.extractLsb' 0 15 }
def getSL (w : Syl) : SL := { d := w.extractLsb' 20 5, imm := w.extractLsb' 0 20 }
def getSS (w : Syl) : SS := { data := w.extractLsb' 20 5, base := w.extractLsb' 15 5, imm := w.extractLsb' 0 15 }

/-- The width field (R20); 0b11 is rejected. -/
def widthOf (b : BitVec 2) : Option VWidth :=
  match b.toNat with
  | 0 => some .w256 | 1 => some .w512 | 2 => some .w1024 | _ => none

def widthBits : VWidth → BitVec 2
  | .w256 => 0 | .w512 => 1 | .w1024 => 2

def getVF (wd : VWidth) (w : Syl) : VF :=
  { width := wd, dup := w.getLsbD 23, vd := w.extractLsb' 18 5, va := w.extractLsb' 13 5, vb := w.extractLsb' 8 5,
    vc := w.extractLsb' 3 5, ty := VType.ofBits (w.extractLsb' 0 3) }

def getMF (w : Syl) : MF :=
  { acc := w.extractLsb' 23 3, qa := w.extractLsb' 19 4, qb := w.extractLsb' 15 4, x := w.extractLsb' 10 5,
    y := w.extractLsb' 5 5, pa := w.getLsbD 4, pb := w.getLsbD 3, z := w.getLsbD 2, ck := w.getLsbD 1, neg := w.getLsbD 0 }

def getMem (w : Syl) : MemF :=
  { x := w.extractLsb' 21 5, y := w.extractLsb' 16 5, delta := w.extractLsb' 8 8, cnt := w.extractLsb' 4 4, sync := w.extractLsb' 0 4 }
def getCopy (w : Syl) : CopyF :=
  { x := w.extractLsb' 21 5, y := w.extractLsb' 16 5, cnt := w.extractLsb' 4 12, sync := w.extractLsb' 0 4 }
def getPut (w : Syl) : PutF :=
  { x := w.extractLsb' 21 5, y := w.extractLsb' 16 5, notify := w.getLsbD 15, cnt := w.extractLsb' 4 11, sync := w.extractLsb' 0 4 }
def getPutv (w : Syl) : PutvF :=
  { x := w.extractLsb' 21 5, y := w.extractLsb' 16 5, notify := w.getLsbD 15, width := w.extractLsb' 13 2, sync := w.extractLsb' 0 4 }
def getPamo (w : Syl) : PamoF :=
  { x := w.extractLsb' 21 5, y := w.extractLsb' 16 5, aop := w.extractLsb' 12 4, wide := w.getLsbD 11, ret := w.getLsbD 10,
    q := w.extractLsb' 4 4, sync := w.extractLsb' 0 4 }
def getAtom (w : Syl) : AtomF :=
  { d := w.extractLsb' 19 5, addr := w.extractLsb' 14 5, v := w.extractLsb' 9 5, c := w.extractLsb' 4 5, wide := w.getLsbD 2 }

/-- The bits of `w` from `lo`, `n` of them, are zero. -/
def zeroBits (w : Syl) (lo n : Nat) : Bool := w.extractLsb' lo n == 0

/-- An instruction under the condition that its unused bits are zero. -/
def onlyIf (b : Bool) (i : Instr) : Option Instr := if b then some i else none

/-- The S-slot map (R24): the syllable that an opcode names. -/
def opS (op : BitVec 7) (w : Syl) : Option Instr :=
  match op.toNat with
  | 0x1 => some (.add (getSR w))
  | 0x2 => some (.sub (getSR w))
  | 0x3 => some (.mul (getSR w))
  | 0x4 => some (.mulh (getSR w))
  | 0x5 => some (.mulhu (getSR w))
  | 0x6 => some (.div (getSR w))
  | 0x7 => some (.divu (getSR w))
  | 0x8 => some (.rem (getSR w))
  | 0x9 => some (.remu (getSR w))
  | 0xa => some (.and (getSR w))
  | 0xb => some (.or (getSR w))
  | 0xc => some (.xor (getSR w))
  | 0xd => some (.shl (getSR w))
  | 0xe => some (.shr (getSR w))
  | 0xf => some (.sra (getSR w))
  | 0x10 => some (.rotr (getSR w))
  | 0x11 => some (.min (getSR w))
  | 0x12 => some (.max (getSR w))
  | 0x13 => some (.minu (getSR w))
  | 0x14 => some (.maxu (getSR w))
  | 0x15 => some (.seq (getSR w))
  | 0x16 => some (.sne (getSR w))
  | 0x17 => some (.slt (getSR w))
  | 0x18 => some (.sltu (getSR w))
  | 0x19 => some (.sel (getSR w))
  | 0x1a => some (.clz (getSR w))
  | 0x1b => some (.ctz (getSR w))
  | 0x1c => some (.popc (getSR w))
  | 0x1d => some (.mov (getSR w))
  | 0x1e => some (.padd (getSR w))
  | 0x34 => some (.rng (getSR w))
  | 0x35 => some (.ctradd (getSR w))
  | 0x36 => some (.msave (getSR w))
  | 0x37 => some (.mrest (getSR w))
  | 0x38 => some (.mcomb (getSR w))
  | 0x39 => some (.mcm (getSR w))
  | 0x40 => some (.fadd (getSR w))
  | 0x41 => some (.fsub (getSR w))
  | 0x42 => some (.fmul (getSR w))
  | 0x43 => some (.ffma (getSR w))
  | 0x44 => some (.fdiv (getSR w))
  | 0x45 => some (.fsqrt (getSR w))
  | 0x46 => some (.fmin (getSR w))
  | 0x47 => some (.fmax (getSR w))
  | 0x48 => some (.feq (getSR w))
  | 0x49 => some (.flt (getSR w))
  | 0x4a => some (.fle (getSR w))
  | 0x4b => some (.fclass (getSR w))
  | 0x4c => some (.fcvt (getSR w))
  | 0x4d => some (.fabs (getSR w))
  | 0x4e => some (.fneg (getSR w))
  | 0x20 => some (.addi (getSI w))
  | 0x21 => some (.andi (getSI w))
  | 0x22 => some (.ori (getSI w))
  | 0x23 => some (.xori (getSI w))
  | 0x24 => some (.shli (getSI w))
  | 0x25 => some (.shri (getSI w))
  | 0x26 => some (.srai (getSI w))
  | 0x27 => some (.rotri (getSI w))
  | 0x28 => some (.slti (getSI w))
  | 0x29 => some (.sltui (getSI w))
  | 0x2a => some (.seqi (getSI w))
  | 0x2b => some (.ptag (getSI w))
  | 0x60 => some (.ldB (getSI w))
  | 0x61 => some (.ldH (getSI w))
  | 0x62 => some (.ldW (getSI w))
  | 0x63 => some (.ldD (getSI w))
  | 0x64 => some (.ldnB (getSI w))
  | 0x65 => some (.ldnH (getSI w))
  | 0x66 => some (.ldnW (getSI w))
  | 0x30 => some (.li (getSL w))
  | 0x31 => some (.lcat (getSL w))
  | 0x32 => some (.lpc (getSL w))
  | 0x68 => some (.stB (getSS w))
  | 0x69 => some (.stH (getSS w))
  | 0x6a => some (.stW (getSS w))
  | 0x6b => some (.stD (getSS w))
  | _ => none

/-- The V-slot map (R24). -/
def opV (op : BitVec 6) (f : VF) : Option Instr :=
  match op.toNat with
  | 0x1 => some (.vadd f)
  | 0x2 => some (.vsub f)
  | 0x3 => some (.vmul f)
  | 0x4 => some (.vfma f)
  | 0x5 => some (.vfms f)
  | 0x6 => some (.vfnma f)
  | 0x7 => some (.vdiv f)
  | 0x8 => some (.vsqrt f)
  | 0x9 => some (.vmin f)
  | 0xa => some (.vmax f)
  | 0xb => some (.vabs f)
  | 0xc => some (.vneg f)
  | 0xd => some (.vexp2 f)
  | 0xe => some (.vlog2 f)
  | 0xf => some (.vrcp f)
  | 0x10 => some (.vrsqrt f)
  | 0x11 => some (.vand f)
  | 0x12 => some (.vor f)
  | 0x13 => some (.vxor f)
  | 0x14 => some (.vshl f)
  | 0x15 => some (.vshr f)
  | 0x16 => some (.vsra f)
  | 0x17 => some (.vcmp f)
  | 0x18 => some (.vsel f)
  | 0x19 => some (.vcvt f)
  | 0x1a => some (.vbcst f)
  | 0x1b => some (.vmov f)
  | 0x1c => some (.vslide f)
  | 0x1d => some (.vperm f)
  | 0x1e => some (.vscan f)
  | 0x1f => some (.vred f)
  | 0x20 => some (.vpopc f)
  | 0x21 => some (.vdot4 f)
  | 0x22 => some (.vclass f)
  | 0x23 => some (.vadds f)
  | 0x24 => some (.vmuls f)
  | 0x25 => some (.vfmas f)
  | 0x26 => some (.vmins f)
  | 0x27 => some (.vmaxs f)
  | 0x28 => some (.vminn f)
  | 0x29 => some (.vmaxn f)
  | 0x30 => some (.vld f)
  | 0x31 => some (.vlds f)
  | 0x32 => some (.vldx f)
  | 0x33 => some (.vst f)
  | 0x34 => some (.vsts f)
  | 0x35 => some (.vstx f)
  | 0x36 => some (.vacr f)
  | 0x37 => some (.vacw f)
  | _ => none

/-- The M-slot map (R24). -/
def opM (op : BitVec 6) (w : Syl) : Option Instr :=
  match op.toNat with
  | 0x1 => some (.mma (getMF w))
  | 0x2 => some (.mmas (getMF w))
  | 0x3 => some (.mzero (getMF w))
  | 0x4 => some (.mgeo (getMF w))
  | 0x5 => some (.tquant (getMF w))
  | 0x6 => some (.tcast (getMF w))
  | 0x7 => some (.mchk (getMF w))
  | 0x8 => some (.mscl (getMF w))
  | 0x9 => some (.macc (getMF w))
  | _ => none


/-- The C-slot map (R24). `none` is a reserved opcode; `some none` a field that must be zero. -/
def opC (op : BitVec 6) (w : Syl) : Option (Option Instr) :=
  match op.toNat with
  | 0x1 => some (some (.mact (getMem w)))
  | 0x2 => some (some (.mpre (getMem w)))
  | 0x3 => some (some (.mprea (getMem w)))
  | 0x4 => some (some (.mrd (getMem w)))
  | 0x5 => some (some (.mwr (getMem w)))
  | 0x6 => some (some (.mref (getMem w)))
  | 0x7 => some (some (.mrefa (getMem w)))
  | 0x8 => some (some (.mrdt (getMem w)))
  | 0x9 => some (some (.mnop (getMem w)))
  | 0x10 => some (some (.xcpy (getCopy w)))
  | 0x11 => some (some (.xcpyt (getCopy w)))
  | 0x12 => some (some (.xfill (getCopy w)))
  | 0x13 => some (onlyIf (zeroBits w 0 16) (.tscale (w.extractLsb' 21 5) (w.extractLsb' 16 5)))
  | 0x18 => some (onlyIf (zeroBits w 4 17) (.qcfg (w.extractLsb' 21 5) (w.extractLsb' 0 4)))
  | 0x19 => some (if w.getLsbD 15 then onlyIf (zeroBits w 8 7 && zeroBits w 16 5) (.qpushRef (w.extractLsb' 21 5) (w.extractLsb' 0 8))
      else onlyIf (zeroBits w 12 14) (.qpush (w.extractLsb' 8 4) (w.extractLsb' 0 8)))
  | 0x1A => some (onlyIf (zeroBits w 12 14) (.qpop (w.extractLsb' 8 4) (w.extractLsb' 0 8)))
  | 0x1B => some (onlyIf (zeroBits w 4 17) (.swset (w.extractLsb' 21 5) (w.extractLsb' 0 4)))
  | 0x20 => some (some (.pput (getPut w)))
  | 0x21 => some (some (.pget (getPut w)))
  | 0x22 => some (onlyIf (zeroBits w 4 9) (.pputv (getPutv w)))
  | 0x23 => some (onlyIf (zeroBits w 8 2) (.pamo (getPamo w)))
  | 0x24 => some (some (.csum (getCopy w)))
  | 0x28 => some (onlyIf (zeroBits w 4 17) (.cksave (w.extractLsb' 21 5) (w.extractLsb' 0 4)))
  | 0x29 => some (onlyIf (zeroBits w 4 17) (.ckload (w.extractLsb' 21 5) (w.extractLsb' 0 4)))
  | _ => none

/-- A `sysw` names the row of the register it writes (R339; rows BWHEEL_WRITE to ESTAT_WRITE of the table). -/
def syswOf (src : R5) (idx : BitVec 12) : Instr :=
  if idx.extractLsb' 4 8 == 0x02 then .bwheelWrite src (idx.extractLsb' 0 4)
  else if idx.extractLsb' 4 8 == 0x07 then .syncRegisterWrite src (idx.extractLsb' 0 4)
  else if idx == 0x004 then .repcWrite src
  else if idx == 0x005 then .lcWrite src
  else if idx == 0x060 then .mgWrite src
  else if idx == 0x080 then .vctlWrite src
  else if idx == 0x828 then .xinvWrite src
  else if idx == 0x833 then .estatWrite src
  else .sysw src idx

/-- The X-slot map (R24). -/
def opX (op : BitVec 8) (w : Syl) : Option (Option Instr) :=
  let atom (mk : AtomF → Instr) : Option (Option Instr) := some (onlyIf (zeroBits w 0 2 && zeroBits w 3 1) (mk (getAtom w)))
  match op.toNat with
  | 0x1 => some (some (.br (w.extractLsb' 0 24)))
  | 0x2 => some (some (.brz (w.extractLsb' 19 5) (w.extractLsb' 0 19)))
  | 0x3 => some (some (.brnz (w.extractLsb' 19 5) (w.extractLsb' 0 19)))
  | 0x4 => some (some (.brcm (w.extractLsb' 22 2) (VType.ofBits (w.extractLsb' 19 3)) (w.extractLsb' 0 19)))
  | 0x5 => some (some (.call (w.extractLsb' 0 24)))
  | 0x6 => some (onlyIf (zeroBits w 0 24) .ret)
  | 0x7 => some (onlyIf (zeroBits w 0 19) (.jmp (w.extractLsb' 19 5)))
  | 0x8 => some (some (.loop (w.extractLsb' 19 5) (w.extractLsb' 0 19)))
  | 0x9 => some (some (.rep (w.extractLsb' 18 6) (w.extractLsb' 0 18)))
  | 0xA => some (onlyIf (zeroBits w 0 24) .endStrand)
  | 0x10 => some (onlyIf (zeroBits w 0 8) (.qwait (w.extractLsb' 20 4) (w.extractLsb' 8 12)))
  | 0x11 => some (onlyIf (zeroBits w 0 12) (.qarv (w.extractLsb' 20 4) (w.extractLsb' 12 8)))
  | 0x12 => some (onlyIf (zeroBits w 0 15) (.swwait (w.extractLsb' 20 4) (w.extractLsb' 15 5)))
  | 0x13 => some (onlyIf (zeroBits w 0 24) .phase)
  | 0x14 => some (onlyIf (zeroBits w 0 10) (.xfence (w.extractLsb' 17 7) (w.extractLsb' 10 7)))
  | 0x15 => some (onlyIf (zeroBits w 0 24) .ifence)
  | 0x20 => atom .aadd
  | 0x21 => atom .aand
  | 0x22 => atom .aor
  | 0x23 => atom .axor
  | 0x24 => atom .amin
  | 0x25 => atom .amax
  | 0x26 => atom .aminu
  | 0x27 => atom .amaxu
  | 0x28 => atom .aswp
  | 0x29 => atom .acas
  | 0x2A => atom .afadd
  | 0x30 => some (some (.cropen (w.extractLsb' 16 8) (w.extractLsb' 0 16)))
  | 0x31 => some (onlyIf (zeroBits w 0 24) .crclose)
  | 0x32 => some (onlyIf (zeroBits w 0 11) (.cmpd (w.extractLsb' 19 5) (w.extractLsb' 11 8)))
  | 0x33 => some (onlyIf (zeroBits w 16 8) (.trap (w.extractLsb' 0 16)))
  | 0x34 => some (onlyIf (zeroBits w 16 8) (.brk (w.extractLsb' 0 16)))
  | 0x35 => some (onlyIf (zeroBits w 0 7) (.sysr (w.extractLsb' 19 5) (w.extractLsb' 7 12)))
  | 0x36 => some (onlyIf (zeroBits w 0 7) (syswOf (w.extractLsb' 19 5) (w.extractLsb' 7 12)))
  | 0x40 => some (onlyIf (zeroBits w 0 10) (.scrub (w.extractLsb' 19 5) (w.extractLsb' 14 5) (w.extractLsb' 10 4)))
  | 0x41 => some (onlyIf (zeroBits w 0 15) (.krot (w.extractLsb' 19 5) (w.extractLsb' 15 4)))
  | 0x42 => some (onlyIf (zeroBits w 0 14) (.metr (w.extractLsb' 19 5) (w.extractLsb' 14 5)))
  | 0x43 => some (onlyIf (zeroBits w 0 15) (.mets (w.extractLsb' 19 5) (w.extractLsb' 15 4)))
  | 0x44 => some (onlyIf (zeroBits w 0 15) (.seal (w.extractLsb' 19 5) (w.extractLsb' 15 4)))
  | 0x45 => some (onlyIf (zeroBits w 0 15) (.unseal (w.extractLsb' 19 5) (w.extractLsb' 15 4)))
  | _ => none

/-- What the raw opcode maps give: no such opcode, a field that must be zero, or a syllable whose other field rules are still to be checked (log 85, DESIGN CHOICE). -/
def rawSyl (cls : SlotClass) (w : Syl) : Option (Option Instr) :=
  match cls with
  | .s => (opS (w.extractLsb' 25 7) w).map some
  | .v => (widthOf (w.extractLsb' 24 2)).bind fun wd => (opV (w.extractLsb' 26 6) (getVF wd w)).map some
  | .m => (opM (w.extractLsb' 26 6) w).map some
  | .c => opC (w.extractLsb' 26 6) w
  | .x => opX (w.extractLsb' 24 8) w

/-- One syllable of a slot class; the all-zero syllable is nop (R11). -/
def decodeSyl (cls : SlotClass) (pos : Nat) (w : Syl) : Except Reject Instr :=
  if w == 0 then .ok .nop
  else
    match rawSyl cls w with
    | none => .error (.opcode pos)
    | some none => .error (.field pos)
    | some (some i) => if i.wf then .ok i else .error (.field pos)

/-- The header syllable (R12). -/
structure Header where
  k : Bool
  gap : Nat
  yield : Bool
  ports : List Nat
  aslot : Nat
  aring : BitVec 4
  bslot : Nat
  bring : BitVec 4
  deriving DecidableEq, Repr

/-- The header of the all-zero syllable. -/
def Header.zero : Header :=
  { k := false, gap := 0, yield := false, ports := [0, 0, 0, 0], aslot := 0, aring := 0, bslot := 0, bring := 0 }

def getHeader (w : Syl) : Header :=
  { k := w.getLsbD 31, gap := (w.extractLsb' 27 4).toNat, yield := w.getLsbD 26,
    ports := [(w.extractLsb' 23 3).toNat, (w.extractLsb' 20 3).toNat, (w.extractLsb' 17 3).toNat, (w.extractLsb' 14 3).toNat],
    aslot := (w.extractLsb' 11 3).toNat, aring := w.extractLsb' 7 4, bslot := (w.extractLsb' 4 3).toNat, bring := w.extractLsb' 0 4 }

/-- A decoded bundle: its header and the syllables that are not nop, in position order (R9). -/
structure Bundle where
  hdr : Header
  syls : List (Slot × Instr)
  deriving DecidableEq, Repr

/-- Which vector operands a, b and c a V syllable reads (R13, R209, R213, R226, R232). -/
def Instr.vectorReads : Instr → Bool × Bool × Bool
  | .vadd _ | .vsub _ | .vmul _ | .vdiv _ | .vmin _ | .vmax _ | .vand _ | .vor _ | .vxor _ | .vshl _ | .vshr _ | .vsra _
  | .vcmp _ | .vsel _ | .vslide _ | .vperm _ | .vminn _ | .vmaxn _ => (true, true, false)
  | .vfma _ | .vfms _ | .vfnma _ | .vdot4 _ => (true, true, true)
  | .vsqrt _ | .vabs _ | .vneg _ | .vexp2 _ | .vlog2 _ | .vrcp _ | .vrsqrt _ | .vmov _ | .vscan _ | .vred _ | .vclass _ =>
    (true, false, false)
  | .vcvt f => (true, f.cvtMode == 2, false)
  | .vadds _ | .vmuls _ | .vfmas _ | .vmins _ | .vmaxs _ => (false, false, true)
  | .vldx _ => (false, false, true)
  | .vst _ | .vsts _ | .vacw _ => (true, false, false)
  | .vstx _ => (true, false, true)
  | _ => (false, false, false)

/-- Requester codes of a slot's vector reads (R13). -/
def requesters (base : Nat) (r : Bool × Bool × Bool) : List Nat :=
  (if r.1 then [base] else []) ++ (if r.2.1 then [base + 1] else []) ++ (if r.2.2 then [base + 2] else [])

/-- The requesters that a bundle's syllables need (R13, R14). -/
def neededPorts (syls : List (Slot × Instr)) : List Nat :=
  syls.flatMap fun p =>
    match p.1 with
    | .v0 => requesters 1 p.2.vectorReads
    | .v1 => requesters 4 p.2.vectorReads
    | .c => match p.2 with
      | .pputv _ => [7]
      | _ => []
    | _ => []

/-- Every read has exactly one port and every port names a read (R14). -/
def portsOk (h : Header) (syls : List (Slot × Instr)) : Bool :=
  let used := h.ports.filter (· != 0)
  let need := neededPorts syls
  used.all (need.contains ·) && need.all (fun r => used.count r == 1)

/-- The slot of a suffix code (R15). -/
def suffixSlot (code : Nat) : Option Slot :=
  match code with
  | 1 => some .s0 | 2 => some .s1 | 3 => some .v0 | 4 => some .v1 | 5 => some .m | 6 => some .c | 7 => some .x | _ => none

/-- One suffix: with slot code none its ring is zero; otherwise the slot holds a syllable (R17). `held` says which slots hold a syllable other than nop. -/
def suffixOk (held : Slot → Bool) (code : Nat) (ring : BitVec 4) : Bool :=
  match suffixSlot code with
  | none => ring == 0
  | some sl => held sl

def suffixesOk (h : Header) (held : Slot → Bool) : Bool :=
  suffixOk held h.aslot h.aring && suffixOk held h.bslot h.bring
    && !(h.aslot != 0 && h.aslot == h.bslot && h.aring == h.bring)

/-- The instructions whose result goes to a vector register, for the D bit (R21, R208). -/
def Instr.hasVectorDest : Instr → Bool
  | .vcmp _ | .vred _ | .vpopc _ | .vst _ | .vsts _ | .vstx _ | .vacw _ => false
  | _ => true

/-- The eight words of a bundle, little-endian (R9). -/
def wordsOf : List Byte → List Syl
  | a :: b :: c :: d :: rest => (d ++ c ++ b ++ a) :: wordsOf rest
  | _ => []

/-- The slots with the words that follow the header. -/
def slotWords (ws : List Syl) : List (Slot × Syl) := [Slot.s0, .s1, .v0, .v1, .m, .c, .x].zip ws

/-- Width and shadow rules of the raw V syllables (R20, R21), checked before the opcodes (R26 step 1). -/
def widthRules (ws : List (Slot × Syl)) : Option Reject :=
  let vs := ws.filter fun p => p.1.cls == .v && p.2 != 0
  match vs.find? (fun p => p.2.extractLsb' 24 2 == 3) with
  | some p => some (.width p.1.pos)
  | none =>
    let total := vs.foldl (fun n p => n + (256 <<< (p.2.extractLsb' 24 2).toNat)) 0
    if total > 1024 then some .widthSum
    else
      match vs.find? (fun p => p.2.getLsbD 23 &&
          match rawSyl .v p.2 with
          | some (some i) => !i.hasVectorDest
          | _ => false) with
      | some p => some (.shadow p.1.pos)
      | none => none

/-- Decode the syllables in position order, reporting the first rejection (R26 step 2). -/
def decodeSyls : List (Slot × Syl) → Except Reject (List (Slot × Instr))
  | [] => .ok []
  | (sl, w) :: rest =>
    match decodeSyl sl.cls sl.pos w with
    | .error e => .error e
    | .ok i =>
      match decodeSyls rest with
      | .error e => .error e
      | .ok is => .ok (if i == .nop then is else (sl, i) :: is)

/-- The syllables as far as the opcode maps name them, for the port rules of the header (R14). A syllable whose fields no opcode row admits, as a V syllable of width 0b11 or a pputv with a non-zero reserved field, counts as reading no vector register here, so a port allotted to it is a fault of the header (R26; log 85, DESIGN CHOICE). -/
def rawSyls (ws : List (Slot × Syl)) : List (Slot × Instr) :=
  ws.filterMap fun p =>
    match rawSyl p.1.cls p.2 with
    | some (some i) => some (p.1, i)
    | _ => none

/-- Steps 1 and 2 of R26 on the eight words of a bundle. -/
def decodeWords (hdr : Syl) (rest : List Syl) : Except Reject Bundle :=
  let h := getHeader hdr
  let ws := slotWords rest
  if h.k then .error .headerK
  else if !portsOk h (rawSyls ws) then .error .ports
  else if !suffixesOk h (fun sl => ws.any fun p => p.1 == sl && p.2 != 0) then .error .suffix
  else
    match widthRules ws with
    | some e => .error e
    | none =>
      match decodeSyls ws with
      | .error e => .error e
      | .ok is => .ok { hdr := h, syls := is }

/-- A bundle from its 32 bytes. -/
def decodeBundle (bytes : List Byte) : Except Reject Bundle :=
  match wordsOf (bytes.take 32) with
  | hdr :: rest => if rest.length == 7 then decodeWords hdr rest else .error .notBytes
  | [] => .error .notBytes

/-! ### The encoder -/

def bit (b : Bool) : BitVec 1 := if b then 1 else 0

def putSR (op : BitVec 7) (f : SR) : Syl := op ++ f.d ++ f.a ++ f.b ++ f.c ++ f.fn
def putSI (op : BitVec 7) (f : SI) : Syl := op ++ f.d ++ f.a ++ f.imm
def putSL (op : BitVec 7) (f : SL) : Syl := op ++ f.d ++ f.imm
def putSS (op : BitVec 7) (f : SS) : Syl := op ++ f.data ++ f.base ++ f.imm
def putVF (op : BitVec 6) (f : VF) : Syl :=
  op ++ widthBits f.width ++ bit f.dup ++ f.vd ++ f.va ++ f.vb ++ f.vc ++ f.ty.toBits
def putMF (op : BitVec 6) (f : MF) : Syl :=
  op ++ f.acc ++ f.qa ++ f.qb ++ f.x ++ f.y ++ bit f.pa ++ bit f.pb ++ bit f.z ++ bit f.ck ++ bit f.neg
def putMem (op : BitVec 6) (f : MemF) : Syl := op ++ f.x ++ f.y ++ f.delta ++ f.cnt ++ f.sync
def putCopy (op : BitVec 6) (f : CopyF) : Syl := op ++ f.x ++ f.y ++ f.cnt ++ f.sync
def putAtom (op : BitVec 8) (f : AtomF) : Syl :=
  op ++ f.d ++ f.addr ++ f.v ++ f.c ++ (0 : BitVec 1) ++ bit f.wide ++ (0 : BitVec 2)
def putSysw (src : R5) (idx : BitVec 12) : Syl := (0x36 : BitVec 8) ++ src ++ idx ++ (0 : BitVec 7)

/-- The S syllable of an instruction (R18). -/
def encS : Instr → Option Syl
  | .nop => some 0
  | .add f => some (putSR 0x1 f)
  | .sub f => some (putSR 0x2 f)
  | .mul f => some (putSR 0x3 f)
  | .mulh f => some (putSR 0x4 f)
  | .mulhu f => some (putSR 0x5 f)
  | .div f => some (putSR 0x6 f)
  | .divu f => some (putSR 0x7 f)
  | .rem f => some (putSR 0x8 f)
  | .remu f => some (putSR 0x9 f)
  | .and f => some (putSR 0xa f)
  | .or f => some (putSR 0xb f)
  | .xor f => some (putSR 0xc f)
  | .shl f => some (putSR 0xd f)
  | .shr f => some (putSR 0xe f)
  | .sra f => some (putSR 0xf f)
  | .rotr f => some (putSR 0x10 f)
  | .min f => some (putSR 0x11 f)
  | .max f => some (putSR 0x12 f)
  | .minu f => some (putSR 0x13 f)
  | .maxu f => some (putSR 0x14 f)
  | .seq f => some (putSR 0x15 f)
  | .sne f => some (putSR 0x16 f)
  | .slt f => some (putSR 0x17 f)
  | .sltu f => some (putSR 0x18 f)
  | .sel f => some (putSR 0x19 f)
  | .clz f => some (putSR 0x1a f)
  | .ctz f => some (putSR 0x1b f)
  | .popc f => some (putSR 0x1c f)
  | .mov f => some (putSR 0x1d f)
  | .padd f => some (putSR 0x1e f)
  | .rng f => some (putSR 0x34 f)
  | .ctradd f => some (putSR 0x35 f)
  | .msave f => some (putSR 0x36 f)
  | .mrest f => some (putSR 0x37 f)
  | .mcomb f => some (putSR 0x38 f)
  | .mcm f => some (putSR 0x39 f)
  | .fadd f => some (putSR 0x40 f)
  | .fsub f => some (putSR 0x41 f)
  | .fmul f => some (putSR 0x42 f)
  | .ffma f => some (putSR 0x43 f)
  | .fdiv f => some (putSR 0x44 f)
  | .fsqrt f => some (putSR 0x45 f)
  | .fmin f => some (putSR 0x46 f)
  | .fmax f => some (putSR 0x47 f)
  | .feq f => some (putSR 0x48 f)
  | .flt f => some (putSR 0x49 f)
  | .fle f => some (putSR 0x4a f)
  | .fclass f => some (putSR 0x4b f)
  | .fcvt f => some (putSR 0x4c f)
  | .fabs f => some (putSR 0x4d f)
  | .fneg f => some (putSR 0x4e f)
  | .addi f => some (putSI 0x20 f)
  | .andi f => some (putSI 0x21 f)
  | .ori f => some (putSI 0x22 f)
  | .xori f => some (putSI 0x23 f)
  | .shli f => some (putSI 0x24 f)
  | .shri f => some (putSI 0x25 f)
  | .srai f => some (putSI 0x26 f)
  | .rotri f => some (putSI 0x27 f)
  | .slti f => some (putSI 0x28 f)
  | .sltui f => some (putSI 0x29 f)
  | .seqi f => some (putSI 0x2a f)
  | .ptag f => some (putSI 0x2b f)
  | .ldB f => some (putSI 0x60 f)
  | .ldH f => some (putSI 0x61 f)
  | .ldW f => some (putSI 0x62 f)
  | .ldD f => some (putSI 0x63 f)
  | .ldnB f => some (putSI 0x64 f)
  | .ldnH f => some (putSI 0x65 f)
  | .ldnW f => some (putSI 0x66 f)
  | .li f => some (putSL 0x30 f)
  | .lcat f => some (putSL 0x31 f)
  | .lpc f => some (putSL 0x32 f)
  | .stB f => some (putSS 0x68 f)
  | .stH f => some (putSS 0x69 f)
  | .stW f => some (putSS 0x6a f)
  | .stD f => some (putSS 0x6b f)
  | _ => none

/-- The V syllable of an instruction (R20). -/
def encV : Instr → Option Syl
  | .nop => some 0
  | .vadd f => some (putVF 0x1 f)
  | .vsub f => some (putVF 0x2 f)
  | .vmul f => some (putVF 0x3 f)
  | .vfma f => some (putVF 0x4 f)
  | .vfms f => some (putVF 0x5 f)
  | .vfnma f => some (putVF 0x6 f)
  | .vdiv f => some (putVF 0x7 f)
  | .vsqrt f => some (putVF 0x8 f)
  | .vmin f => some (putVF 0x9 f)
  | .vmax f => some (putVF 0xa f)
  | .vabs f => some (putVF 0xb f)
  | .vneg f => some (putVF 0xc f)
  | .vexp2 f => some (putVF 0xd f)
  | .vlog2 f => some (putVF 0xe f)
  | .vrcp f => some (putVF 0xf f)
  | .vrsqrt f => some (putVF 0x10 f)
  | .vand f => some (putVF 0x11 f)
  | .vor f => some (putVF 0x12 f)
  | .vxor f => some (putVF 0x13 f)
  | .vshl f => some (putVF 0x14 f)
  | .vshr f => some (putVF 0x15 f)
  | .vsra f => some (putVF 0x16 f)
  | .vcmp f => some (putVF 0x17 f)
  | .vsel f => some (putVF 0x18 f)
  | .vcvt f => some (putVF 0x19 f)
  | .vbcst f => some (putVF 0x1a f)
  | .vmov f => some (putVF 0x1b f)
  | .vslide f => some (putVF 0x1c f)
  | .vperm f => some (putVF 0x1d f)
  | .vscan f => some (putVF 0x1e f)
  | .vred f => some (putVF 0x1f f)
  | .vpopc f => some (putVF 0x20 f)
  | .vdot4 f => some (putVF 0x21 f)
  | .vclass f => some (putVF 0x22 f)
  | .vadds f => some (putVF 0x23 f)
  | .vmuls f => some (putVF 0x24 f)
  | .vfmas f => some (putVF 0x25 f)
  | .vmins f => some (putVF 0x26 f)
  | .vmaxs f => some (putVF 0x27 f)
  | .vminn f => some (putVF 0x28 f)
  | .vmaxn f => some (putVF 0x29 f)
  | .vld f => some (putVF 0x30 f)
  | .vlds f => some (putVF 0x31 f)
  | .vldx f => some (putVF 0x32 f)
  | .vst f => some (putVF 0x33 f)
  | .vsts f => some (putVF 0x34 f)
  | .vstx f => some (putVF 0x35 f)
  | .vacr f => some (putVF 0x36 f)
  | .vacw f => some (putVF 0x37 f)
  | _ => none

/-- The M syllable of an instruction (R22). -/
def encM : Instr → Option Syl
  | .nop => some 0
  | .mma f => some (putMF 0x1 f)
  | .mmas f => some (putMF 0x2 f)
  | .mzero f => some (putMF 0x3 f)
  | .mgeo f => some (putMF 0x4 f)
  | .tquant f => some (putMF 0x5 f)
  | .tcast f => some (putMF 0x6 f)
  | .mchk f => some (putMF 0x7 f)
  | .mscl f => some (putMF 0x8 f)
  | .macc f => some (putMF 0x9 f)
  | _ => none

/-- The C syllable of an instruction (R23 and the entries). -/
def encC : Instr → Option Syl
  | .nop => some 0
  | .mact f => some (putMem 0x1 f)
  | .mpre f => some (putMem 0x2 f)
  | .mprea f => some (putMem 0x3 f)
  | .mrd f => some (putMem 0x4 f)
  | .mwr f => some (putMem 0x5 f)
  | .mref f => some (putMem 0x6 f)
  | .mrefa f => some (putMem 0x7 f)
  | .mrdt f => some (putMem 0x8 f)
  | .mnop f => some (putMem 0x9 f)
  | .xcpy f => some (putCopy 0x10 f)
  | .xcpyt f => some (putCopy 0x11 f)
  | .xfill f => some (putCopy 0x12 f)
  | .csum f => some (putCopy 0x24 f)
  | .tscale x y => some ((0x13 : BitVec 6) ++ x ++ y ++ (0 : BitVec 16))
  | .qcfg x q => some ((0x18 : BitVec 6) ++ x ++ (0 : BitVec 17) ++ q)
  | .qpush q n => some ((0x19 : BitVec 6) ++ (0 : BitVec 14) ++ q ++ n)
  | .qpushRef x n => some ((0x19 : BitVec 6) ++ x ++ (0x80 : BitVec 13) ++ n)
  | .qpop q n => some ((0x1A : BitVec 6) ++ (0 : BitVec 14) ++ q ++ n)
  | .swset x k => some ((0x1B : BitVec 6) ++ x ++ (0 : BitVec 17) ++ k)
  | .pput f => some ((0x20 : BitVec 6) ++ f.x ++ f.y ++ bit f.notify ++ f.cnt ++ f.sync)
  | .pget f => some ((0x21 : BitVec 6) ++ f.x ++ f.y ++ bit f.notify ++ f.cnt ++ f.sync)
  | .pputv f => some ((0x22 : BitVec 6) ++ f.x ++ f.y ++ bit f.notify ++ f.width ++ (0 : BitVec 9) ++ f.sync)
  | .pamo f => some ((0x23 : BitVec 6) ++ f.x ++ f.y ++ f.aop ++ bit f.wide ++ bit f.ret ++ (0 : BitVec 2) ++ f.q ++ f.sync)
  | .cksave x k => some ((0x28 : BitVec 6) ++ x ++ (0 : BitVec 17) ++ k)
  | .ckload x k => some ((0x29 : BitVec 6) ++ x ++ (0 : BitVec 17) ++ k)
  | _ => none

/-- The X syllable of an instruction (the entries of the X-slot map). -/
def encX : Instr → Option Syl
  | .nop => some 0
  | .br off => some ((0x01 : BitVec 8) ++ off)
  | .brz a off => some ((0x02 : BitVec 8) ++ a ++ off)
  | .brnz a off => some ((0x03 : BitVec 8) ++ a ++ off)
  | .brcm cond ty off => some ((0x04 : BitVec 8) ++ cond ++ ty.toBits ++ off)
  | .call off => some ((0x05 : BitVec 8) ++ off)
  | .ret => some 0x06000000
  | .jmp a => some ((0x07 : BitVec 8) ++ a ++ (0 : BitVec 19))
  | .loop a off => some ((0x08 : BitVec 8) ++ a ++ off)
  | .rep n step => some ((0x09 : BitVec 8) ++ n ++ step)
  | .endStrand => some 0x0A000000
  | .qwait q n => some ((0x10 : BitVec 8) ++ q ++ n ++ (0 : BitVec 8))
  | .qarv q n => some ((0x11 : BitVec 8) ++ q ++ n ++ (0 : BitVec 12))
  | .swwait k g => some ((0x12 : BitVec 8) ++ k ++ g ++ (0 : BitVec 15))
  | .phase => some 0x13000000
  | .xfence src dst => some ((0x14 : BitVec 8) ++ src ++ dst ++ (0 : BitVec 10))
  | .ifence => some 0x15000000
  | .aadd f => some (putAtom 0x20 f)
  | .aand f => some (putAtom 0x21 f)
  | .aor f => some (putAtom 0x22 f)
  | .axor f => some (putAtom 0x23 f)
  | .amin f => some (putAtom 0x24 f)
  | .amax f => some (putAtom 0x25 f)
  | .aminu f => some (putAtom 0x26 f)
  | .amaxu f => some (putAtom 0x27 f)
  | .aswp f => some (putAtom 0x28 f)
  | .acas f => some (putAtom 0x29 f)
  | .afadd f => some (putAtom 0x2a f)
  | .cropen mask off => some ((0x30 : BitVec 8) ++ mask ++ off)
  | .crclose => some 0x31000000
  | .cmpd reg mask => some ((0x32 : BitVec 8) ++ reg ++ mask ++ (0 : BitVec 11))
  | .trap imm => some ((0x33 : BitVec 8) ++ (0 : BitVec 8) ++ imm)
  | .brk imm => some ((0x34 : BitVec 8) ++ (0 : BitVec 8) ++ imm)
  | .sysr d idx => some ((0x35 : BitVec 8) ++ d ++ idx ++ (0 : BitVec 7))
  | .sysw src idx => some (putSysw src idx)
  | .bwheelWrite src k => some (putSysw src ((0x02 : BitVec 8) ++ k))
  | .syncRegisterWrite src k => some (putSysw src ((0x07 : BitVec 8) ++ k))
  | .repcWrite src => some (putSysw src 0x004)
  | .lcWrite src => some (putSysw src 0x005)
  | .mgWrite src => some (putSysw src 0x060)
  | .vctlWrite src => some (putSysw src 0x080)
  | .xinvWrite src => some (putSysw src 0x828)
  | .estatWrite src => some (putSysw src 0x833)
  | .scrub a len k => some ((0x40 : BitVec 8) ++ a ++ len ++ k ++ (0 : BitVec 10))
  | .krot a k => some ((0x41 : BitVec 8) ++ a ++ k ++ (0 : BitVec 15))
  | .metr d a => some ((0x42 : BitVec 8) ++ d ++ a ++ (0 : BitVec 14))
  | .mets a k => some ((0x43 : BitVec 8) ++ a ++ k ++ (0 : BitVec 15))
  | .seal a k => some ((0x44 : BitVec 8) ++ a ++ k ++ (0 : BitVec 15))
  | .unseal a k => some ((0x45 : BitVec 8) ++ a ++ k ++ (0 : BitVec 15))
  | _ => none

/-- The syllable of an instruction in a slot class. -/
def encode (cls : SlotClass) (i : Instr) : Option Syl :=
  match cls with
  | .s => encS i | .v => encV i | .m => encM i | .c => encC i | .x => encX i

/-- The slot that the assembler gives a lone syllable (R44); nop goes to S0. -/
def Instr.homeSlot (i : Instr) : Option Slot :=
  if (encS i).isSome then some .s0
  else if (encV i).isSome then some .v0
  else if (encM i).isSome then some .m
  else if (encC i).isSome then some .c
  else if (encX i).isSome then some .x
  else none

/-! ### Stepping of a repeated bundle (R200, R201, R203) -/

/-- The step bits in order: slot, lowest bit of the field in the syllable, greatest value (R203; log 24, DEDUCED). -/
def stepFields : List (Slot × Nat × Nat) :=
  [(.v0, 18, 31), (.v0, 13, 31), (.v0, 8, 31), (.v0, 3, 31), (.v1, 18, 31), (.v1, 13, 31), (.v1, 8, 31), (.v1, 3, 31),
   (.s0, 20, 31), (.s0, 15, 31), (.s0, 10, 31), (.s1, 20, 31), (.s1, 15, 31), (.s1, 10, 31), (.m, 23, 7)]

/-- Whether the field that starts at bit `lo` of an S, V or M syllable is one of its register fields (R201; log 24, DEDUCED). -/
def Instr.regField (i : Instr) (lo : Nat) : Bool :=
  match i with
  | .add _ | .sub _ | .mul _ | .mulh _ | .mulhu _ | .div _ | .divu _ | .rem _ | .remu _ | .and _ | .or _ | .xor _ | .shl _
  | .shr _ | .sra _ | .rotr _ | .min _ | .max _ | .minu _ | .maxu _ | .seq _ | .sne _ | .slt _ | .sltu _ | .sel _ | .padd _
  | .rng _ | .ctradd _ | .fadd _ | .fsub _ | .fmul _ | .ffma _ | .fdiv _ | .fmin _ | .fmax _ | .feq _ | .flt _ | .fle _ =>
    lo == 20 || lo == 15 || lo == 10
  | .clz _ | .ctz _ | .popc _ | .mov _ | .addi _ | .andi _ | .ori _ | .xori _ | .shli _ | .shri _ | .srai _ | .rotri _
  | .slti _ | .sltui _ | .seqi _ | .ptag _ | .mrest _ | .fsqrt _ | .fclass _ | .fcvt _ | .fabs _ | .fneg _
  | .ldB _ | .ldH _ | .ldW _ | .ldD _ | .ldnB _ | .ldnH _ | .ldnW _ | .stB _ | .stH _ | .stW _ | .stD _ =>
    lo == 20 || lo == 15
  | .li _ | .lcat _ | .lpc _ | .msave _ | .mcomb _ => lo == 20
  | .mcm f => lo == 20 || lo == 15 || (lo == 10 && 2 ≤ f.fn.toNat)
  | .vadd _ | .vsub _ | .vmul _ | .vdiv _ | .vmin _ | .vmax _ | .vand _ | .vor _ | .vxor _ | .vshl _ | .vshr _ | .vsra _
  | .vsel _ | .vslide _ | .vperm _ | .vminn _ | .vmaxn _ => lo == 18 || lo == 13 || lo == 8
  | .vfma _ | .vfms _ | .vfnma _ | .vdot4 _ | .vfmas _ => lo == 18 || lo == 13 || lo == 8 || lo == 3
  | .vsqrt _ | .vabs _ | .vneg _ | .vexp2 _ | .vlog2 _ | .vrcp _ | .vrsqrt _ | .vmov _ | .vbcst _ | .vscan _ | .vred _
  | .vclass _ | .vacr _ | .vacw _ => lo == 18 || lo == 13
  | .vcvt f => lo == 18 || lo == 13 || (lo == 8 && f.cvtMode == 2)
  | .vcmp _ => lo == 13 || lo == 8
  | .vpopc _ => lo == 18
  | .vadds _ | .vmuls _ | .vmins _ | .vmaxs _ | .vldx _ | .vstx _ => lo == 18 || lo == 13 || lo == 3
  | .vld _ | .vlds _ | .vst _ | .vsts _ => lo == 18 || lo == 13 || lo == 8
  | .mma _ | .mmas _ | .mzero _ | .tquant _ | .tcast _ | .mchk _ | .mscl _ | .macc _ => lo == 23
  | _ => false

/-- Whether every selected step bit of a slot names a register field of its syllable; a nop has none (R201, second case). -/
def stepUsable (step : BitVec 18) (sl : Slot) (i : Instr) : Bool :=
  (stepFields.zipIdx).all fun p => !step.getLsbD p.2 || p.1.1 != sl || i.regField p.1.2.1

/-- Add `i` to one field of a slot's word; `none` when the value passes the field's range (R200, R201; log 24, DEDUCED). -/
def stepField : List (Slot × Syl) → Slot × Nat × Nat → Nat → Option (List (Slot × Syl))
  | [], _, _ => some []
  | (sl, w) :: rest, fld, i =>
    match stepField rest fld i with
    | none => none
    | some rest' =>
      if sl == fld.1 then
        let cur := (w >>> fld.2.1).toNat % (fld.2.2 + 1)
        if cur + i > fld.2.2 then none else some ((sl, w + BitVec.ofNat 32 (i <<< fld.2.1)) :: rest')
      else some ((sl, w) :: rest')

/-- The words of repetition `i`, and the slots of which a stepped field passes its range, which stays as it is (R200, R201). -/
def stepWords (step : BitVec 18) (i : Nat) (ws : List (Slot × Syl)) : List (Slot × Syl) × List Slot :=
  (stepFields.zipIdx).foldl (fun acc p =>
    if step.getLsbD p.2 then
      match stepField acc.1 p.1 i with
      | some w => (w, acc.2)
      | none => (acc.1, p.1.1 :: acc.2)
    else acc) (ws, [])

/-! ### The table's words -/

/-- The eight words of a 256-bit number, word 0 in its low bits. -/
def bundleWords (w : Nat) : List Syl := (List.range 8).map fun i => BitVec.ofNat 32 (w >>> (32 * i))

/-- The instruction of a bundle whose bits are `w`, bit 0 the least significant bit of the header: its one syllable that is not nop. The table gives its rows no bits, so the unit decoded is the bundle, the unit that the hardware fetches (R9). -/
def decodeTableWord (nbits w : Nat) : Option Instr :=
  match bundleWords (w % 2 ^ nbits) with
  | hdr :: rest =>
    match decodeWords hdr rest with
    | .ok b =>
      match b.syls with
      | [] => some .nop
      | [(_, i)] => some i
      | _ => none
    | .error _ => none
  | [] => none

end Sys2Proof
end

