-- ==== Sys2Proof/Machine/State.lean ====
section
/-! DEFINITION. The state of the machine, as plain data, and its value right after reset. Every line of INVENTORY.md's State is a field here. Maps are lists of (number, value) in rising order of number, and a number that is not listed holds the default. With it the turns that a schedule lists (log 2, DESIGN CHOICE). -/

namespace Sys2Proof.Machine

open Sys2Proof

/-- Why the model stops. -/
inductive Fault where
  /-- The die bridge could not be repaired and the package has stopped (R257): raised by every step after BRIDGE_FAILURE. Safe: the part does nothing more either. -/
  | packageStopped
  deriving DecidableEq, Repr

/-- Why an instruction has no meaning. -/
inductive Refusal where
  /-- Raised by an arm of exec for an instruction that is not modelled. Safe: nothing can be proved of a run through it. -/
  | notModelled (mnemonic : String)
  deriving DecidableEq, Repr

/-- What a meaning answers. -/
abbrev Out (σ : Type) := Host.Outcome σ Fault Refusal

/-- A sparse map: rising keys, unlisted keys hold a default. -/
abbrev SMap (α : Type) := List (Nat × α)

/-- A memory: rising addresses, unlisted bytes are 0 (R101, R136; log 13, DESIGN CHOICE). -/
abbrev Memory := List Host.Cell

/-! ### Faults -/

/-- A fault on its way to a strand (R328, R329). -/
structure FaultRec where
  code : Nat
  slot : Nat
  cls : Nat
  detail : Nat
  addr : Word
  imprecise : Bool
  merged : Bool
  deriving DecidableEq, Repr

/-- A containment region: class mask, handler, and the number of the first engine operation issued since it opened (R332, R335). -/
structure Region where
  mask : BitVec 8
  handler : Word
  firstId : Nat
  deriving DecidableEq, Repr

/-! ### Results in flight -/

/-- What lands when a scalar result falls due (R19, R31, R176, R332). -/
inductive Landing where
  /-- push onto the belt and, with a named destination, write that register -/
  | push (v : Word) (dst : Option Nat)
  /-- write a named register without a push (R332) -/
  | named (r : Nat) (v : Word)
  /-- write EM (false) or CM (true) whole (R176) -/
  | mask (cm : Bool) (v : Mask)
  deriving DecidableEq, Repr

/-- A V syllable, cmpd or pputv whose columns are still being read or landed (R30, R31). Source columns, masks and SC are filled in as their cycles come. -/
structure Flight where
  /-- CTIME of issue -/
  t : Nat
  instr : Instr
  /-- first column, columns of the syllable, columns of its destination -/
  c0 : Nat
  cols : Nat
  dcols : Nat
  lat : Nat
  /-- scalar sources -/
  s : Word
  u : Word
  /-- vector sources, as far as read -/
  a : VReg
  b : VReg
  c : VReg
  em : Mask
  cm : Mask
  sc : Word
  /-- columns below this one have been read -/
  seen : Nat
  /-- EM was read whole at issue (R207) -/
  emFixed : Bool
  /-- bank bytes of a load's 256-byte access, as performed -/
  block : List Byte
  /-- scale record of a scaled access, and whether it is poisoned -/
  record : List Byte
  recBad : Bool
  /-- reports to raise when an active element touches bytes lo to hi − 1 of the access -/
  flags : List (Nat × Nat × FaultRec)
  /-- bank format at issue; the accumulator store reads as ELEM 9, the scale store as ELEM 0 (R227) -/
  fmt : Word
  opId : Nat
  deriving DecidableEq, Repr

/-- What the strand holds: a result that is known, a scalar load whose L access has not been performed (number of the access, due cycle, named destination; R192), a flight. -/
inductive HeldKind where
  | scalar (due : Nat) (l : Landing)
  | load (id due : Nat) (dst : Option Nat)
  | vector (f : Flight)
  deriving DecidableEq, Repr

/-- A held result, or a syllable that still reads columns (R33); `counts` says whether it counts against the limit of 64. -/
structure Held where
  kind : HeldKind
  counts : Bool
  arrive : List (BitVec 4)
  deriving DecidableEq, Repr

/-- What a strand's vector registers and masks held before a cycle in which a result column landed that depends on a column still to be read, and what was held then or has been issued since, with the writes of EM and CM that have landed: what has landed since is computed again from it when a later bundle writes a mask (R30, R31; log 10, DEDUCED). -/
structure Past where
  since : Nat
  v : SMap VReg
  em : Mask
  cm : Mask
  held : List Held
  deriving DecidableEq, Repr

/-- One entry of LC with its hidden bounds (R198, R199). -/
structure LoopEntry where
  count : Nat
  start : Word
  last : Word
  deriving DecidableEq, Repr

/-- An xfence still in force: operations waited for, and the classes held (R319). -/
structure Fence where
  waits : List Nat
  dst : BitVec 7
  deriving DecidableEq, Repr

/-- A channel of a workgroup's window (R49, R53). -/
structure Chan where
  lchan : Nat
  rank : Nat
  strand : Nat
  pc : Option (Nat × Nat)
  sids : SMap Nat
  metered : SMap Nat
  deriving DecidableEq, Repr

/-- A page of a world's system window: its frame, and whether its table entry is poisoned (R347). -/
structure Page where
  frame : Nat
  poisoned : Bool
  /-- a walk has found the poison and recorded its event (R347) -/
  found : Bool
  deriving DecidableEq, Repr

/-- An event of the present tick: its place in source order, and its log entry behind the sequence number (R343, R345). -/
structure LogLine where
  place : Nat
  bytes : List Byte
  deriving DecidableEq, Repr

/-- The per-core registers of R39. -/
structure CoreRegs where
  bfmt : SMap Word
  bwheel : SMap Word
  mg : Word
  vctl : Word
  deriving DecidableEq, Repr

/-- A sent atomic of a bundle that has not issued (R170). -/
structure Sent where
  id : Nat
  done : Bool
  old : Word
  /-- the bundle, and the registers of the workgroup's cores, the window and the translation in force when the atomic was sent -/
  bytes : List Byte
  regs : SMap CoreRegs
  window : List Chan
  view : SMap Page
  /-- a place in the matrix unit's queue is kept for the bundle's M syllable (R170, R233) -/
  mplace : Bool
  deriving DecidableEq, Repr

inductive Status where
  | absent | running | halted | ended | finished | stopped
  deriving DecidableEq, Repr

/-- A bundle of hold: what a sent atomic keeps for the other syllables of its bundle (R170). -/
structure Reserve where
  core : Nat
  q : Nat
  tokens : Nat
  permits : Nat
  deriving DecidableEq, Repr

/-- One strand (R171, R173, R205, R273). -/
structure Strand where
  status : Status
  pc : Word
  belt : List Word
  n : List Word
  v : SMap VReg
  sc : Word
  em : Mask
  cm : Mask
  ctime : Nat
  phasen : Nat
  strandId : Nat
  world : Nat
  repActive : Bool
  repCount : Nat
  repIndex : Nat
  repStep : BitVec 18
  repAddr : Option Word
  lc : List LoopEntry
  fault : Word
  faddr : Word
  fcount : Word
  sync : SMap Word
  regions : List Region
  held : List Held
  past : Option Past
  reports : List FaultRec
  /-- core cycle of the newest report, and how many of the reports came in it (R331) -/
  freshAt : Nat
  fresh : Nat
  owed : Nat
  wait : Nat
  /-- last issue cycle of each divider: 0, 1 integer of S0, S1; 2, 3 floating point of S0, S1; 4, 5 of V0, V1 (R35, R181, R189, R212) -/
  divider : SMap Nat
  /-- context cycle of the last L access of each bank, plus one; 0 for none (R142) -/
  lastL : SMap Nat
  fences : List Fence
  arrived : Bool
  released : Bool
  sent : Option Sent
  reserves : List Reserve
  debugUnposted : Option (BitVec 16 × Word × Nat)
  /-- NOTICE was delivered to this strand and it has not yet arrived at a phase or finished (R351) -/
  notified : Bool
  deriving DecidableEq, Repr

/-! ### The core -/

/-- A slot taken by a reserving producer or a plain arrival (R150). -/
structure Taken where
  slot : Nat
  done : Bool
  deriving DecidableEq, Repr

/-- A waiting plain arrival: tokens still to place, and the rings on which its syllable arrives when all are placed (R151, R157). -/
structure Arrival where
  tokens : Nat
  arrive : List (BitVec 4)
  /-- core and strand of the syllable that arrives -/
  core : Nat
  strand : Nat
  deriving DecidableEq, Repr

/-- A ring (R147 to R153). -/
structure Ring where
  configured : Bool
  desc : Word
  head : Nat
  tail : Nat
  tokens : Nat
  permits : Nat
  taken : List Taken
  queue : List Arrival
  /-- tokens consumed by a copy whose permit has not come back (R152, R156) -/
  lent : Nat
  deriving DecidableEq, Repr

/-- The wrong bits of a stored line or record, by number, under the SEC-DED check bits of its 64-bit words (R135). -/
structure Ecc where
  wrong : List Nat
  deriving DecidableEq, Repr

/-- Scratchpad line state (R135): owner tag, poison, written, and stored bit errors. -/
structure LineMeta where
  tag : Nat
  poison : Bool
  written : Bool
  err : Ecc
  deriving DecidableEq, Repr

/-- Scale record state (R136, R137). -/
structure RecMeta where
  poison : Bool
  written : Bool
  err : Ecc
  deriving DecidableEq, Repr

/-- An accumulator tile with its hidden state (R235): elements, row and column checksums by index. -/
structure Acc where
  el : SMap Word
  w : Nat
  ckv : Bool
  rs : SMap Word
  cs : SMap Word
  /-- number of the most recently issued writer (R236) -/
  writer : Nat
  deriving DecidableEq, Repr

/-- What every engine operation carries. -/
structure OpInfo where
  id : Nat
  core : Nat
  strand : Nat
  wg : Nat
  world : Nat
  /-- operations that a fence puts before it (R319) -/
  after : List Nat
  abandoned : Bool
  arrive : List (BitVec 4)
  /-- pointer of the named sync word, 0 for none -/
  sync : Word
  /-- VCTL, as it stood at issue, of the core whose scratchpad the syllable reads (R39) -/
  vctl : Word
  deriving DecidableEq, Repr

/-- An M syllable that has issued and not retired (R233, R234, R243). -/
structure MOp where
  info : OpInfo
  instr : Instr
  x : Word
  y : Word
  mg : Word
  /-- descriptors and slots of the operand rings, or of the output ring, as they stood at issue (R243) -/
  descA : Word
  descB : Word
  descM : Word
  slotA : Nat
  slotB : Nat
  slotM : Nat
  started : Bool
  row : Nat
  newEl : SMap Word
  newRs : SMap Word
  newCs : SMap Word
  newCkv : Bool
  newBytes : List Byte
  newRec : List Byte
  /-- VCTL and the wheels of its core as the operation found them when it started (R39) -/
  vctl : Word
  wheels : SMap Word
  /-- half core cycle in which its occupancy of the array starts, and the half cycles of it (R247) -/
  begun : Nat
  halves : Nat
  deriving DecidableEq, Repr

/-- Where an engine reads or writes. -/
inductive Place where
  | spad (core bank off : Nat)
  | scale (core bank off : Nat)
  | ring (core q slot : Nat)
  | sys (addr : Nat)
  | acc (core tile off : Nat)
  | none
  deriving DecidableEq, Repr

inductive CopyKind where
  | copy | transpose | fill | rescale | scrub
  deriving DecidableEq, Repr

/-- What a copy read: payload bytes, scale records, and the poisoned lines and tiles of its source; of a space-4 source, its poisoned records. -/
structure CopyData where
  bytes : List Byte
  recs : List (List Byte)
  poisonLines : List Nat
  poisonTiles : List Nat
  deriving DecidableEq, Repr

/-- A copy-port operation in progress (R163 to R167, R362). -/
structure CopyOp where
  info : OpInfo
  kind : CopyKind
  src : Place
  dst : Place
  len : Nat
  dlen : Nat
  sfmt : Word
  dfmt : Word
  arg : Word
  read : Option CopyData
  /-- source bytes read so far (R311) -/
  got : Nat
  /-- destination bytes written so far, and lines beyond them that the access under way has written ahead (R311) -/
  put : Nat
  ahead : List Nat
  /-- VCTL of the source's core, and the wheels of the source's and the destination's core, as the copy found them when it started (R39) -/
  vctl : Word
  srcWheels : SMap Word
  dstWheels : SMap Word
  deriving DecidableEq, Repr

/-- A queued read-modify-write of a bank (R143): an atomic with its operation (R169), a count into a sync word (R155), an `swset` with the VCTL of its issue (R39, R160). Addresses are bank × 65,536 + offset. -/
inductive Rmw where
  | atomic (info : OpInfo) (addr : Nat) (op : Instr) (wide : Bool) (v c : Word) (ret : Bool)
  | count (addr : Nat) (bytes : Nat) (poisoned abandoned : Bool)
  | swset (addr : Nat) (target : BitVec 32) (vctl : Word)
  deriving DecidableEq, Repr

/-- An access in a bank's L latch, or on its way there (R142, R192, R230). -/
inductive LOp where
  /-- a scalar load: pointer, bytes, sign extension -/
  | load (p : Word) (size : Nat) (signed : Bool)
  /-- a scalar store: pointer and data -/
  | store (p : Word) (data : List Byte)
  /-- a vector load: 0 plain, 1 strided, 2 indexed -/
  | vload (kind : Nat)
  /-- a vector store; with its flight once the last data column has been read -/
  | vstore (f : Option Flight)
  deriving DecidableEq, Repr

structure LAccess where
  info : OpInfo
  /-- path class: S or V (R306) -/
  cls : Nat
  bank : Nat
  op : LOp
  deriving DecidableEq, Repr

/-- A physical core (R134). -/
structure Core where
  wg : Option Nat
  rank : Nat
  cycle : Nat
  bfmt : SMap Word
  bwheel : SMap Word
  mg : Word
  vctl : Word
  vctlEvent : Nat
  spad : Memory
  lines : SMap LineMeta
  scale : Memory
  recs : SMap RecMeta
  accs : SMap Acc
  rings : SMap Ring
  mq : List MOp
  copies : List CopyOp
  /-- RMW operations with their banks, oldest first -/
  rmw : List (Nat × Rmw)
  /-- L accesses not yet performed, in issue order (R142, R192, R230) -/
  lq : List LAccess
  /-- read-modify-writes on their way from other cores, with their banks (R140, R393) -/
  inbound : List (Nat × Rmw)
  /-- owner-world tag that the last scrub wrote into every line not listed (R88, R89) -/
  lineTag : Nat
  /-- instruction buffer: PC, bundle bytes (R321, R322) -/
  ibuf : SMap (List Byte)
  runner : Option Nat
  lastRan : Nat
  lastW : Bool
  /-- the running strand's last cycle issued a bundle, so that the next is a decision point (R300) -/
  decision : Bool
  strands : SMap Strand
  /-- remote tokens on their way to this core: number, ring, tokens, issuing core and strand (R157) -/
  remote : List (OpInfo × Nat × Nat)
  /-- next block of 256 bytes that each bank's scrubber reads (R342) -/
  scrubAt : SMap Nat
  /-- cycles of the core's clock that have come and that the core has not taken (R3) -/
  due : Nat
  /-- half core cycle in which the matrix array is free for the next operation (R247) -/
  mFree : Nat
  deriving DecidableEq, Repr

/-! ### Main memory -/

/-- An event of the nominal timeline (R58, R59). -/
inductive EvKind where
  | a | p | f | fa | rg | wg
  deriving DecidableEq, Repr

structure TEvent where
  kind : EvKind
  sid : Nat
  bg : Nat
  bank : Nat
  row : Nat
  tick : Nat
  deriving DecidableEq, Repr

/-- A queued memory command (R61, R66). -/
structure Cmd where
  info : OpInfo
  instr : Instr
  sid : Nat
  bg : Nat
  bank : Nat
  row : Nat
  col : Nat
  n : Nat
  delta : Nat
  /-- the data-window address that the command names -/
  va : Word
  target : Place
  /-- BFMT of the bank it lands in, as it stood at issue (R39) -/
  fmt : Word
  data : List Byte
  /-- grains of a write whose source line was bad, and those of them whose POISON is raised at commit (R76) -/
  poison : List Nat
  late : List Nat
  meter : Option Nat
  /-- tick of its issue (R62) -/
  issued : Nat
  deriving DecidableEq, Repr

/-- A played read whose grains land, are judged and counted (R72, R74, R98), or a played write whose lines commit (R76, R99). -/
structure Drain where
  cmd : Cmd
  tick : Nat
  world : Nat
  /-- force-closed bank or withdrawn PC: grains land poisoned (R65, R83) -/
  bad : Bool
  data : List Byte
  /-- grains landed, and lines judged or committed -/
  landed : Nat
  judged : Nat
  /-- lines of a read whose ciphertext as received will fail, and of a write that are discarded at commit (R94, R97) -/
  fails : List Nat
  /-- lines of a read that were committed as poisoned ones (R76) -/
  pois : List Nat
  deriving DecidableEq, Repr

/-- A pseudo-channel (R46, R53 to R65). -/
structure Pc where
  owner : Option Nat
  world : Nat
  nominal : Nat
  openRow : SMap Nat
  events : List TEvent
  queue : List Cmd
  lastPlay : Nat
  ready : Nat
  played : SMap (Nat × Nat)
  rowOrder : List (Nat × Nat)
  debt : SMap Int
  forced : List Nat
  reads : List Drain
  writes : List Drain
  /-- first tick at which played events let each bank be closed, and the play tick of its last close (R62, R64) -/
  closeOk : SMap Nat
  lastP : SMap Nat
  /-- first tick at which played refreshes let the base die refresh (R59 rules 17 and 18) -/
  refreshOk : Nat
  /-- refresh clock events since reset (R63) -/
  refreshes : Nat
  /-- next row of each bank in the patrol order of its refreshes (R71) -/
  patrol : SMap Nat
  /-- banks that the base die is to close by force, and to refresh by force, at the first tick that allows it (R62, R64) -/
  closing : List Nat
  refreshing : List Nat
  /-- banks whose open row has reached 56,160 ticks and was reported (R64) -/
  overdue : List Nat
  deriving DecidableEq, Repr

/-! ### Workgroups, launches, queues -/

inductive WgState where
  | running | draining (code : Nat) (killed : Bool) | sealing | sealed
  deriving DecidableEq, Repr

structure Workgroup where
  id : Nat
  /-- its launch; 0 is none of a queue (R383; log 3, DESIGN CHOICE) -/
  launch : Nat
  world : Nat
  queue : Nat
  seq : Nat
  index : Nat
  cluster : Nat
  cores : List Nat
  strands : Nat
  mprof : Nat
  state : WgState
  boundary : Nat
  window : List Chan
  remap : Bool
  view : SMap Page
  stale : Bool
  meterGrains : Nat
  /-- clock running of the launch's start (R291) -/
  started : Nat
  deriving DecidableEq, Repr

structure Launch where
  /-- its own number: the queue may give a sequence number again (R283, R288; log 109, DESIGN CHOICE) -/
  id : Nat
  world : Nat
  queue : Nat
  seq : Nat
  priority : Nat
  domain : Nat
  cmin : Nat
  cmax : Nat
  target : Nat
  allowance : Nat
  barrier : Bool
  after : Option Nat
  kernel : Word
  code : Nat
  grid : Nat
  cores : Nat
  strands : Nat
  mprof : Nat
  chans : List (Nat × Nat × Nat)
  cstride : Nat
  setup : List (Nat × Nat × Word)
  args : Word
  measure : BitVec 256
  next : Nat
  done : Nat
  ended : Nat
  faultCode : Option Nat
  killed : Bool
  budget : Bool
  charge : Nat
  faults : Nat
  grains : Nat
  start : Nat
  failed : Option Nat
  /-- its workgroups were ended because its core-time allowance is spent (R298, R318) -/
  cut : Bool
  /-- frames of the pages that held its image when it was measured (R281) -/
  codeFrames : List Nat
  deriving DecidableEq, Repr

/-- A hardware queue (R282 to R286, R293, R294). -/
structure Queue where
  qsub : Word
  qcfg : Word
  qcpl : Word
  qcwa : Word
  qnotify : Nat
  qnext : Nat
  qcons : Nat
  faulted : Bool
  cause : Nat
  tries : Nat
  retryAt : Nat
  word : Nat
  pending : Nat
  firstPending : Nat
  heldRecords : List (List Byte)
  deriving DecidableEq, Repr

/-! ### Worlds -/

inductive Tdisp where
  | unlocked | locked | run | error
  deriving DecidableEq, Repr

inductive Migration where
  | none | quiescing | quiesced | armed (since : Nat) | escrow | erased
  deriving DecidableEq, Repr

/-- An entry of the export table (R261). -/
structure Export where
  base : Nat
  pages : Nat
  perm : BitVec 8
  peers : Nat
  rank : Nat
  bank : Nat
  boff : Nat
  bvalid : Bool
  bqueue : Nat
  bwg : Nat
  bseq : Nat
  missed : Nat
  deriving DecidableEq, Repr

/-- A group of the group table: this device's member index, the reduction switch, and the members' devices (R271). -/
structure Group where
  own : Nat
  switch : Nat
  devices : List Nat
  deriving DecidableEq, Repr

structure MeterBinding where
  meter : Nat
  digest : BitVec 256
  slices : List (Nat × Nat)
  deriving DecidableEq, Repr

structure Shard where
  epoch : Nat
  index : Nat
  place : Word
  bytes : Nat
  raw : Nat
  hash : BitVec 256
  deriving DecidableEq, Repr

structure World where
  tdisp : Tdisp
  pwctl : Word
  pwpart : Word
  pwroot : Word
  pwquota : Word
  pwchan : Word
  pwqueue : Word
  pwpeer : Word
  allow : List (BitVec 256)
  debug : Bool
  exports : SMap Export
  peerSets : SMap (List Nat)
  groups : SMap Group
  /-- the owner's HSS verification key, and ML-KEM-1024 encapsulation key (R357) -/
  ownerKey : Option (List Byte)
  releaseKey : Option (List Byte)
  /-- the new key set of an armed world, wrapped to the release key (R370) -/
  escrow : Option (List Byte)
  keyGen : Nat
  rotating : Option (Nat × Word × OpInfo)
  meters : SMap Word
  bindings : List MeterBinding
  /-- last value that `metr` returned, by cluster and meter (R368) -/
  mirror : SMap (SMap Word)
  /-- counts of the last 10 µs: time, cluster, meter, grains (R368) -/
  recent : List (Nat × Nat × Nat × Nat)
  metersFrozen : Bool
  chainIndex : Nat
  chainSerial : Nat
  lastStatement : BitVec 256
  nextFlags : Nat
  lastSigned : Option Nat
  mets : List (OpInfo × Nat × List Byte)
  epoch : Nat
  shards : List Shard
  manifest : Option (Word × BitVec 256)
  /-- checkpoint epochs whose KC has been drawn, each with the number of the draw (R358) -/
  kcEpochs : SMap Nat
  adopted : Option Nat
  /-- KC of the adopted manifest (R375) -/
  adoptedKC : BitVec 256
  migration : Migration
  slices : SMap (Nat × Nat × Nat)
  pages : SMap Page
  queues : SMap Queue
  lastQueue : Option Nat
  /-- stopped fault domains, each with the fault code that stopped it (R298) -/
  domains : SMap Nat
  marked : Option (Nat × Nat)
  finishedAt : List Nat
  debugQueue : List (List Byte)
  events : List (List Byte)
  mailbox : List (List Byte)
  session : Bool
  /-- the translation as the last XINV writes published it (R324, R325) -/
  live : SMap Page
  /-- the translation that fabric targets use until the running workgroups have passed a boundary (R82, R325) -/
  fabView : SMap Page
  /-- draw of the world's keys at its creation, under which KS and KB stand until erasure, as `keyGen` is that of the memory keys; 0 where the world has no keys (R87, R358) -/
  born : Nat
  /-- blocks 7 to 9 as LOCK_INTERFACE_REQUEST fixed them (R355, R360) -/
  report : Option (List (BitVec 256))
  /-- the owner's peer policy (R360, R361) -/
  peerPolicy : Option (BitVec 256)
  /-- the world's last statement (R369) -/
  lastBytes : List Byte
  /-- shards of the adopted manifest, with their hashes (R375) -/
  adoptedShards : List Shard
  /-- data slices, by pseudo-channel × 4 + SID, and pages that a rotation in progress has put under the new keys: their key-generation bits (R364) -/
  rotSlices : List Nat
  rotPages : List Nat
  deriving DecidableEq, Repr

/-! ### Fabric -/

inductive FabKind where
  | put | get | putv | amo | sum
  deriving DecidableEq, Repr

/-- A fabric operation in progress (R262 to R272). -/
structure FabOp where
  info : OpInfo
  kind : FabKind
  peer : Word
  localSide : Place
  bytes : Nat
  notify : Bool
  data : List Byte
  wide : Bool
  ret : Option Nat
  aop : BitVec 4
  v : Word
  c : Word
  ident : Nat
  resendAt : Option Nat
  poisoned : Bool
  /-- the local side has been read and the request sent -/
  sent : Bool
  /-- lines of the data that were read poisoned (R264) -/
  bad : List Nat
  /-- bytes of the local side read so far, and written so far (R165, R264, R270) -/
  got : Nat
  put : Nat
  /-- failed in flight, its write still held back by the matrix unit's read of its slot, or by a bank without positions (R140, R243, R270) -/
  lost : Bool
  /-- VCTL and the wheels of the local side's core as the operation found them when it started; none before (R39) -/
  env : Option (Word × SMap Word)
  deriving DecidableEq, Repr

/-- A key KL(w, d) that two package controllers have agreed, with the peer's world, the number of the binding that gave the shared secret, the rekeyings since, and the frames sent under the present key (R102, R361). -/
structure LinkKey where
  world : Nat
  device : Nat
  remote : Nat
  draw : Nat
  rekeys : Nat
  frames : Nat
  deriving DecidableEq, Repr

structure Port where
  up : Bool
  shenen : Bool
  fails : Nat
  frames : Nat
  deriving DecidableEq, Repr

/-- A reply that a target sent and holds until it is acknowledged: 0 done or 2 + code of a refusal, with what it carries (R263, R267). -/
structure Dedupe where
  ident : Nat
  code : Nat
  old : Word
  poison : Bool
  deriving DecidableEq, Repr

/-! ### Sealing and other background requests -/

inductive Stage where
  | notice | stop | drain | save | sealed | verify | place | restore
  deriving DecidableEq, Repr

/-- A seal or unseal request (R350 to R353). -/
structure SealReq where
  info : OpInfo
  isUnseal : Bool
  block : Nat
  world : Nat
  queue : Nat
  seq : Nat
  wgIndex : Nat
  flags : Nat
  area : Word
  cluster : Nat
  grace : Nat
  wg : Nat
  /-- fault code that ended the workgroup while it was being sealed (R354) -/
  endedBy : Option Nat
  stage : Stage
  since : Nat
  /-- bytes of the image that an unseal has read -/
  bytes : Nat
  /-- open rows of each channel, as recorded before its release (R79) -/
  rows : List (Nat × List (Nat × Nat))
  /-- a request of the package controller itself, for a migration: no strand awaits it (R370, R371) -/
  silent : Bool
  deriving DecidableEq, Repr

/-- A seal image (R351, R353). -/
structure Image where
  area : Word
  wg : Workgroup
  cores : List Core
  rows : List (Nat × List (Nat × Nat))
  bytes : Nat
  /-- number of the first free value of its ciphertext -/
  seed : Nat
  discarded : Bool
  deriving DecidableEq, Repr

/-- How far a transfer has come (R370, R371): sent; taken up by a world, which has acknowledged it; its source erased, with the world that took it up; or over, since it runs at its destination or an end has given it up. -/
inductive TransferStage where
  | sent | taken (world : Nat) | erased (world : Option Nat) | over
  deriving DecidableEq, Repr

/-- What a migrating world sends (R370): the world's record, its sealed workgroups with their images and launches, and its pages and slices, by page number and by logical channel × 4 + SID slot. -/
structure Transfer where
  /-- number of the world that sends it, and how far it has come; whether that is a world of another device, which erases its keys there -/
  source : Nat
  foreign : Bool
  stage : TransferStage
  world : World
  statement : List Byte
  wgs : List Workgroup
  images : List Image
  launches : List Launch
  pages : List (Nat × Memory)
  slices : List (Nat × Memory)
  /-- 64-byte units of those pages that hold poisoned data, and lines of those slices committed as poisoned, relative to their first (R98, R137) -/
  pagePois : List (Nat × List Nat)
  slicePois : List (Nat × List Nat)
  deriving DecidableEq, Repr

/-- A checkpoint operation (R372). -/
structure CkOp where
  info : OpInfo
  load : Bool
  block : Nat
  /-- numbers of the puts that carry the stored bytes to their place (R373) -/
  puts : List Nat
  /-- one of the puts has failed (R270, R375) -/
  failed : Bool
  /-- what the last acknowledgement commits: a manifest (true) or a shard (R373, R374) -/
  pending : Option (Bool × Shard)
  deriving DecidableEq, Repr

/-- A capacity notice in force (R82, R84). -/
structure Notice where
  stack : Nat
  pc : Nat
  sids : BitVec 4
  endNs : Nat
  deriving DecidableEq, Repr

/-! ### The bundle being issued -/

inductive Verdict where
  | none | ok | blocked | faulted | send
  deriving DecidableEq, Repr

/-- The syllable being issued: whose, where, and what has come of it (R26, R29). -/
structure Cur where
  core : Nat
  strand : Nat
  slot : Slot
  pc : Word
  taken : Option Word
  arrive : List (BitVec 4)
  verdict : Verdict
  /-- the precise fault that the syllable raised (R26, R34) -/
  raised : Option FaultRec
  /-- number of the first engine operation of the bundle (R335) -/
  firstId : Nat
  /-- the bundle's atomic has been performed: its checks are behind it and it issues (R170) -/
  sure : Bool
  deriving DecidableEq, Repr

/-- An entry of the ageing record: a cluster and its greatest clock in MHz, or a pseudo-channel by stack × 64 + number and whether it meets profile G (R382). -/
inductive Aged where
  | cluster (cluster clock : Nat)
  | channel (key : Nat) (meets : Bool)
  deriving DecidableEq, Repr

/-- A run of the march kernel on a cluster: its workgroup, that workgroup's cores, and the VCTL arguments by rank (R383, R388, R389). -/
structure MarchRun where
  cluster : Nat
  wg : Nat
  cores : List Nat
  vctl : List Word
  deriving DecidableEq, Repr

/-- The march of bring-up while it runs: its runs, and world 0's partition as it was before (R383). -/
structure March where
  runs : List MarchRun
  part : Word
  deriving DecidableEq, Repr

/-- One element of the model's schedule: what acts next (log 2, DESIGN CHOICE). Beside the events of the table these are a core's cycle, steps inside a running engine operation, the passing of time, and what the host or the outside does that has no row of its own. -/
inductive Turn where
  /-- a core cycle that has come at a physical core: the selector's choice and the chosen strand's cycle (R3, R299, R300) -/
  | cycle (core : Nat)
  /-- an event of the table -/
  | event (i : Instr)
  /-- a copy reads its source (R165, R166) -/
  | copyRead (core id : Nat)
  /-- package time passes, counted in ticks of 0.625 ns, and with it all that falls due by the clock (R3, R4) -/
  | elapse (ticks : Nat)
  /-- the host writes a register of BAR0 of a world's function that has no row of its own (R282, R344, R356) -/
  | barWrite (world offset : Nat) (v : Word)
  /-- the host reads a register of BAR0 of a world's function; the answer goes to the host (R284, R344, R356, R378, R383) -/
  | barRead (world offset : Nat)
  /-- the supervisor writes a page-table entry of a world: page number, frame, or none (R195, R347) -/
  | mapPage (world page : Nat) (frame : Option Nat) (poisoned : Bool)
  /-- the supervisor changes a world's slice map, and the base die begins to fill the slice (R50, R101) -/
  | sliceFill (world stack pc sid : Nat)
  /-- the next step of bring-up (R383, R389) -/
  | bringUp (b : BringUp)
  /-- a link trains: its partner accepts or declines Shenen (R259) -/
  | linkTraining (port : Nat) (accepts : Bool)
  /-- voltage is planned anew for a pseudo-channel that no workgroup owns, and it meets profile G or cannot (R382) -/
  | replanPc (stack pc : Nat) (meets : Bool)
  /-- the base die rotates a data slice, or a system page, of a world whose keys are being rotated (R364) -/
  | rotateSlice (world key : Nat)
  | rotatePage (world page : Nat)
  /-- the supervisor binds a device to a port in the route table (R258) -/
  | route (device port : Nat)
  /-- an agent outside the package changes the stored line or its tag (R104) -/
  | tamper (pla : Nat)
  /-- a stored line of main memory takes a correctable or an uncorrectable error (R71, R342) -/
  | dramFault (pla : Nat) (double : Bool)
  /-- the state of a world of another device arrives on the management channel (R370) -/
  | transferIn (t : Transfer)
  /-- device firmware moves a page of a world's system window to another frame (R84) -/
  | movePage (world page frame : Nat)
  /-- a stored bit of a scratchpad line turns over (R135) -/
  | cellError (core bank line bit : Nat)
  /-- a stored bit of a scale record turns over (R135, R137) -/
  | recordError (core bank rec_ bit : Nat)
  /-- the stored owner-world tag of a scratchpad line is corrupted (R89) -/
  | tagError (core line tag : Nat)
  /-- a core's instruction buffer takes in a bundle before it is fetched (R321, R322) -/
  | prefetch (core : Nat) (pc : Word)
  /-- an entry of the list of read-modify-writes on their way to a core reaches its bank (R140, R143, R393) -/
  | rmwArrive (core index : Nat)
  deriving DecidableEq, Repr

/-! ### The package -/

structure State where
  tick : Nat
  ns : Nat
  turns : List Turn
  /-- how far each cluster's clock is into its present cycle, in 8,000ths of a cycle (R3) -/
  clockAcc : SMap Nat
  freeCount : Nat
  nextId : Nat
  cur : Cur
  stopped : Bool
  dstat : Nat
  dstatErr : Nat
  staged : Option Bool
  mbCmd : Word
  mbStat : Word
  mbPayload : List Word
  lanes : Nat
  pfEvents : List (List Byte)
  eventSeq : Nat
  mcapEvents : Nat
  goneSlices : List (Nat × Nat × Nat)
  notices : List Notice
  sysMap : SMap (Nat × Nat)
  repaired : List (Nat × Nat)
  elogBase : Word
  elogHead : Word
  elogTail : Word
  elogOvf : Bool
  eseq : Word
  ecnt : SMap Word
  /-- the events numbered at one tick, in source order, the tick, and how many of them are in the log (R343, R345) -/
  instant : List LogLine
  instantAt : Nat
  instantLogged : Nat
  windows : SMap (List Nat)
  /-- objects decided lasting whose action is still to come, by the key of their window (R346) -/
  lasting : List Nat
  /-- spare scratchpad lines in use, by core × 16 + bank (R346) -/
  spares : SMap Nat
  fenced : List Nat
  xinvWorld : Nat
  hssLeaves : Nat
  /-- requests to the DRBG, each a draw with its own number; and how many had been made at its last reseeding (R358) -/
  drbg : Nat
  drbgSeed : Nat
  /-- re-plans made (R382) -/
  ageing : List Aged
  clocks : SMap Nat
  bootGen : Nat
  /-- the march test of bring-up in progress (R383) -/
  march : Option March
  host : Memory
  interrupts : List (Nat × Nat)
  dram : Memory
  badLines : List Nat
  poisonLines : List Nat
  majors : SMap Word
  minors : SMap (BitVec 7)
  sysmem : Memory
  /-- 64-byte units of system memory that hold poisoned data (R137) -/
  sysPoison : List Nat
  pcs : SMap Pc
  cores : SMap Core
  wgs : List Workgroup
  launches : List Launch
  worlds : SMap World
  ports : SMap Port
  routes : SMap Nat
  device : Nat
  fab : List FabOp
  dedupe : SMap (List Dedupe)
  amoIdent : SMap Nat
  /-- answers sent to peers: device, 0 done, 1 RETRY or 2 + code, data, and the poisoned lines of the data (R263, R264, R268) -/
  sentReplies : List (Nat × Nat × List Byte × List Nat)
  seals : List SealReq
  images : List Image
  cks : List CkOp
  linkKeys : List LinkKey
  /-- lockstep pairs that are resynchronising (R341) -/
  resync : List Nat
  /-- slices being filled: world, pseudo-channel, SID (R101, R366) -/
  filling : List (Nat × Nat × Nat)
  /-- what the functions have answered to the host: SPDM responses, command statuses, reads (R360, R366, R378) -/
  answers : List (Nat × List Byte)
  /-- states of migrating worlds on the management channel (R370) -/
  transfers : List Transfer
  /-- stored version blocks (level 0) and tree nodes that will not check against their parent: stack, level, index (R95, R96) -/
  badNodes : List (Nat × Nat × Nat)
  /-- those of them whose check has failed, which are never trusted as they are (R96) -/
  failedNodes : List (Nat × Nat × Nat)
  /-- lines of main memory whose stored tag has been changed or lost (R93, R96) -/
  badTags : List Nat
  /-- 64-byte units of system memory whose stored line has been changed or lost (R93, R104) -/
  sysBad : List Nat
  /-- stored bit errors of lines of main memory, by PLA; whether a line's are uncorrectable (R71, R342) -/
  dramErrs : List (Nat × Bool)
  /-- logical system slices that have given up their place: used-up reserve and freed metadata (R84) -/
  sysOff : List Nat
  /-- largest major that each physical slice has held, by pseudo-channel × 4 + SID (R101) -/
  topMajors : SMap Word
  /-- world, and generation of its keys, under which each frame of system memory was last written (R325, R359) -/
  frames : SMap (Nat × Nat)
  /-- package time of the governor's last evaluation (R303) -/
  governedAt : Nat
  /-- world and key generation whose KS each cluster's scrambler holds (R88) -/
  ksSlot : SMap (Nat × Nat)
  /-- draws of the stacks' tree keys KT (R87, R383) -/
  ktDraw : Nat
  /-- step of bring-up at which a signature will not verify, 0 for none (R383) -/
  sigFail : Nat
  /-- greatest clock of a cluster in MHz, where a re-plan has lowered it (R382) -/
  maxClock : SMap Nat
  /-- watts that each cluster draws at the floor clock (R381) -/
  floors : SMap Nat
  /-- package time of the Hearth's last grants (R380) -/
  grantedAt : Nat
  /-- watts that the Hearth grants each cluster (R380) -/
  watts : SMap Nat
  /-- watts that each cluster draws per 1,000 MHz of its clock, as the Hearth last estimated its activity (R380) -/
  activity : SMap Nat
  /-- package time of the last voltage re-plan of each cluster, and of each pseudo-channel (R382) -/
  plannedAt : SMap Nat
  pcPlannedAt : SMap Nat
  /-- the die bridge has been trained (R383) -/
  bridgeUp : Bool
  /-- frames sent on the die bridge under each world's KB (R102) -/
  bridge : SMap Nat
  /-- oldest identifier of each source whose reply is not acknowledged, and those above it that are (R267) -/
  amoBase : SMap Nat
  amoAcked : SMap (List Nat)
  /-- rows of main memory that became lasting: time, die, bank (R346) -/
  dieRows : List (Nat × Nat × Nat)
  deriving DecidableEq, Repr

/-! ### Values at reset -/

/-- A strand that no workgroup holds (R297 where it gives a value; log 1, DESIGN CHOICE). -/
def Strand.reset : Strand :=
  { status := .absent, pc := 0, belt := List.replicate 16 0, n := List.replicate 16 0, v := [], sc := 0,
    em := BitVec.allOnes 128, cm := 0, ctime := 0, phasen := 0, strandId := 0, world := 0,
    repActive := false, repCount := 0, repIndex := 0, repStep := 0, repAddr := none, lc := [],
    fault := 0, faddr := 0, fcount := 0, sync := [], regions := [], held := [], past := none, reports := [], freshAt := 0, fresh := 0, owed := 0, wait := 0,
    divider := [], lastL := [], fences := [], arrived := false, released := false, sent := none, reserves := [],
    debugUnposted := none, notified := false }

/-- A ring never configured since the workgroup started (R149). -/
def Ring.reset : Ring :=
  { configured := false, desc := 0, head := 0, tail := 0, tokens := 0, permits := 0, taken := [], queue := [], lent := 0 }

def Ecc.sound : Ecc := { wrong := [] }

def LineMeta.reset : LineMeta := { tag := 0, poison := false, written := false, err := Ecc.sound }

def RecMeta.reset : RecMeta := { poison := false, written := false, err := Ecc.sound }

/-- An accumulator tile at workgroup start (R235). -/
def Acc.reset : Acc := { el := [], w := 32, ckv := true, rs := [], cs := [], writer := 0 }

/-- A core that no workgroup holds (R39, R139, R235, R296; log 1, DESIGN CHOICE). -/
def Core.reset : Core :=
  { wg := none, rank := 0, cycle := 0, bfmt := [], bwheel := [], mg := 0, vctl := 0, vctlEvent := 1, spad := [], lines := [],
    scale := [], recs := [], accs := [], rings := [], mq := [], copies := [], rmw := [], lq := [], inbound := [], lineTag := 0, ibuf := [],
    runner := none, lastRan := 3, lastW := false, decision := true, strands := [], remote := [], scrubAt := [], due := 0, mFree := 0 }

/-- A pseudo-channel that no workgroup owns (R54, R55). -/
def Pc.reset : Pc :=
  { owner := none, world := 0, nominal := 0, openRow := [], events := [], queue := [], lastPlay := 0, ready := 0, played := [],
    rowOrder := [], debt := [], forced := [], reads := [], writes := [], closeOk := [], lastP := [], refreshOk := 0, refreshes := 0, patrol := [], closing := [], refreshing := [], overdue := [] }

def Queue.reset : Queue :=
  { qsub := 0, qcfg := 0, qcpl := 0, qcwa := 0, qnotify := 0, qnext := 1, qcons := 0, faulted := false, cause := 0, tries := 0, retryAt := 0,
    word := 0, pending := 0, firstPending := 0, heldRecords := [] }

/-- A world that has not been created (R355, R356). -/
def World.reset : World :=
  { tdisp := .unlocked, pwctl := 0, pwpart := 0, pwroot := 0, pwquota := 0, pwchan := 0, pwqueue := 0, pwpeer := 0,
    allow := [], debug := false, exports := [], peerSets := [], groups := [], ownerKey := none, releaseKey := none, escrow := none,
    keyGen := 0, rotating := none, meters := [], bindings := [], mirror := [], recent := [], metersFrozen := false, chainIndex := 0,
    chainSerial := 0, lastStatement := 0, nextFlags := 0, lastSigned := none, mets := [], epoch := 0, shards := [],
    manifest := none, kcEpochs := [], adopted := none, adoptedKC := 0, migration := .none, slices := [], pages := [], queues := [],
    lastQueue := none, domains := [], marked := none, finishedAt := [], debugQueue := [], events := [], mailbox := [],
    session := false, live := [], fabView := [], born := 0, report := none, peerPolicy := none, lastBytes := [], adoptedShards := [], rotSlices := [], rotPages := [] }

/-- A port before its link trains, in step 5 of bring-up (R259, R383). -/
def Port.reset : Port := { up := false, shenen := false, fails := 0, frames := 0 }

/-- No bundle is being issued. -/
def Cur.reset : Cur :=
  { core := 0, strand := 0, slot := .s0, pc := 0, taken := none, arrive := [], verdict := .none, raised := none, firstId := 0, sure := false }

/-- The package right after reset, before bring-up (R383; log 1, DESIGN CHOICE; log 13, DESIGN CHOICE). -/
def State.reset : State :=
  { tick := 0, ns := 0, turns := [], clockAcc := [], freeCount := 0, nextId := 0, cur := Cur.reset, stopped := false,
    dstat := 0, dstatErr := 0, staged := none, mbCmd := 0, mbStat := 0, mbPayload := [], lanes := 0, pfEvents := [],
    eventSeq := 0, mcapEvents := 0, goneSlices := [], notices := [], sysMap := [], repaired := [],
    elogBase := 0, elogHead := 0, elogTail := 0, elogOvf := false, eseq := 0, ecnt := [], instant := [], instantAt := 0, instantLogged := 0, windows := [], lasting := [], spares := [], fenced := [],
    xinvWorld := 0, hssLeaves := 0, drbg := 0, drbgSeed := 0, ageing := [], clocks := [], bootGen := 0, march := none, host := [], interrupts := [],
    dram := [], badLines := [], poisonLines := [], majors := [], minors := [], sysmem := [], sysPoison := [], pcs := [], cores := [],
    wgs := [], launches := [], worlds := [], ports := [], routes := [], device := 0, fab := [], dedupe := [], amoIdent := [],
    sentReplies := [], seals := [], images := [], cks := [], linkKeys := [], resync := [], filling := [], answers := [], transfers := [], badNodes := [], failedNodes := [], badTags := [], sysBad := [], dramErrs := [], sysOff := [], topMajors := [], frames := [], governedAt := 0, ksSlot := [], ktDraw := 0, sigFail := 0, maxClock := [], floors := [], grantedAt := 0, watts := [], activity := [], plannedAt := [], pcPlannedAt := [], bridgeUp := false, bridge := [], amoBase := [], amoAcked := [], dieRows := [] }

end Sys2Proof.Machine
end

