-- ==== Sys2Proof/Machine/Ops.lean ====
section
/-! DEFINITION. The named operations over the state: sparse maps and memories, strands, cores and workgroups, holding results, engine operations, reports, error events, and taking a fault (R330 to R334) with the return to the handler. -/

namespace Sys2Proof.Machine

open Sys2Proof

/-! ### Sparse maps -/

/-- The value listed for a number. -/
def SMap.find {α : Type} : SMap α → Nat → Option α
  | [], _ => none
  | (k, v) :: m, i => if k = i then some v else SMap.find m i

/-- The value of a number, with the default for unlisted numbers. -/
def SMap.get {α : Type} (m : SMap α) (d : α) (i : Nat) : α := (SMap.find m i).getD d

/-- List a value, keeping the numbers rising. -/
def SMap.set {α : Type} : SMap α → Nat → α → SMap α
  | [], i, v => [(i, v)]
  | (k, w) :: m, i, v =>
    if i < k then (i, v) :: (k, w) :: m
    else if i = k then (i, v) :: m
    else (k, w) :: SMap.set m i v

/-- Unlist a number. -/
def SMap.erase {α : Type} (m : SMap α) (i : Nat) : SMap α := m.filter fun p => p.1 != i

/-- The numbers rise strictly. -/
abbrev SMap.rising {α : Type} (m : SMap α) : Prop := List.Pairwise (fun a b => a.1 < b.1) m

/-! ### Memories -/

/-- A byte; an unlisted byte is 0 (log 13, DESIGN CHOICE). -/
def Memory.read (m : Memory) (a : Nat) : Byte := SMap.get m 0 a

/-- Write a byte in the canonical form. -/
def Memory.write (m : Memory) (a : Nat) (b : Byte) : Memory := if b = 0 then SMap.erase m a else SMap.set m a b

/-- The canonical form: rising addresses and no listed zero. -/
abbrev Memory.wf (m : Memory) : Prop := SMap.rising m ∧ ∀ c ∈ m, c.2 ≠ 0

/-- `n` bytes from `a`. -/
def Memory.readN (m : Memory) (a n : Nat) : List Byte := (List.range n).map fun i => Memory.read m (a + i)

/-- Write bytes from `a` up. -/
def Memory.writeN : Memory → Nat → List Byte → Memory
  | m, _, [] => m
  | m, a, b :: bs => Memory.writeN (Memory.write m a b) (a + 1) bs

/-- Zero the `n` bytes from `a`. -/
def Memory.clear (m : Memory) (a n : Nat) : Memory := m.filter fun c => c.1 < a || a + n ≤ c.1

/-- Little-endian value of bytes (R5). -/
def leNat : List Byte → Nat
  | [] => 0
  | b :: bs => b.toNat + 256 * leNat bs

/-- The low `n` bytes of a number, little-endian (R5). -/
def leBytes : Nat → Nat → List Byte
  | 0, _ => []
  | n + 1, v => BitVec.ofNat 8 v :: leBytes n (v / 256)

/-- Bits hi down to lo of a word, as a number. -/
def Word.field (w : Word) (lo n : Nat) : Nat := (w.toNat >>> lo) % 2 ^ n

/-- A word from a number. -/
abbrev word (n : Nat) : Word := BitVec.ofNat 64 n

/-! ### Cores, strands, workgroups, worlds -/

def State.coreAt (s : State) (c : Nat) : Core := SMap.get s.cores Core.reset c
def State.setCore (s : State) (c : Nat) (k : Core) : State := { s with cores := SMap.set s.cores c k }
def State.modCore (s : State) (c : Nat) (f : Core → Core) : State := s.setCore c (f (s.coreAt c))

def Core.strandAt (k : Core) (t : Nat) : Strand := SMap.get k.strands Strand.reset t
def Core.setStrand (k : Core) (t : Nat) (st : Strand) : Core := { k with strands := SMap.set k.strands t st }

def State.strandAt (s : State) (c t : Nat) : Strand := (s.coreAt c).strandAt t
def State.setStrandAt (s : State) (c t : Nat) (st : Strand) : State := s.setCore c ((s.coreAt c).setStrand t st)
def State.modStrandAt (s : State) (c t : Nat) (f : Strand → Strand) : State := s.setStrandAt c t (f (s.strandAt c t))

/-- The core whose bundle is being issued. -/
def State.core (s : State) : Core := s.coreAt s.cur.core
/-- The strand whose bundle is being issued. -/
def State.strand (s : State) : Strand := s.strandAt s.cur.core s.cur.strand
def State.putCore (s : State) (k : Core) : State := s.setCore s.cur.core k
def State.putStrand (s : State) (st : Strand) : State := s.setStrandAt s.cur.core s.cur.strand st

def State.wgAt (s : State) (id : Nat) : Option Workgroup := s.wgs.find? fun w => w.id == id
def State.modWg (s : State) (id : Nat) (f : Workgroup → Workgroup) : State :=
  { s with wgs := s.wgs.map fun w => if w.id == id then f w else w }
/-- The workgroup of the bundle being issued. -/
def State.wg (s : State) : Option Workgroup := s.core.wg.bind s.wgAt

def State.worldAt (s : State) (w : Nat) : World := SMap.get s.worlds World.reset w
def State.setWorld (s : State) (w : Nat) (x : World) : State := { s with worlds := SMap.set s.worlds w x }
def State.modWorld (s : State) (w : Nat) (f : World → World) : State := s.setWorld w (f (s.worldAt w))

/-- A pseudo-channel by stack and number (R46). -/
def State.pcAt (s : State) (k : Nat) : Pc := SMap.get s.pcs Pc.reset k
def State.setPc (s : State) (k : Nat) (p : Pc) : State := { s with pcs := SMap.set s.pcs k p }
def pcKey (stack pc : Nat) : Nat := stack * 64 + pc

def State.launchOf (s : State) (id : Nat) : Option Launch := s.launches.find? fun l => l.id == id
def State.modLaunch (s : State) (id : Nat) (f : Launch → Launch) : State :=
  { s with launches := s.launches.map fun l => if l.id == id then f l else l }

/-- The launch of a queue with a sequence number to which an event applies: of two with one number, the one fetched first (R288; log 109, DESIGN CHOICE). -/
def State.launchWith (s : State) (world queue seq : Nat) (p : Launch → Bool) : Option Launch :=
  s.launches.find? fun l => l.world == world && l.queue == queue && l.seq == seq && p l

/-- The next free value (log 8, DESIGN CHOICE). -/
def State.free (s : State) : Word × State := (Config.freeWord s.freeCount, { s with freeCount := s.freeCount + 1 })

/-! ### Registers of the strand -/

/-- A scalar source: 0 to 15 the belt, 16 to 31 n0 to n15 (R19, R30). -/
def Strand.src (st : Strand) (code : R5) : Word :=
  if code.toNat < 16 then st.belt.getD code.toNat 0 else st.n.getD (code.toNat - 16) 0

/-- The named register of a destination code, none for the belt only (R19). -/
def dstReg (d : R5) : Option Nat := if d.toNat < 16 then some d.toNat else none

/-- Push onto the belt (R171). -/
def Strand.pushBelt (st : Strand) (v : Word) : Strand := { st with belt := (v :: st.belt).take 16 }

/-- Write a named register. -/
def Strand.setN (st : Strand) (r : Nat) (v : Word) : Strand := { st with n := st.n.set r v }

def Strand.vreg (st : Strand) (r : Nat) : VReg := SMap.get st.v 0 r
def Strand.setV (st : Strand) (r : Nat) (v : VReg) : Strand := { st with v := SMap.set st.v r v }

/-- A source of the strand whose bundle is being issued. -/
def State.src (s : State) (code : R5) : Word := s.strand.src code

/-- Column `j` of a vector register (R21). -/
def colOf (v : VReg) (j : Nat) : BitVec 128 := v.extractLsb' (128 * j) 128

/-- Replace column `j`. -/
def putCol (v : VReg) (j : Nat) (c : BitVec 128) : VReg :=
  (v &&& ~~~((BitVec.allOnes 128).setWidth 1024 <<< (128 * j))) ||| ((c.setWidth 1024) <<< (128 * j))

/-! ### Fault codes (R327) -/

abbrev cTrap : Nat := 0x00
abbrev cIlleg : Nat := 0x01
abbrev cSched : Nat := 0x02
abbrev cPriv : Nat := 0x03
abbrev cSpace : Nat := 0x04
abbrev cBank : Nat := 0x05
abbrev cAlign : Nat := 0x06
abbrev cTiming : Nat := 0x07
abbrev cRefdebt : Nat := 0x08
abbrev cChown : Nat := 0x09
abbrev cAbsent : Nat := 0x0A
abbrev cXlate : Nat := 0x0B
abbrev cXpoison : Nat := 0x0C
abbrev cVerify : Nat := 0x0D
abbrev cPoison : Nat := 0x0E
abbrev cUe : Nat := 0x0F
abbrev cSdc : Nat := 0x10
abbrev cLockstep : Nat := 0x11
abbrev cRing : Nat := 0x12
abbrev cWheel : Nat := 0x13
abbrev cScale : Nat := 0x14
abbrev cNotice : Nat := 0x16
abbrev cCrdepth : Nat := 0x17
abbrev cMeter : Nat := 0x18

/-- Class bit of an imprecise fault (R327). -/
def impreciseClass (code : Nat) : Nat :=
  if code == cVerify || code == cPoison then 0
  else if code == cUe || code == cLockstep then 1
  else if code == cSdc then 2
  else if code == cTiming || code == cRefdebt then 3
  else if code == cScale then 4
  else if code == cNotice then 6
  else if code == cPriv || code == cXlate || code == cXpoison || code == cRing then 5
  else 7

/-- An imprecise report (R329). -/
def imprecise (code detail : Nat) (addr : Word) : FaultRec :=
  { code := code, slot := 0, cls := impreciseClass code, detail := detail, addr := addr, imprecise := true, merged := false }

/-- The syndrome of a fault (R328). -/
def FaultRec.syndrome (f : FaultRec) : Word :=
  word (2 ^ 63 + (if f.imprecise then 2 ^ 62 else 0) + (if f.merged then 2 ^ 61 else 0) + f.code % 256 * 2 ^ 48
    + f.slot % 8 * 2 ^ 45 + f.cls % 256 * 2 ^ 32 + f.detail % 2 ^ 32)

/-! ### Held results -/

/-- Latest landing cycle of a held entry; entries that hold no result give 0 (R31, R33, R332). -/
def Held.last (h : Held) : Nat :=
  match h.kind with
  | .scalar due _ => due
  | .load _ due _ => due
  | .vector f =>
    if h.counts then
      match f.instr with
      | .vred _ | .vpopc _ => f.t + f.lat + 8
      | _ => f.t + f.lat + f.c0 + f.dcols - 1
    else 0

/-- Latest landing cycle of the strand's held results (R332). -/
def Strand.lastLanding (st : Strand) : Nat := st.held.foldl (fun m h => Nat.max m h.last) 0

/-- Number of held results (R33). -/
def Strand.heldCount (st : Strand) : Nat := (st.held.filter (·.counts)).length

def Strand.hold (st : Strand) (h : Held) : Strand := { st with held := st.held ++ [h] }

/-! ### Engine operations -/

/-- Path classes of R306 by their mask bits. -/
abbrev clsS : Nat := 0
abbrev clsV : Nat := 1
abbrev clsM : Nat := 2
abbrev clsC : Nat := 3
abbrev clsD : Nat := 4
abbrev clsF : Nat := 5
abbrev clsA : Nat := 6
/-- Operations of no path class: remote tokens and background requests. -/
abbrev clsNone : Nat := 7

def OpInfo.none : OpInfo :=
  { id := 0, core := 0, strand := 0, wg := 0, world := 0, after := [], abandoned := false, arrive := [], sync := 0, vctl := 0 }

def Rmw.infos : Rmw → List (Nat × OpInfo)
  | .atomic i _ _ _ _ _ _ => [(clsA, i)]
  | .count _ _ _ _ => []
  | .swset _ _ _ => []

def Core.infos (k : Core) : List (Nat × OpInfo) :=
  k.mq.map (fun o => (clsM, o.info)) ++ k.copies.map (fun o => (clsC, o.info)) ++ k.rmw.flatMap (fun r => r.2.infos)
    ++ k.remote.map (fun r => (clsNone, r.1)) ++ k.lq.map (fun a => (a.cls, a.info)) ++ k.inbound.flatMap (fun r => r.2.infos)

def Pc.infos (p : Pc) : List (Nat × OpInfo) :=
  p.queue.map (fun c => (clsD, c.info)) ++ p.reads.map (fun d => (clsD, d.cmd.info)) ++ p.writes.map (fun d => (clsD, d.cmd.info))

def World.infos (w : World) : List (Nat × OpInfo) :=
  w.mets.map (fun m => (clsNone, m.1)) ++ (match w.rotating with
    | some r => [(clsNone, r.2.2)]
    | none => [])

/-- Every engine operation that has issued and not retired, with its path class. -/
def State.infos (s : State) : List (Nat × OpInfo) :=
  s.cores.flatMap (fun k => k.2.infos) ++ s.pcs.flatMap (fun p => p.2.infos) ++ s.fab.map (fun f => (clsF, f.info))
    ++ s.cks.map (fun c => (clsF, c.info)) ++ s.seals.map (fun c => (clsNone, c.info)) ++ s.worlds.flatMap (fun w => w.2.infos)

/-- The operations of one strand. -/
def State.infosOf (s : State) (c t : Nat) : List (Nat × OpInfo) := s.infos.filter fun i => i.2.core == c && i.2.strand == t

/-- Vector stores that are still reading their columns (R230). -/
def Held.storeId (h : Held) : Option Nat :=
  match h.kind with
  | .scalar _ _ | .load _ _ _ => none
  | .vector f =>
    match f.instr with
    | .vst _ | .vsts _ | .vstx _ | .vacw _ => some f.opId
    | _ => none

def Strand.storeIds (st : Strand) : List Nat := st.held.filterMap Held.storeId

/-- The operation is not performed yet (log 27, DEDUCED). -/
def State.inFlight (s : State) (id : Nat) : Bool :=
  s.infos.any (fun i => i.2.id == id) || s.cores.any fun k => k.2.strands.any fun p => p.2.storeIds.contains id

def Rmw.mapInfo (f : OpInfo → OpInfo) : Rmw → Rmw
  | .atomic i a o w v c r => .atomic (f i) a o w v c r
  | .count a b p x => .count a b p x
  | .swset a t v => .swset a t v

def Core.mapInfo (f : OpInfo → OpInfo) (k : Core) : Core :=
  { k with
    mq := k.mq.map (fun o => { o with info := f o.info })
    copies := k.copies.map (fun o => { o with info := f o.info })
    rmw := k.rmw.map (fun r => (r.1, r.2.mapInfo f))
    remote := k.remote.map (fun r => (f r.1, r.2))
    lq := k.lq.map (fun a => { a with info := f a.info })
    inbound := k.inbound.map (fun r => (r.1, r.2.mapInfo f)) }

def Drain.mapInfo (f : OpInfo → OpInfo) (d : Drain) : Drain := { d with cmd := { d.cmd with info := f d.cmd.info } }

def Pc.mapInfo (f : OpInfo → OpInfo) (p : Pc) : Pc :=
  { p with
    queue := p.queue.map (fun c => { c with info := f c.info })
    reads := p.reads.map (Drain.mapInfo f)
    writes := p.writes.map (Drain.mapInfo f) }

def World.mapInfo (f : OpInfo → OpInfo) (w : World) : World :=
  { w with
    mets := w.mets.map (fun m => (f m.1, m.2))
    rotating := w.rotating.map (fun r => (r.1, r.2.1, f r.2.2)) }

/-- Change what every operation carries. -/
def State.mapInfo (s : State) (f : OpInfo → OpInfo) : State :=
  { s with
    cores := s.cores.map (fun k => (k.1, k.2.mapInfo f))
    pcs := s.pcs.map (fun p => (p.1, p.2.mapInfo f))
    fab := s.fab.map (fun o => { o with info := f o.info })
    cks := s.cks.map (fun o => { o with info := f o.info })
    seals := s.seals.map (fun o => { o with info := f o.info })
    worlds := s.worlds.map (fun w => (w.1, w.2.mapInfo f)) }

/-- Abandon the operations of a strand issued from operation number `first` on (R332, R333; log 39, DEDUCED). -/
def State.abandon (s : State) (c t first : Nat) : State :=
  s.mapInfo fun i => if i.core == c && i.strand == t && first ≤ i.id then { i with abandoned := true } else i

/-- Abandon every operation of a workgroup (R334). -/
def State.abandonWg (s : State) (wg : Nat) : State :=
  s.mapInfo fun i => if i.wg == wg then { i with abandoned := true } else i

/-- Ids that a fence puts before an operation of class `cls` (R319): those of every open fence whose to-classes hold it. -/
def Strand.fencedBy (st : Strand) (cls : Nat) : List Nat :=
  (st.fences.filter fun f => f.dst.getLsbD cls).flatMap (·.waits)

/-- What a new operation of the strand being issued carries. -/
def State.newInfo (s : State) (cls : Nat) (sync : Word) : OpInfo :=
  { id := s.nextId, core := s.cur.core, strand := s.cur.strand, wg := s.core.wg.getD 0, world := s.strand.world,
    after := s.strand.fencedBy cls, abandoned := false, arrive := s.cur.arrive, sync := sync, vctl := s.core.vctl }

def State.bumpId (s : State) : State := { s with nextId := s.nextId + 1 }

/-- Every operation that a fence puts before this one is performed (R319, R320). -/
def State.unfenced (s : State) (i : OpInfo) : Bool := i.after.all fun id => !s.inFlight id

/-! ### Outcomes of a syllable -/

def State.verdict (s : State) (v : Verdict) : State := { s with cur := { s.cur with verdict := v } }

/-- The syllable has taken its effect. -/
def State.ok (s : State) : Out State := .next (s.verdict .ok)

/-- The syllable cannot proceed: nothing changes (R29). -/
def State.block (s : State) : Out State := .next (s.verdict .blocked)

/-- A condition under which the bundle being issued blocks or faults; none is asked once its atomic has been sent and performed (R26, R29, R170). -/
def State.asks (s : State) (b : Bool) : Bool := b && !s.cur.sure

/-- The first failure of a list of such conditions. -/
def State.asked (s : State) (e : Option Nat) : Option Nat := if s.cur.sure then none else e

/-! ### Reports and delivery (R330 to R334) -/

/-- The innermost region whose mask has the class, with the regions outside it (R331). -/
def Region.find : List Region → Nat → Option (Region × List Region)
  | [], _ => none
  | r :: rs, cls => if r.mask.getLsbD cls then some (r, rs) else Region.find rs cls

/-- The workgroup stops and drains (R334, R352): strands stop at their boundary, a strand with a sent atomic after its bundle (R330). -/
def Core.stopStrands (k : Core) : Core :=
  { k with strands := k.strands.map fun p =>
      (p.1, match p.2.status with
        | .running | .halted | .ended => if p.2.sent.isSome then p.2 else { p.2 with status := .stopped, regions := [] }
        | _ => p.2) }

/-- Terminate a workgroup: by a fault of the given code, or by the supervisor (R334, R352, R298; log 47, DEDUCED). -/
def State.terminate (s : State) (wg : Nat) (code : Nat) (killed : Bool) : State :=
  match s.wgAt wg with
  | none => s
  | some w =>
    match w.state with
    | .draining _ _ => s
    | _ =>
      let s1 := (s.modWg wg fun w => { w with state := .draining code killed }).abandonWg wg
      let s2 := { s1 with
        cores := s1.cores.map (fun (k : Nat × Core) => if k.2.wg == some wg then (k.1, k.2.stopStrands) else k)
        seals := s1.seals.map (fun (q : SealReq) => if q.wg == wg && !q.isUnseal then { q with endedBy := some (if killed then 0 else code) } else q) }
      let s3 := s2.modLaunch w.launch fun l =>
        if killed then { l with killed := true }
        else { l with faultCode := match l.faultCode with
                        | some c => some c
                        | none => some code }
      match s.launchOf w.launch with
      | some l =>
        if !killed && l.domain != 0 then
          s3.modWorld w.world fun x => { x with domains := if (SMap.find x.domains l.domain).isSome then x.domains else SMap.set x.domains l.domain code }
        else s3
      | none => s3

/-- Whether a pending report belongs to region `r` or to one inside it, of which there are `depth` (R332). -/
def reportInside (regions : List Region) (depth : Nat) (f : FaultRec) : Bool :=
  match Region.find regions f.cls with
  | some (_, outer) => regions.length - outer.length ≤ depth
  | none => false

/-- The handler's entry: the strand after a fault has been delivered to a region (R332), with its next bundle due at `h` (log 42, DEDUCED). -/
def Strand.enter (st : Strand) (f : FaultRec) (r : Region) (outer : List Region) (tn : Nat) : Strand :=
  let h := Nat.max (tn + 2) st.lastLanding
  let depth := st.regions.length - outer.length
  let dropped := st.reports.filter (reportInside st.regions depth)
  let syn := { f with merged := f.merged || !dropped.isEmpty }.syndrome
  { st with
    reports := st.reports.filter (fun x => !reportInside st.regions depth x)
    regions := outer
    fault := syn
    faddr := f.addr
    fcount := st.fcount + word dropped.length + 1
    held := st.held ++ [⟨.scalar h (.named 14 syn), true, []⟩, ⟨.scalar h (.named 15 f.addr), true, []⟩]
    repActive := false
    arrived := false
    released := false
    owed := h - st.ctime
    pc := r.handler }

/-- A fault reaches its strand: the innermost covering region takes it, or the workgroup ends (R331, R332, R334). `tn` is the CTIME at which the next bundle would have issued. -/
def State.deliver (s : State) (c t : Nat) (f : FaultRec) (tn : Nat) : State :=
  let st := s.strandAt c t
  match Region.find st.regions f.cls with
  | some (r, outer) => (s.setStrandAt c t (st.enter f r outer tn)).abandon c t r.firstId
  | none =>
    let s1 := s.setStrandAt c t { st with fault := f.syndrome, faddr := f.addr, fcount := st.fcount + 1, owed := 0 }
    match (s.coreAt c).wg with
    | some wg => s1.terminate wg f.code false
    | none => s1

/-- Take a precise fault of the bundle being issued, at its issue cycle (R34, R330): t_n is one cycle later. -/
def State.takePrecise (s : State) (f : FaultRec) : State :=
  let s1 := s.deliver s.cur.core s.cur.strand f (s.strand.ctime + 1)
  { s1 with cur := { s1.cur with verdict := .faulted, raised := some f } }

/-- A precise fault with a DETAIL (R328, R329). -/
def State.faultD (s : State) (code detail : Nat) : Out State :=
  .next (s.takePrecise { code := code, slot := s.cur.slot.pos, cls := 7, detail := detail, addr := s.cur.pc, imprecise := false, merged := false })

/-- A precise fault of the syllable being issued: `Fault(code)` of R36. -/
def State.fault (s : State) (code : Nat) : Out State := s.faultD code 0

/-- Insert by fault code, after equal codes. -/
def insertCode (f : FaultRec) : List FaultRec → List FaultRec
  | [] => [f]
  | g :: gs => if f.code < g.code then f :: g :: gs else g :: insertCode f gs

/-- Put a report among the undelivered ones: those of one core cycle stand in order of fault code, and a ninth is merged into the oldest (R331). -/
def Strand.addReport (st : Strand) (cycle : Nat) (f : FaultRec) : Strand :=
  let n := if st.freshAt == cycle then Nat.min st.fresh st.reports.length else 0
  if st.reports.length < 8 then
    { st with
      reports := st.reports.take (st.reports.length - n) ++ insertCode f (st.reports.drop (st.reports.length - n))
      freshAt := cycle
      fresh := n + 1 }
  else match st.reports with
    | [] => st
    | o :: rest => { st with reports := { o with merged := true } :: rest, fcount := st.fcount + 1 }

/-- A seal has passed NOTICE, so the workgroup takes no report now (R351, R354). -/
def State.sealStopped (s : State) (wg : Nat) : Bool := s.seals.any fun q => q.wg == wg && !q.isUnseal && q.stage != .notice

/-- Report an imprecise fault to a strand (R330). After `end` it is delivered at once (R204), unless a seal has stopped the workgroup (R354). -/
def State.report (s : State) (c t : Nat) (f : FaultRec) : State :=
  let st := s.strandAt c t
  match st.status with
  | .running | .halted => s.setStrandAt c t (st.addReport (s.coreAt c).cycle f)
  | .ended =>
    match (s.coreAt c).wg with
    | some wg => if s.sealStopped wg then s.setStrandAt c t (st.addReport (s.coreAt c).cycle f) else s.deliver c t f st.ctime
    | none => s
  | .stopped | .absent | .finished => s

def State.reportOp (s : State) (i : OpInfo) (f : FaultRec) : State := s.report i.core i.strand f

/-- The order in which the pending reports are taken: the one with the lowest fault code of the earliest (R331). -/
def Strand.nextReport (st : Strand) : Option FaultRec := st.reports.head?

/-- Deliver the oldest pending report of a strand at its bundle boundary (R330, R332). -/
def State.deliverReport (s : State) (c t : Nat) : State :=
  let st := s.strandAt c t
  match st.reports with
  | [] => s
  | f :: rest =>
    if st.sent.isSome then s
    else (s.setStrandAt c t { st with reports := rest }).deliver c t f (st.ctime + st.owed)

/-! ### Pointers (R37) -/

def Word.space (p : Word) : Nat := Word.field p 60 4

/-- A pointer to an own or cluster scratchpad byte: rank, or none for the own core, and bank × 65,536 + byte. -/
structure SpadPtr where
  rank : Option Nat
  addr : Nat
  deriving DecidableEq, Repr

/-- Space-1 and space-2 pointers whose zero bits are zero (R37). -/
def spadPtr (p : Word) : Option SpadPtr :=
  if Word.space p == 1 then (if Word.field p 20 40 == 0 then some ⟨none, Word.field p 0 20⟩ else none)
  else if Word.space p == 2 then
    (if Word.field p 20 36 == 0 && Word.field p 56 4 < 12 then some ⟨some (Word.field p 56 4), Word.field p 0 20⟩ else none)
  else none

/-- The physical core of a rank of a workgroup (R274); none for a rank it does not have (R138). -/
def Workgroup.coreOf (w : Workgroup) (rank : Nat) : Option Nat := w.cores[rank]?

/-- The physical core and address that a scratchpad pointer names for the strand being issued; none is SPACE (R37, R138). -/
def State.resolve (s : State) (p : Word) : Option (Nat × Nat) :=
  match spadPtr p with
  | none => none
  | some q =>
    match q.rank with
    | none => some (s.cur.core, q.addr)
    | some r => (s.wg.bind fun w => w.coreOf r).map fun c => (c, q.addr)

/-- The same for an operation that has issued. -/
def State.resolveFor (s : State) (i : OpInfo) (p : Word) : Option (Nat × Nat) :=
  match spadPtr p with
  | none => none
  | some q =>
    match q.rank with
    | none => some (i.core, q.addr)
    | some r => ((s.wgAt i.wg).bind fun w => w.coreOf r).map fun c => (c, q.addr)

def bankOf (addr : Nat) : Nat := addr / 65536

/-! ### Read-modify-write queues (R143) -/

/-- Queue a count of a sync word at a core (R143, R155). -/
def Core.queueCount (k : Core) (addr bytes : Nat) (pz ab : Bool) : Core :=
  -- the oldest mergeable count takes the sum, so look from the oldest after the last swset
  let lastSet := (k.rmw.zipIdx.filter (fun r => match r.1.2 with
      | .swset a _ _ => a == addr
      | _ => false)).getLast?.map (·.2)
  let mergeable := k.rmw.zipIdx.find? fun r => (match lastSet with
      | some i => i < r.2
      | none => true) && (match r.1.2 with
      | .count a _ _ _ => a == addr
      | _ => false)
  match mergeable with
  | some ((_, .count _ n p x), i) => { k with rmw := k.rmw.set i (bankOf addr, .count addr (n + bytes) (p || pz) (x || ab)) }
  | _ => { k with rmw := k.rmw ++ [(bankOf addr, .count addr bytes pz ab)] }

/-- Put a read-modify-write on its way to a bank: one of the own core is there at once, one of another core takes an R-class access of no stated delay (R140, R143, R393). -/
def State.sendRmw (s : State) (from_ c bank : Nat) (r : Rmw) : State :=
  s.modCore c fun k =>
    if from_ != c then { k with inbound := k.inbound ++ [(bank, r)] }
    else match r with
      | .count addr bytes p x => k.queueCount addr bytes p x
      | _ => { k with rmw := k.rmw ++ [(bank, r)] }

/-- Count bytes of an operation into its sync word, if it names one (R155, R333; log 27, DEDUCED). -/
def State.countFor (s : State) (i : OpInfo) (bytes : Nat) (poisoned : Bool) : State :=
  if i.sync = 0 then s
  else match s.resolveFor i i.sync with
    | some (c, addr) => s.sendRmw i.core c (bankOf addr) (.count addr bytes poisoned i.abandoned)
    | none => s

/-! ### Error events (R343 to R346) -/

/-- Physical place of a system-window address under a page map: region 0x1, [51:39] zero (R47, R195). -/
def pageOf (va : Nat) : Nat := va % 2 ^ 39 / Config.pageBytes

def sysPlace (pages : SMap Page) (va : Nat) : Option Nat :=
  if va / 2 ^ 52 == 1 && va % 2 ^ 52 / 2 ^ 39 == 0 then
    match SMap.find pages (pageOf va) with
    | some p => if p.poisoned then none else some (p.frame * Config.pageBytes + va % Config.pageBytes)
    | none => none
  else none

/-- Workgroups of a world that run and still use a replaced translation (R325). -/
def State.pendingViews (s : State) (world : Nat) : Nat := (s.wgs.filter fun w => w.world == world && w.stale && w.state != .sealed).length

/-- The translation that fabric targets use (R82, R325; log 14, DESIGN CHOICE). -/
def State.fabPages (s : State) (world : Nat) : SMap Page :=
  if s.pendingViews world == 0 then (s.worldAt world).live else (s.worldAt world).fabView

/-- The entries that an invalidation names take the table's value; the others stay (R324, R325). -/
def publish (sel : Nat → Bool) (table live : SMap Page) : SMap Page :=
  (table.filter fun p => sel p.1).foldl (fun m p => SMap.set m p.1 p.2) (live.filter fun p => !sel p.1)

/-- Poison of a rewritten entry clears wherever it is still in use (R347). -/
def unpoison (sel : Nat → Bool) (table m : SMap Page) : SMap Page :=
  m.map fun p => if sel p.1 && ((SMap.find table p.1).map (·.poisoned)) != some true then (p.1, { p.2 with poisoned := false }) else p

/-- An invalidation of the selected pages of a world: the table is published, its running workgroups are to take it at their next boundary (R324, R325, R347). -/
def State.invalidate (s : State) (world : Nat) (sel : Nat → Bool) : State :=
  let old := s.fabPages world
  let s1 := s.modWorld world fun w =>
    { w with live := publish sel w.pages w.live, fabView := unpoison sel w.pages old }
  let t := (s.worldAt world).pages
  { s1 with wgs := s1.wgs.map fun g => if g.world == world then { g with view := unpoison sel t g.view } else g }

/-- The check of a page-table entry fails from now on: every walk of it, by any context of the world, meets the poison (R347). -/
def State.poisonEntry (s : State) (world page : Nat) : State :=
  let hit (m : SMap Page) : SMap Page := m.map fun p => if p.1 == page then (p.1, { p.2 with poisoned := true, found := false }) else p
  let s1 := s.modWorld world fun w => { w with pages := hit w.pages, live := hit w.live, fabView := hit w.fabView }
  { s1 with wgs := s1.wgs.map fun g => if g.world == world then { g with view := hit g.view } else g }

/-- The pages that hold a byte of a launch's image (R281). -/
def codePages (l : Launch) : List Nat :=
  let first := pageOf l.kernel.toNat
  (List.range ((l.kernel.toNat % Config.pageBytes + l.code + Config.pageBytes - 1) / Config.pageBytes)).map (first + ·)

/-- A page of the world's system window, or the frame that it translates to, holds measured code of a launch that has not completed: it is read-only to the world (R281; log 38, DESIGN CHOICE). -/
def State.codeAt (s : State) (world page frame : Nat) : Bool :=
  s.launches.any fun l => l.world == world && l.failed.isNone && ((codePages l).contains page || l.codeFrames.contains frame)

/-! ### Lines of system memory (R84, R90, R104) -/

/-- The physical place of a logical system slice, numbered stack × 32 + slice (R84). -/
def State.systemPlace (s : State) (l : Nat) : Nat × Nat := SMap.get s.sysMap (56 + l % 32 / 4, l % 4) l

/-- The logical slice that holds a physical place of the system channels, if one does. -/
def State.systemHolder (s : State) (stack pc sid : Nat) : Option Nat :=
  ((List.range 32).map (stack * 32 + ·)).find? fun l => !s.sysOff.contains l && s.systemPlace l == (pc, sid)

/-- Address in system memory of a physical line on a system channel (R84, R90; log 73, DEDUCED). -/
def State.sysAddr (s : State) (pla : Nat) : Option Nat :=
  (s.systemHolder (pla / 2 ^ 29) (pla / 2 ^ 23 % 64) (pla / 2 ^ 21 % 4)).map fun l => l / 32 * 2 ^ 33 + l % 32 * 2 ^ 28 + pla % 2 ^ 21 * 128

/-- Physical line address of a byte of system memory (R84, R90; log 73, DEDUCED). -/
def State.sysPla (s : State) (a : Nat) : Nat :=
  let off := a % 2 ^ 33
  let p := s.systemPlace (a / 2 ^ 33 * 32 + off / 2 ^ 28)
  (a / 2 ^ 33 * 64 + p.1) * 2 ^ 23 + p.2 * 2 ^ 21 + off % 2 ^ 28 / 128

/-- The stored line of a 64-byte unit of system memory fails its verification: it was changed, lost, or has an uncorrectable error (R93, R104; log 73, DEDUCED). -/
def State.sysFails (s : State) (u : Nat) : Bool := s.sysBad.contains u || s.dramErrs.contains (s.sysPla (u * 64), true)

/-- A 64-byte unit of system memory is read as poisoned zeros (R98, R137). -/
def State.unitBad (s : State) (u : Nat) : Bool := s.sysPoison.contains u || s.sysFails u

/-- Bytes of system memory as a reader gets them: those of bad units are zero (R98, R137). -/
def State.readSys (s : State) (a n : Nat) : List Byte :=
  (Memory.readN s.sysmem a n).zipIdx.map fun b => if s.unitBad ((a + b.2) / 64) then 0 else b.1

/-- The 64-byte units of system memory whose stored line fails its verification, of those that a range touches (R104). -/
def State.unitsFailing (s : State) (a n : Nat) : List Nat :=
  let cells := (s.dramErrs.filter (·.2)).flatMap fun e => match s.sysAddr e.1 with
    | some x => [x / 64, x / 64 + 1]
    | none => []
  ((s.sysBad ++ cells).filter fun u => a < u * 64 + 64 && u * 64 < a + n).eraseDups

/-- Lines of system memory that a range touches and that fail (R104). -/
def State.sysFailing (s : State) (a n : Nat) : List Nat := ((s.unitsFailing a n).map fun u => s.sysPla (u * 64)).eraseDups

/-- No cell error is left in a frame of system memory. -/
def State.mendFrame (s : State) (frame : Nat) : State :=
  { s with dramErrs := s.dramErrs.filter fun e => (s.sysAddr e.1).map (· / Config.pageBytes) != some frame }

/-- Write bytes of system memory; the 64-byte units that they cover whole become sound, or poisoned with `poison` (R137; log 38, DESIGN CHOICE; log 73, DEDUCED). -/
def State.putSys (s : State) (a : Nat) (bs : List Byte) (poison : Bool) : State :=
  let first := a / 64
  let cnt := (a + bs.length + 63) / 64 - first
  let whole := fun u => a ≤ u * 64 && u * 64 + 64 ≤ a + bs.length
  let units := (List.range cnt).map (first + ·)
  { s with
    sysmem := Memory.writeN s.sysmem a bs
    sysBad := s.sysBad.filter fun u => !(units.contains u && whole u)
    sysPoison := (s.sysPoison.filter fun u => !(units.contains u && (poison || whole u))) ++ (if poison then units else []) }

/-- Write bytes at a system-window address of a world, under the translation last published for it (R324, R325); nothing where it does not translate. -/
def State.sysWrite (s : State) (world va : Nat) (bs : List Byte) : State :=
  match sysPlace (s.worldAt world).live va with
  | some a => s.putSys a bs false
  | none => s

/-- Read bytes of one page at a system-window address of a world; those of a line that is poisoned or fails are zero (R98, R104; log 104, DESIGN CHOICE). -/
def State.sysRead (s : State) (world va n : Nat) : Option (List Byte) :=
  (sysPlace (s.worldAt world).live va).map fun a => s.readSys a n

/-- An error event to be numbered. -/
structure ErrEvent where
  cat : Nat
  code : Nat
  world : Nat
  corrected : Bool
  injected : Bool
  loc : Word
  deriving DecidableEq, Repr

/-- Object and threshold of the window counting: key, window in ns, corrected events and uncorrectable events that make it lasting (R346); a VERIFY event enters no window, nor does a tag mismatch, which is no error of the line's cells, nor an event of category 0 or 1 that no row is known for (R346, R390). -/
def ErrEvent.window (e : ErrEvent) : Option (Nat × Nat × Nat) :=
  let kind := Word.field e.loc 60 4
  if e.injected || e.code == cVerify || e.code == cPoison then none
  else if kind == 0 && e.cat ≤ 1 then
    some (1 + (Word.field e.loc 3 29) * 8, 3600000000000, if e.corrected then 3 else 1)
  else if kind == 1 && (e.cat == 2 || e.cat == 3) then
    some (2 + (Word.field e.loc 0 28) * 8, 600000000000, if e.corrected then 2 else 1)
  else if kind == 3 && e.cat == 4 then some (3 + (Word.field e.loc 18 10) * 8, 86400000000000, 2)
  else none

/-- Weigh an event in its window: the new windows, and the key of the object that it makes lasting (R346). An object that is lasting already reaches no threshold again. -/
def State.weigh (s : State) (e : ErrEvent) : SMap (List Nat) × Option Nat :=
  match e.window with
  | none => (s.windows, none)
  | some (key, span, limit) =>
    let recent := s.ns :: (SMap.get s.windows [] key).filter (fun t => s.ns < t + span)
    (SMap.set s.windows key recent, if limit ≤ recent.length && !s.lasting.contains key then some key else none)

/-- The core die of a row of main memory, by stack × 16 + number, and its bank (R46, R346). -/
def dieOfRow (row : Nat) : Nat × Nat :=
  (row / 2 ^ 26 * 16 + row / 2 ^ 18 % 4 * 4 + Config.dieOf (row / 2 ^ 20 % 64) (row / 2 ^ 14 % 64) % 4, row / 2 ^ 14 % 2 ^ 12)

/-- A row has become lasting: the rows of the last 24 hours, and the key of its core die where 16 of them lie in distinct banks of it (R346). -/
def State.weighRow (s : State) (row : Nat) : List (Nat × Nat × Nat) × Option Nat :=
  let d := dieOfRow row
  let rows := (s.ns, d) :: s.dieRows.filter fun r => s.ns < r.1 + 86400000000000
  let banks := ((rows.filter fun r => r.2.1 == d.1).map (·.2.2)).eraseDups
  let key := 4 + d.1 * 8
  (rows, if 16 ≤ banks.length && !s.lasting.contains key then some key else none)

/-- Count an event in the sliding windows (R346). -/
def State.count (s : State) (e : ErrEvent) : State :=
  let w := s.weigh e
  let s1 := { s with windows := w.1, lasting := w.2.toList ++ s.lasting }
  match w.2 with
  | some key =>
    if key % 8 == 1 then
      let d := s1.weighRow (key / 8)
      { s1 with dieRows := d.1, lasting := d.2.toList ++ s1.lasting }
    else s1
  | none => s1

/-- An object is replaced or out of service: its window and its mark go (R346). -/
def State.settled (s : State) (key : Nat) : State :=
  { s with windows := SMap.erase s.windows key, lasting := s.lasting.filter (· != key) }

/-- Where an event stands in source order: stack and pseudo-channel, then cluster, core and bank, then links; one of a tile or a pair stands before those of its core's banks, and one that R343 places nowhere before the links (R343; log 112, DESIGN CHOICE). -/
def ErrEvent.place (e : ErrEvent) : Nat :=
  let kind := Word.field e.loc 60 4
  if kind == 0 then Word.field e.loc 23 9
  else if kind == 1 || kind == 2 then 2 ^ 16 + Word.field e.loc (if kind == 1 then 14 else 18) (if kind == 1 then 14 else 10) * (if kind == 1 then 1 else 16)
  else if kind == 3 then 2 ^ 16 + (Word.field e.loc 22 6 * 16 + 2 * Word.field e.loc 18 4) * 16
  else if kind == 5 then 2 ^ 18 + Word.field e.loc 0 5
  else 2 ^ 17

/-- The log entry of an event behind its sequence number (R345). -/
def State.logBytes (s : State) (e : ErrEvent) : List Byte :=
  leBytes 8 s.ns ++ leBytes 1 e.cat ++ leBytes 1 e.code ++ leBytes 1 e.world
    ++ leBytes 1 ((if e.corrected then 1 else 0) + (if (s.weigh e).2.isSome then 2 else 0) + (if e.injected then 4 else 0))
    ++ leBytes 8 e.loc.toNat ++ leBytes 4 0

/-- The events numbered at the present tick, in source order (R343). -/
def State.thisTick (s : State) : List LogLine := if s.instantAt == s.tick then s.instant else []

/-- How many of them are in the log. -/
def State.loggedNow (s : State) : Nat := if s.instantAt == s.tick then s.instantLogged else 0

/-- Put an event behind those that stand no later in source order. -/
def putLine (x : LogLine) : List LogLine → List LogLine
  | [] => [x]
  | y :: ys => if y.place ≤ x.place then y :: putLine x ys else x :: y :: ys

/-- Write the log entry of sequence number `seq` as entry `index` (R345). -/
def State.writeEntry (s : State) (index seq : Word) (bytes : List Byte) : State :=
  s.sysWrite 0 (s.elogBase.toNat + index.toNat % 4096 * 32) (leBytes 8 seq.toNat ++ bytes)

/-- Number, count, weigh and log an error event. Events of one tick take their numbers in source order, so one that is detected after another of its tick and stands before it takes its number, and those behind move up (R343, R345, R346; log 112, DESIGN CHOICE). -/
def State.errorEvent (s : State) (e : ErrEvent) : State :=
  let lines := putLine ⟨e.place, s.logBytes e⟩ s.thisTick
  let full : Bool := s.elogHead - s.elogTail == 4096
  let logged := s.loggedNow + if full then 0 else 1
  let s1 := { s.count e with
    eseq := s.eseq + 1, ecnt := SMap.set s.ecnt e.cat (SMap.get s.ecnt 0 e.cat + 1)
    elogOvf := s.elogOvf || full, elogHead := if full then s.elogHead else s.elogHead + 1
    instant := lines, instantAt := s.tick, instantLogged := logged }
  let first := (s.thisTick.filter fun y => y.place ≤ e.place).length
  (((lines.zipIdx.take logged).drop first).foldl (fun (s1 : State) x =>
    s1.writeEntry (s.elogHead - word s.loggedNow + word x.2) (s.eseq - word s.thisTick.length + 1 + word x.2) x.1.bytes) s1)

/-- Lines of system memory that a range touches fail their verification: an event for each (R97, R104, R343). -/
def State.sysVerify (s : State) (world a n : Nat) : State :=
  (s.sysFailing a n).foldl (fun (s : State) pla =>
    s.errorEvent { cat := 1, code := cVerify, world := world, corrected := false, injected := false, loc := word pla }) s

/-- The lines of a run that the device itself has read and that fail are logged, page by page (R98, R104, R343). -/
def verifyRun (world : Nat) : Nat → Nat → Nat → State → State
  | 0, _, _, s => s
  | fuel + 1, va, n, s =>
    if n == 0 then s
    else
      let room := Config.pageBytes - va % Config.pageBytes
      let s1 := match sysPlace (s.worldAt world).live va with
        | some a => s.sysVerify world a (Nat.min n room)
        | none => s
      verifyRun world fuel (va + room) (n - room) s1

/-- What the device itself has read at an address of the world's system window is logged where it fails. -/
def State.sysChecked (s : State) (world va n : Nat) : State := verifyRun world (n / Config.pageBytes + 2) va n s

/-- Location of a scratchpad line in the error log: cluster, core, bank, line (R345). -/
def locLine (core addr : Nat) : Word :=
  word (1 * 2 ^ 60 + core / 12 * 2 ^ 22 + core % 12 * 2 ^ 18 + addr / 65536 % 16 * 2 ^ 14 + addr % 65536 / 64)

end Sys2Proof.Machine
end

