-- ==== Sys2Proof/Machine/Formats.lean ====
section
/-! DEFINITION. Bank formats and scaled tiles: the bank format register (R105 to R107), packed elements (R109), entry into a format (R117 to R119), the scale record (R123), decoding with scales (R124), TileEncode, tscale, tile copies and the tquant algorithm (R128 to R132). -/

namespace Sys2Proof.Machine

open Sys2Proof

/-! ### Element formats -/

/-- What a code of a bank or register element stands for (R106, R110). -/
inductive Elem where
  | int (bits : Nat) (signed : Bool)
  | flt (bits : Nat) (f : FloatFmt)
  | f4 (x : FVal)
  deriving DecidableEq, Repr

def Elem.bits : Elem → Nat
  | .int b _ => b
  | .flt b _ => b
  | .f4 _ => 4

def Elem.decode (e : Elem) (c : Nat) : FVal :=
  match e with
  | .int b s => FVal.ofInt (codeInt b s c)
  | .flt _ f => f.decode c
  | .f4 x => f4Decode x c

/-- Enter a format (R115, R117 to R119). -/
def Elem.encode (e : Elem) (m : RMode) (sat : Bool) (v : FVal) : Nat :=
  match e with
  | .int b s => intCode b (toIntRange m (intRange b s).1 (intRange b s).2 v)
  | .flt _ f => f.encode m sat v
  | .f4 x => f4Encode x m v

def Elem.isInt : Elem → Bool
  | .int _ _ => true
  | _ => false

end Sys2Proof.Machine

namespace Sys2Proof

open Sys2Proof.Machine

/-- The element of a register type; integers signed or not (R20, R217). -/
def VType.elem (t : VType) (signed : Bool) : Elem :=
  match t with
  | .i8 => .int 8 signed
  | .i16 => .int 16 signed
  | .i32 => .int 32 signed
  | .i64 => .int 64 signed
  | .bf16 => .flt 16 fmtBf16
  | .f16 => .flt 16 fmtF16
  | .f32 => .flt 32 fmtF32
  | .f64 => .flt 64 fmtF64

end Sys2Proof

namespace Sys2Proof.Machine

open Sys2Proof

/-! ### The bank format register -/

abbrev bfmtElem (w : Word) : Nat := Word.field w 11 5
abbrev bfmtScaled (w : Word) : Bool := w.getLsbD 10
abbrev bfmtP (w : Word) : Nat := Word.field w 7 3
abbrev bfmtUns (w : Word) : Bool := w.getLsbD 6
abbrev bfmtInf (w : Word) : Bool := w.getLsbD 5
abbrev bfmtRnd (w : Word) : RMode := RMode.ofCode (Word.field w 3 2)
abbrev bfmtSat (w : Word) : Bool := w.getLsbD 2
abbrev bfmtX (w : Word) : Nat := Word.field w 16 16

/-- The bits that BFMT keeps; the others read as zero (R7, R105). -/
def bfmtMask : Word := 0x00000000FFFFFFFC

/-- Validity (R107). -/
def bfmtValid (w : Word) : Bool :=
  let e := bfmtElem w
  e ≤ 10 && !(e == 5 && bfmtP w == 0) && !(bfmtScaled w && (e == 0 || e == 8 || e == 9 || e == 10))

/-- The element of a bank; raw bytes count as unsigned 8-bit integers (R106). -/
def bankElem (w : Word) : Elem :=
  match bfmtElem w with
  | 1 => .int 8 true
  | 2 => .int 8 false
  | 3 => .int 4 true
  | 4 => .f4 (fmtBf16.decode (bfmtX w))
  | 5 => .flt 8 (fmtB8 (bfmtP w) (bfmtUns w) (bfmtInf w))
  | 6 => .flt 16 fmtBf16
  | 7 => .flt 16 fmtF16
  | 8 => .flt 32 fmtF32
  | 9 => .flt 64 fmtF64
  | 10 => .int 32 true
  | _ => .int 8 false

/-- The same format for copies: ELEM, P, UNS and INF agree and, for f4, X (R121). -/
def sameFormat (a b : Word) : Bool :=
  bfmtElem a == bfmtElem b && (bfmtElem a != 5 || (bfmtP a == bfmtP b && bfmtUns a == bfmtUns b && bfmtInf a == bfmtInf b))
    && (bfmtElem a != 4 || bfmtX a == bfmtX b)

/-- The value NaN takes in a bank's tile when every element is NaN: the format's NaN (R118, R115). -/
def Elem.nanCode (e : Elem) : Nat := e.encode .rne false .nan

/-- Pmax as a ratio (R106). -/
def Elem.pmax : Elem → Nat × Nat
  | .int b s => ((intRange b s).2.toNat, 1)
  | .f4 _ => (6, 1)
  | .flt _ f =>
    match idxVal f.p f.qmin false f.maxFin with
    | .fin _ n d => (n, d)
    | _ => (1, 1)

/-- Bytes of a tile slot of a bank (R122). -/
def tileBytes (w : Word) : Nat := 128 * (bankElem w).bits

/-- Element `i` of packed bytes of `bits`-bit elements (R109). -/
def getElem_ (bs : List Byte) (bits i : Nat) : Nat :=
  if bits == 4 then (bs.getD (i / 2) 0).toNat / (if i % 2 == 0 then 1 else 16) % 16
  else leNat ((bs.drop (i * (bits / 8))).take (bits / 8))

/-- Pack elements of `bits` bits into bytes (R109). -/
def packElems (bits : Nat) : List Nat → List Byte
  | [] => []
  | a :: rest =>
    if bits == 4 then
      match rest with
      | [] => [BitVec.ofNat 8 (a % 16)]
      | b :: rest' => BitVec.ofNat 8 (a % 16 + 16 * (b % 16)) :: packElems bits rest'
    else leBytes (bits / 8) a ++ packElems bits rest

/-- All the elements of packed bytes. -/
def unpackElems (bits : Nat) (bs : List Byte) : List Nat :=
  if bits == 4 then bs.flatMap fun b => [b.toNat % 16, b.toNat / 16]
  else (List.range (bs.length / (bits / 8))).map (getElem_ bs bits)

/-! ### Scale records (R123) -/

/-- A micro-exponent from the record's bytes 1 to 8 or 9 to 16. -/
def recRho (r : List Byte) (i : Nat) : Nat := (r.getD (1 + i / 4) 0).toNat / 4 ^ (i % 4) % 4
def recGamma (r : List Byte) (j : Nat) : Nat := (r.getD (9 + j / 4) 0).toNat / 4 ^ (j % 4) % 4
def recSigma (r : List Byte) : Nat := (r.getD 0 0).toNat
def recGen (r : List Byte) : Nat := (r.getD 17 0).toNat
def recFlags (r : List Byte) : Nat := (r.getD 18 0).toNat

/-- Eight bytes from 32 two-bit values. -/
def packMicro (vs : List Nat) : List Byte :=
  (List.range 8).map fun b =>
    BitVec.ofNat 8 ((vs.getD (4 * b) 0) % 4 + 4 * (vs.getD (4 * b + 1) 0 % 4) + 16 * (vs.getD (4 * b + 2) 0 % 4) + 64 * (vs.getD (4 * b + 3) 0 % 4))

/-- A record as every tile-granular write writes it (R123): the generation is one more than the previous. -/
def mkRecord (sigma : Nat) (rho gamma : List Byte) (prevGen flags : Nat) : List Byte :=
  [BitVec.ofNat 8 sigma] ++ rho ++ gamma ++ [BitVec.ofNat 8 (prevGen + 1), BitVec.ofNat 8 flags] ++ List.replicate 13 0

def recRhoBytes (r : List Byte) : List Byte := (r.drop 1).take 8
def recGammaBytes (r : List Byte) : List Byte := (r.drop 9).take 8

/-- τ as an exact value (R124). -/
def tauVal (t : Word) : FVal := fmtF32.decode (t.toNat % 2 ^ 32)

/-- value(i, j) of a tile of a scaled bank (R124). The bad-σ case gives NaN. A σ of 0x00 gives +0 under any τ, a NaN included, where R244 has a NaN τ make every element NaN (log 101, DEDUCED). -/
def tileValue (e : Elem) (r : List Byte) (tau : FVal) (code i j : Nat) : FVal :=
  let s := recSigma r
  if s == 0 then FVal.zero
  else if scaleBad s then .nan
  else ((FVal.mul (FVal.mul (e.decode code) (scaleVal s)) tau)).shift (-((recRho r i + recGamma r j : Nat) : Int))

/-! ### TileEncode (R130) -/

/-- The code of ±Pmax. -/
def Elem.pmaxCode (e : Elem) (neg : Bool) : Nat :=
  match e with
  | .int b s => if neg then (if s then intCode b (-(intRange b s).2) else 0) else intCode b (intRange b s).2
  | .f4 _ => if neg then 15 else 7
  | .flt _ f => (if neg then f.sign.getD 0 else 0) + f.maxFin

/-- Encode into a scaled destination: the code and whether flags bit 0 is set (R130). For f4 a finite value is past the range when its magnitude, rounded with unbounded exponent, passes 6; then X is not considered (log 84, DESIGN CHOICE). -/
def tileEncode (e : Elem) (m : RMode) (v : FVal) : Nat × Bool :=
  match e with
  | .int b s =>
    match v with
    | .nan => (0, false)
    | .inf neg => (e.pmaxCode neg, true)
    | .fin neg n d =>
      let i := roundInt m neg n d
      let top := (intRange b s).2
      if top < i then (intCode b top, true)
      else if i < 0 && !s then (0, true)
      else if i < -top then (intCode b (-top), true)
      else (intCode b i, false)
  | .f4 x =>
    match v with
    | .nan => (f4Encode x m .nan, false)
    | .inf neg => if x == .inf neg then (8, false) else (e.pmaxCode neg, true)
    | .fin neg n d => if 7 < roundIdx 2 (-1) m neg n d then (e.pmaxCode neg, true) else (f4Encode x m v, false)
  | .flt _ f =>
    match v with
    | .nan => (f.nanCode, false)
    | .inf neg =>
      if neg && f.sign.isNone then (0, true)
      else match f.infCode with
        | some i => ((if neg then f.sign.getD 0 else 0) + i, false)
        | none => (e.pmaxCode neg, true)
    | .fin neg n d =>
      let i := roundIdx f.p f.qmin m neg n d
      if neg && f.sign.isNone then (0, i != 0)
      else if f.maxFin < i then (e.pmaxCode neg, true)
      else if i == 0 then (if neg && f.negZero then f.sign.getD 0 else 0, false)
      else ((if neg then f.sign.getD 0 else 0) + i, false)

/-! ### tscale (R128) -/

/-- The new σ, the flag bits set, and whether SCALE is raised. -/
def tscaleSigma (sigma : Nat) (f : FVal) : Nat × Nat × Bool :=
  if scaleBad sigma then (0x7F, 0, true)
  else match f with
    | .nan => (0x7F, 0, true)
    | .inf _ => (0x7F, 0, true)
    | .fin neg n d =>
      if n != 0 && neg then (0x7F, 0, true)
      else if sigma == 0 || n == 0 then (0, 0, false)
      else
        match FVal.mul (scaleVal sigma) (.fin false n d) with
        | .fin _ qn qd =>
          if 448 * qd < qn then (0x7E, 1, false)
          else if qn * 512 < qd then (0, 2, false)
          else (roundIdx 4 (-9) .rne false qn qd, 0, false)
        | _ => (0x7F, 0, true)

/-! ### Tile copies between formats (R129) -/

/-- σ', flags set, and whether SCALE is raised; `none` for σ' means every payload is the zero code. -/
def copySigma (sigma : Nat) (src dst : Elem) : Nat × Nat × Bool × Bool :=
  if scaleBad sigma then (0x7F, 0, true, true)
  else if sigma == 0 then (0, 0, false, true)
  else
    match FVal.mul (scaleVal sigma) (.fin false (src.pmax.1 * dst.pmax.2) (src.pmax.2 * dst.pmax.1)) with
    | .fin _ n d => if 448 * d < n then (0x7E, 1, false, false) else (rupE4M3 n d, 0, false, false)
    | _ => (0x7F, 0, true, true)

/-- A converted tile: payload codes, σ', flag bits set, SCALE (R129). -/
structure TileOut where
  codes : List Nat
  sigma : Nat
  rho : List Byte
  gamma : List Byte
  flags : Nat
  scale : Bool
  deriving DecidableEq, Repr

/-- Convert the payload of a tile into another format, keeping ρ and γ (R129, R130). -/
def copyTile (src dst : Elem) (m : RMode) (codes : List Nat) (r : List Byte) : TileOut :=
  let c := copySigma (recSigma r) src dst
  if c.2.2.2 then
    { codes := codes.map fun _ => 0, sigma := c.1, rho := recRhoBytes r, gamma := recGammaBytes r,
      flags := recFlags r ||| c.2.1, scale := c.2.2.1 }
  else
    let enc := codes.map fun x => tileEncode dst m (FVal.div (FVal.mul (src.decode x) (scaleVal (recSigma r))) (scaleVal c.1))
    { codes := enc.map (·.1), sigma := c.1, rho := recRhoBytes r, gamma := recGammaBytes r,
      flags := recFlags r ||| c.2.1 ||| (if enc.any (·.2) then 1 else 0), scale := c.2.2.1 }

/-- The transpose of 32 × 32 codes in row order (R127). -/
def transpose32 {α : Type} (d : α) (xs : List α) : List α :=
  (List.range 1024).map fun k => xs.getD (k % 32 * 32 + k / 32) d

/-! ### tquant (R132) -/

/-- |c| ≤ bound, for a finite c and a ratio. -/
def absLe (c : FVal) (bound : Nat × Nat) : Bool :=
  match c with
  | .fin _ n d => decide (n * bound.2 ≤ bound.1 * d)
  | _ => true

/-- The largest k of 0 to 3 for which `p k` holds, else 0. -/
def largest3 (p : Nat → Bool) : Nat := if p 3 then 3 else if p 2 then 2 else if p 1 then 1 else 0

/-- The greatest magnitude among finite values, as a ratio; 0 when there is none. -/
def maxMag (cs : List FVal) : Nat × Nat :=
  cs.foldl (fun m c => match c with
    | .fin _ n d => if m.1 * d < n * m.2 then (n, d) else m
    | _ => m) (0, 1)

/-- tquant of 1,024 values in row order (R132). With M = 0 every finite element encodes as +0, an element of -0 too (log 84, DESIGN CHOICE). -/
def tquantTile (e : Elem) (m : RMode) (cs : List FVal) (tau : FVal) : TileOut :=
  let bad : TileOut :=
    { codes := cs.map fun _ => 0, sigma := 0x7F, rho := List.replicate 8 0, gamma := List.replicate 8 0, flags := 0, scale := true }
  match tau with
  | .fin false (tn + 1) td =>
    let quot := cs.map fun c => FVal.div c (.fin false (tn + 1) td)
    let M := maxMag quot
    if M.1 == 0 then
      let enc := quot.map fun c => tileEncode e m (if c.isFin then FVal.zero else c)
      { codes := enc.map (·.1), sigma := 0, rho := List.replicate 8 0, gamma := List.replicate 8 0,
        flags := if enc.any (·.2) then 1 else 0, scale := false }
    else
      let q : Nat × Nat := (M.1 * e.pmax.2, M.2 * e.pmax.1)
      let beyond := decide (448 * q.2 < q.1)
      let sigma := if beyond then 0x7E else rupE4M3 q.1 q.2
      match scaleVal sigma with
      | .fin _ sn sd =>
        let bound : Nat × Nat := (sn * e.pmax.1, sd * e.pmax.2)
        let rho := (List.range 32).map fun i =>
          let mx := maxMag ((quot.drop (32 * i)).take 32)
          largest3 fun k => decide (mx.1 * 2 ^ k * bound.2 ≤ bound.1 * mx.2)
        let gamma := (List.range 32).map fun j =>
          largest3 fun k => (List.range 32).all fun i => absLe ((quot.getD (32 * i + j) .nan).shift ((rho.getD i 0 + k : Nat) : Int)) bound
        let enc := quot.zipIdx.map fun p =>
          tileEncode e m (FVal.div (p.1.shift ((rho.getD (p.2 / 32) 0 + gamma.getD (p.2 % 32) 0 : Nat) : Int)) (.fin false sn sd))
        { codes := enc.map (·.1), sigma := sigma, rho := packMicro rho, gamma := packMicro gamma,
          flags := if beyond || enc.any (·.2) then 1 else 0, scale := false }
      | _ => bad
  | _ => bad

end Sys2Proof.Machine
end

