-- ==== Sys2Proof/Machine/Operands.lean ====
section
/-! DEFINITION. Operand forms: results of the scalar path, the random-number generator (R184), pointers of every space (R37), and the addresses that loads, stores and copies form (R122, R148, R190). -/

namespace Sys2Proof.Machine

open Sys2Proof

/-! ### Results of the scalar path (R19, R33, R174) -/

/-- Hold a landing for cycle `due` with the arrivals of its syllable. -/
def Strand.holdScalar (st : Strand) (due : Nat) (l : Landing) (arrive : List (BitVec 4)) : Strand :=
  st.hold ⟨.scalar due l, true, arrive⟩

/-- Hold several landings of one syllable; the last carries its arrivals (R16, R174). -/
def Strand.holdAll (st : Strand) (due : Nat) (arrive : List (BitVec 4)) : List Landing → Strand
  | [] => st
  | [l] => st.holdScalar due l arrive
  | l :: ls => (st.holdScalar due l []).holdAll due arrive ls

/-- A syllable with register results of latency `lat`: SCHED past 64 held results (R33), else the results are held. -/
def State.hold (s : State) (lat : Nat) (ls : List Landing) : Out State :=
  if 64 < s.strand.heldCount + ls.length then s.fault cSched
  else (s.putStrand (s.strand.holdAll (s.strand.ctime + lat) s.cur.arrive ls)).ok

/-- One pushed result (R19). -/
def State.result (s : State) (d : R5) (lat : Nat) (v : Word) : Out State := s.hold lat [.push v (dstReg d)]

/-- A mask write with a pushed result (R176, R178). -/
def State.maskResult (s : State) (d : R5) (cm : Bool) (m : Mask) (v : Word) : Out State :=
  s.hold 1 [.push v (dstReg d), .mask cm m]

/-- Issue-interval check of a divider (R35): true when it is too soon. -/
def Strand.divBusy (st : Strand) (unit interval : Nat) : Bool :=
  match SMap.find st.divider unit with
  | some t => st.ctime < t + interval
  | none => false

def Strand.useDiv (st : Strand) (unit : Nat) : Strand := { st with divider := SMap.set st.divider unit st.ctime }

/-- A result that uses a divider of its slot: SCHED inside the interval (R35, R181, R189). -/
def State.divResult (s : State) (d : R5) (unit interval lat : Nat) (v : Word) : Out State :=
  if s.strand.divBusy unit interval then s.fault cSched
  else if 64 < s.strand.heldCount + 1 then s.fault cSched
  else (s.putStrand ((s.strand.useDiv unit).holdAll (s.strand.ctime + lat) s.cur.arrive [.push v (dstReg d)])).ok

end Sys2Proof.Machine

namespace Sys2Proof

open Sys2Proof.Machine

/-- The divider of the issuing slot: integer 0 and 1 for S0 and S1, floating 2 and 3, vector 4 and 5 (R181, R189, R212). -/
def Slot.divUnit (sl : Slot) (floating : Bool) : Nat :=
  match sl with
  | .s1 => if floating then 3 else 1
  | .v1 => 5
  | .v0 => 4
  | _ => if floating then 2 else 0

end Sys2Proof

namespace Sys2Proof.Machine

open Sys2Proof

/-! ### Random numbers (R184) -/

abbrev W32 := BitVec 32

structure Quad where
  y0 : W32
  y1 : W32
  y2 : W32
  y3 : W32
  deriving DecidableEq, Repr

/-- One round of R184. -/
def Quad.round (y : Quad) (k i : W32) : Quad :=
  let a0 := y.y0 + y.y1 + k
  let a3 := (y.y3 ^^^ a0).rotateLeft 16
  let a2 := y.y2 + a3
  let a1 := (y.y1 ^^^ a2).rotateLeft 12
  let b0 := a0 + a1
  let b3 := (a3 ^^^ b0).rotateLeft 8
  let b2 := a2 + b3 + i
  let b1 := (a1 ^^^ b2).rotateLeft 7
  ⟨b0, b1, b2, b3⟩

/-- The pair lo, hi of counter (c0, c1) and key (R184). -/
def rngPair (c0 c1 key : Word) : Word × Word :=
  let x : Quad := ⟨c0.extractLsb' 0 32, c0.extractLsb' 32 32, c1.extractLsb' 0 32, c1.extractLsb' 32 32⟩
  let k0 : W32 := key.extractLsb' 0 32
  let k1 : W32 := key.extractLsb' 32 32
  let y := (((x.round k0 0).round k1 1).round k0 2).round k1 3
  ((y.y1 ^^^ x.y1) ++ (y.y0 ^^^ x.y0), (y.y3 ^^^ x.y3) ++ (y.y2 ^^^ x.y2))

/-! ### Pointers -/

/-- padd: the low 60 bits move, the space stays (R38, R180). -/
def padd (a b : Word) : Word := (a.extractLsb' 60 4) ++ ((a + b).extractLsb' 0 60)

/-- Where an access of the own core goes (R37). -/
inductive Local where
  | spad (addr : Nat)
  | acc (tile off : Nat)
  | scale (bank rec_ byte : Nat)
  deriving DecidableEq, Repr

/-- A pointer of space 1, 3 or 4 whose zero bits are zero (R37, R38, R190). -/
def localPtr (p : Word) : Option Local :=
  match Word.space p with
  | 1 => if Word.field p 20 40 == 0 then some (.spad (Word.field p 0 20)) else none
  | 3 => if Word.field p 16 44 == 0 then some (.acc (Word.field p 13 3) (Word.field p 0 13)) else none
  | 4 => if Word.field p 16 44 == 0 then some (.scale (Word.field p 12 4) (Word.field p 5 7) (Word.field p 0 5)) else none
  | _ => none

/-- Byte address in the scale store: bank × 4,096 + record × 32 + byte. -/
def scaleAddr (bank rec_ byte : Nat) : Nat := bank * 4096 + rec_ * 32 + byte

/-- Space-4 pointer: bank and byte in the bank's scale store (R37). -/
def scalePtr (p : Word) : Option (Nat × Nat) :=
  if Word.space p == 4 && Word.field p 16 44 == 0 then some (Word.field p 12 4, Word.field p 0 12) else none

/-- Space-5 pointer: the own ring (R37). -/
def ringPtr (p : Word) : Option Nat :=
  if Word.space p == 5 && Word.field p 4 56 == 0 then some (Word.field p 0 4) else none

/-- Space-7 pointer: rank and ring (R37). -/
def clusterRingPtr (p : Word) : Option (Nat × Nat) :=
  if Word.space p == 7 && Word.field p 4 52 == 0 && Word.field p 56 4 < 12 then some (Word.field p 56 4, Word.field p 0 4) else none

/-- Space-6 pointer: device and window offset (R37). -/
def peerPtr (p : Word) : Option (Nat × Nat) :=
  if Word.space p == 6 && Word.field p 56 4 == 0 then some (Word.field p 43 13, Word.field p 0 43) else none

/-- The bank format in force (R105). -/
def Core.fmt (k : Core) (bank : Nat) : Word := SMap.get k.bfmt 0 bank

/-- The wheel in force (R139). -/
def Core.wheel (k : Core) (bank : Nat) : Word := SMap.get k.bwheel Config.defaultWheel bank

/-! ### Wheels (R139, R141) -/

/-- Class code of a position. -/
def wheelPos (w : Word) (p : Nat) : Nat := Word.field w (3 * (p % 16)) 3

/-- A wheel, or a bank's wheel, has a position of a class: L 1, M 2, C 3, R 4, W 5 (R139, R140). -/
def wheelServes (w : Word) (cls : Nat) : Bool := (List.range 16).any fun p => wheelPos w p == cls
def Core.serves (k : Core) (bank cls : Nat) : Bool := wheelServes (k.wheel bank) cls

/-- Length of the run of W positions that starts at `p`. -/
def wheelRun (w : Word) : Nat → Nat → Nat
  | 0, _ => 0
  | fuel + 1, p => if wheelPos w p == 5 then wheelRun w fuel (p + 1) + 1 else 0

/-- The wheel has a window. -/
def wheelHasWindow (w : Word) : Bool := (List.range 16).any fun p => 3 ≤ wheelRun w 16 p

/-- The first three rules of R141. -/
def wheelOk (w : Word) : Bool :=
  (List.range 16).all fun p =>
    wheelPos w p < 6
    && (wheelPos w p == 1 || wheelPos w (p + 1) == 1 || wheelPos w (p + 2) == 1 || wheelPos w (p + 3) == 1)
    && (!(wheelPos w p == 5 && wheelPos w (p + 15) != 5) || wheelRun w 16 p % 3 == 0)

/-! ### Ring descriptors (R147, R148) -/

def ringCount (d : Word) : Nat := Word.field d 40 8 + 1
def ringSizeCode (d : Word) : Nat := Word.field d 36 4
/-- Slot bytes; 0 for a barrier. -/
def ringSlot (d : Word) : Nat := if ringSizeCode d == 0 then 0 else 32 * 2 ^ ringSizeCode d
def ringStripe (d : Word) : Nat := 2 ^ Word.field d 34 2
def ringRec (d : Word) : Nat := Word.field d 27 7
def ringBank (d : Word) : Nat := Word.field d 16 4
def ringOff (d : Word) : Nat := Word.field d 0 16

/-- Validity of a descriptor under the format of its first bank (R147). -/
def ringDescOk (fmt d : Word) : Bool :=
  Word.field d 48 16 == 0 && Word.field d 20 7 == 0 && ringSizeCode d ≤ 8
  && (ringSizeCode d != 0 || (Word.field d 34 2 == 0 && ringRec d == 0 && ringBank d == 0 && ringOff d == 0))
  && ringOff d % 64 == 0
  && (ringStripe d == 1 || 256 * ringStripe d ≤ ringSlot d)
  && ringBank d + ringStripe d - 1 ≤ 15
  && ringOff d + ringCount d * ringSlot d / ringStripe d ≤ 65536
  && (ringSizeCode d == 0
      || (if bfmtScaled fmt then ringSlot d == tileBytes fmt && ringRec d + (ringCount d - 1) ≤ 127 else ringRec d == 0))

/-- Scratchpad address of byte `b` of slot `sl` (R148). -/
def ringByte (d : Word) (sl b : Nat) : Nat :=
  let st := ringStripe d
  (ringBank d + b / 256 % st) * 65536 + ringOff d + sl * (ringSlot d / st) + b / 256 / st * 256 + b % 256

/-- Ring of the core. -/
def Core.ring (k : Core) (q : Nat) : Ring := SMap.get k.rings Ring.reset q
def Core.setRing (k : Core) (q : Nat) (r : Ring) : Core := { k with rings := SMap.set k.rings q r }

/-- The suffix rings that have not been configured (R17). -/
def Core.badSuffix (k : Core) (h : Header) : Bool :=
  (h.aslot != 0 && !(k.ring h.aring.toNat).configured) || (h.bslot != 0 && !(k.ring h.bring.toNat).configured)

end Sys2Proof.Machine

namespace Sys2Proof

open Sys2Proof.Machine

/-- The arrive suffixes of a slot (R15). -/
def Header.arrives (h : Header) (sl : Slot) : List (BitVec 4) :=
  (if suffixSlot h.aslot == some sl then [h.aring] else []) ++ (if suffixSlot h.bslot == some sl then [h.bring] else [])

end Sys2Proof

namespace Sys2Proof.Machine

open Sys2Proof

end Sys2Proof.Machine
end

