-- ==== Sys2Proof/Machine/Spad.lean ====
section
/-! DEFINITION. The scratchpad, the scale store and the rings of a core: reads and writes of lines and records with their written, poison, tag and error state (R89, R135 to R137, R146, R349), and the giving and taking of tokens (R149 to R152). -/

namespace Sys2Proof.Machine

open Sys2Proof

/-! ### Lines -/

/-- What a reader of a line reports: POISON (detail 0), tag mismatch (1), UE (2) (R89, R135, R137, R329). -/
structure LineFlag where
  core : Nat
  line : Nat
  code : Nat
  detail : Nat
  deriving DecidableEq, Repr

/-- A line as read. -/
structure LineRead where
  bytes : List Byte
  flags : List LineFlag
  state : State
  deriving DecidableEq, Repr

/-! ### Check bits (R135) -/

/-- A stored bit flips: a sound one is wrong then, and a wrong one sound again. -/
def Ecc.flip (e : Ecc) (bit : Nat) : Ecc := { wrong := if e.wrong.contains bit then e.wrong.filter (· != bit) else bit :: e.wrong }

/-- Wrong bits of a 64-bit word. -/
def Ecc.count (e : Ecc) (w : Nat) : Nat := (e.wrong.filter fun b => b / 64 == w).length

/-- The words of a line, or of a record, with one wrong bit, which is corrected. -/
def Ecc.single (e : Ecc) : List Nat := (List.range 8).filter fun w => e.count w == 1

/-- The words with more wrong bits, which are uncorrectable. -/
def Ecc.multiple (e : Ecc) : List Nat := (List.range 8).filter fun w => 2 ≤ e.count w

/-- A write of `n` bytes from byte `off` renews the check bits of the words that it covers whole. -/
def Ecc.renew (e : Ecc) (off n : Nat) : Ecc := { wrong := e.wrong.filter fun b => b / 64 * 8 < off || off + n < b / 64 * 8 + 8 }

/-! ### Lines as stored -/

/-- A line; one not listed has the tag of the last scrub (R88, R89). -/
def Core.line (k : Core) (l : Nat) : LineMeta := SMap.get k.lines { LineMeta.reset with tag := k.lineTag } l
def Core.setLine (k : Core) (l : Nat) (m : LineMeta) : Core := { k with lines := SMap.set k.lines l m }

/-- VCTL fields (R348). -/
def vctlEn (w : Word) : Bool := w.getLsbD 63
def vctlOne (w : Word) : Bool := w.getLsbD 62
def vctlTgt (w : Word) : Nat := Word.field w 58 4
def vctlRate (w : Word) : Nat := Word.field w 52 6
def vctlArg (w : Word) : Nat := Word.field w 0 32

/-- Whether the core's event number `n` of target `t` is injected (R349, R391; log 65, DESIGN CHOICE). -/
def vctlHit (w : Word) (t n : Nat) : Bool :=
  vctlEn w && vctlTgt w == t
    && (if vctlOne w then n == vctlArg w else (rngPair (word n) 0 (word (vctlArg w))).1.toNat % 2 ^ vctlRate w == 0)

/-- Targets whose events are scratchpad line reads. -/
def vctlLineTgt (w : Word) : Bool := vctlEn w && (vctlTgt w == 0 || vctlTgt w == 1 || vctlTgt w == 3)

/-- The bits of a line that event `n` flips: bit RATE of the first word in one-shot mode, else the one that lo[18:8] chooses, taken modulo the line's 512 bits; for target 1 also the next bit of its word (R349, R391; log 65, DESIGN CHOICE). -/
def vctlBits (w : Word) (n : Nat) : List Nat :=
  let b := if vctlOne w then vctlRate w else Word.field (rngPair (word n) 0 (word (vctlArg w))).1 8 11 % 512
  if vctlTgt w == 1 then [b, b / 64 * 64 + (b + 1) % 64] else [b]

/-- The persistent stuck bit of target 5 on a byte delivered from the cells (R349). -/
def stuckBit (w : Word) (addr : Nat) (b : Byte) : Byte :=
  if vctlEn w && vctlTgt w == 5 && vctlArg w / 65536 % 16 == addr / 65536 && vctlArg w % 65536 == addr % 65536 then
    let bit := vctlArg w / 2 ^ 20 % 8
    let m : Byte := 1 <<< bit
    if vctlArg w / 2 ^ 23 % 2 == 1 then b ||| m else b &&& ~~~m
  else b

/-- The state of line `l` as event `n` of an injection leaves it: a tag that is no world's, or flipped bits (R349; log 65, DESIGN CHOICE). -/
def LineMeta.injected (m : LineMeta) (v : Word) (n : Nat) : LineMeta :=
  if vctlHit v 3 n then { m with tag := m.tag + 16 }
  else if vctlHit v 0 n || vctlHit v 1 n then { m with err := (vctlBits v n).foldl Ecc.flip m.err }
  else m

/-- Read line `l` of core `c` for an agent of a world, under the VCTL value `v` that holds for it; the scrubber's is 0, since its reads are not eligible. An uncorrectable error is logged with the code that it raises, `ue`: none for the scrubber (R345). Words with one wrong bit are corrected, written back and counted one by one; an uncorrectable word poisons the line; a line with another world's tag is delivered as poisoned zeros and keeps its tag; an unwritten line reads zero (R39, R89, R135 to R137, R349; log 19, DEDUCED; log 65, DESIGN CHOICE). -/
def State.readLineWith (ue : Nat) (s : State) (c world l : Nat) (v : Word) : LineRead :=
  let k := s.coreAt c
  let n := k.vctlEvent
  let hits : Bool := vctlLineTgt v && vctlHit v (vctlTgt v) n
  let m := if hits then (k.line l).injected v n else k.line l
  let inj (w : Nat) : Bool := hits && vctlTgt v != 3 && (vctlBits v n).any fun b => b / 64 == w
  let ev (cat code : Nat) (corr inj : Bool) : ErrEvent :=
    { cat := cat, code := code, world := m.tag % 16, corrected := corr, injected := inj, loc := locLine c (l * 64) }
  let bad := m.err.multiple
  let other : Bool := m.tag != world
  let m1 := { m with err := Ecc.sound, poison := m.poison || !bad.isEmpty, written := m.written || !bad.isEmpty }
  let k1 := { k with
    vctlEvent := if vctlLineTgt v then n + 1 else n
    spad := if !bad.isEmpty && !m.written then Memory.clear k.spad (l * 64) 64 else k.spad }
  let s1 := s.setCore c (if m1 = k.line l then k1 else k1.setLine l m1)
  let s2 := m.err.single.foldl (fun (s : State) w => s.errorEvent (ev 2 0xFF true (inj w))) s1
  let s3 := if bad.isEmpty then s2 else s2.errorEvent (ev 3 ue false (bad.any inj))
  let s4 := if other then s3.errorEvent (ev 3 cPoison false (hits && vctlTgt v == 3 || 16 ≤ m.tag)) else s3
  let bytes := if other || m1.poison || !m1.written then List.replicate 64 (0 : Byte)
    else (Memory.readN k.spad (l * 64) 64).zipIdx.map fun b => stuckBit v (l * 64 + b.2) b.1
  ⟨bytes,
   (if bad.isEmpty then [] else [⟨c, l, cUe, 2⟩])
     ++ (if other then [⟨c, l, cPoison, 1⟩] else if m.poison && m.written then [⟨c, l, cPoison, 0⟩] else []),
   s4⟩

/-- A read of a line whose uncorrectable errors are reported (R136, R345). -/
def State.readLine (s : State) (c world l : Nat) (v : Word) : LineRead := State.readLineWith cUe s c world l v

/-- Bytes, flags and state of a read of several lines. -/
structure SpadRead where
  bytes : List Byte
  flags : List LineFlag
  state : State
  deriving DecidableEq, Repr

/-- Read whole lines `l`, `l+1`, … in increasing address, under the VCTL value `v` that holds for the reader (R39, R349; log 19, DEDUCED). -/
def State.readLines (s : State) (c world : Nat) (v : Word) : Nat → Nat → SpadRead
  | _, 0 => ⟨[], [], s⟩
  | l, n + 1 =>
    let r := s.readLine c world l v
    let rest := r.state.readLines c world v (l + 1) n
    ⟨r.bytes ++ rest.bytes, r.flags ++ rest.flags, rest.state⟩

/-- Read `n` bytes from an address, under the VCTL value `v` (R39; log 74, DEDUCED). -/
def State.readSpad (s : State) (c world addr n : Nat) (v : Word) : SpadRead :=
  if n == 0 then ⟨[], [], s⟩
  else
    let first := addr / 64
    let last := (addr + n - 1) / 64
    let r := s.readLines c world v first (last + 1 - first)
    ⟨(r.bytes.drop (addr % 64)).take n, r.flags, r.state⟩

/-- Write part of one line: `off` and bytes inside the line (R89, R136, R137; log 75, DEDUCED). `poison` writes it as poisoned; only a write of all 64 bytes clears the poison bit or writes the tag. -/
def Core.writeLine (k : Core) (world l off : Nat) (bs : List Byte) (poison : Bool) : Core :=
  let m := k.line l
  let full := off == 0 && bs.length == 64
  let cells := Memory.writeN (if m.written then k.spad else Memory.clear k.spad (l * 64) 64) (l * 64 + off) bs
  { k with
    spad := cells
    lines := SMap.set k.lines l
      { tag := if full then world else m.tag
        poison := poison || (m.poison && !full)
        written := true
        err := if m.written then m.err.renew off bs.length else Ecc.sound } }

/-- Write bytes from an address, line by line; `poisoned` names the lines to write as poisoned. -/
def Core.writeSpadFrom (k : Core) (world : Nat) (poisoned : Nat → Bool) : Nat → Nat → List Byte → Core
  | 0, _, _ => k
  | fuel + 1, addr, bs =>
    match bs with
    | [] => k
    | _ :: _ =>
      let room := 64 - addr % 64
      let k1 := k.writeLine world (addr / 64) (addr % 64) (bs.take room) (poisoned (addr / 64))
      k1.writeSpadFrom world poisoned fuel (addr + room) (bs.drop room)

/-- Write bytes from an address as sound data (R136, R137). -/
def Core.writeSpad (k : Core) (world addr : Nat) (bs : List Byte) : Core :=
  k.writeSpadFrom world (fun _ => false) (bs.length / 64 + 2) addr bs

/-! ### Scale records -/

def Core.rec_ (k : Core) (i : Nat) : RecMeta := SMap.get k.recs RecMeta.reset i

/-- Record `i` (bank × 128 + record) as read: unwritten or poisoned records read zero (R136, R137). -/
def Core.readRec (k : Core) (i : Nat) : List Byte × Bool :=
  let m := k.rec_ i
  if !m.written then (List.replicate 32 0, false)
  else if m.poison then (List.replicate 32 0, true)
  else (Memory.readN k.scale (i * 32) 32, false)

/-- A tile-granular write of a whole record (R123, R137). -/
def Core.writeRec (k : Core) (i : Nat) (bs : List Byte) (poison : Bool) : Core :=
  { k with
    scale := Memory.writeN (Memory.clear k.scale (i * 32) 32) (i * 32) (bs.take 32)
    recs := SMap.set k.recs i { poison := poison, written := true, err := Ecc.sound } }

/-- One byte of a record write: bytes 0 to 16 and 18 only; the poison bit stays (R137, R146; log 75, DEDUCED). -/
def Core.recByte (k : Core) (a : Nat) (b : Byte) : Core :=
  let i := a / 32
  let m := k.rec_ i
  let cells := if m.written then k.scale else Memory.clear k.scale (i * 32) 32
  let keep := a % 32 ≤ 16 || a % 32 == 18
  { k with
    scale := if keep then Memory.write cells a b else cells
    recs := SMap.set k.recs i { m with written := true } }

/-- A record write of bytes from a scale-store address (R146). -/
def Core.recWrite (k : Core) : Nat → List Byte → Core
  | _, [] => k
  | a, b :: bs => (k.recByte a b).recWrite (a + 1) bs

/-- Bytes of the scale store from an address, and whether a poisoned record is covered (R137). -/
def Core.readScale (k : Core) (a n : Nat) : List Byte × Bool :=
  let first := a / 32
  let cnt := (a + n - 1) / 32 + 1 - first
  let rs := (List.range cnt).map fun i => k.readRec (first + i)
  (((rs.flatMap (·.1)).drop (a % 32)).take n, rs.any (·.2))

/-- The generation that a tile-granular write of a record counts on from (R123). -/
def Core.prevGen (k : Core) (i : Nat) : Nat :=
  if (k.rec_ i).written then (Memory.read k.scale (i * 32 + 17)).toNat else 0

/-! ### Accumulators -/

def Core.acc (k : Core) (t : Nat) : Acc := SMap.get k.accs Acc.reset t
def Core.setAcc (k : Core) (t : Nat) (a : Acc) : Core := { k with accs := SMap.set k.accs t a }
def Acc.get (a : Acc) (i j : Nat) : Word := SMap.get a.el 0 (32 * i + j)
def Acc.set (a : Acc) (i j : Nat) (v : Word) : Acc := { a with el := SMap.set a.el (32 * i + j) v }

/-- An accumulator is engaged by an operation issued and not retired (R237). -/
def Core.engaged (k : Core) (t : Nat) : Bool :=
  k.mq.any fun o => match o.instr with
    | .mma f | .mmas f | .mzero f | .mscl f | .macc f | .tquant f | .tcast f | .mchk f => f.acc.toNat == t
    | _ => false

/-! ### Rings (R149 to R152) -/

def Ring.size (r : Ring) : Nat := ringCount r.desc

/-- Release the completed slots at the front of the taken list: each becomes a token (R150). -/
def Ring.release (r : Ring) : Ring :=
  let done := r.taken.takeWhile (·.done)
  { r with taken := r.taken.drop done.length, tokens := r.tokens + done.length }

/-- Take `n` permits and tail slots; `done` for a plain arrival (R150). -/
def Ring.takeTail (r : Ring) (n : Nat) (done : Bool) : Ring :=
  { r with
    permits := r.permits - n
    tail := (r.tail + n) % r.size
    taken := r.taken ++ (List.range n).map fun i => ⟨(r.tail + i) % r.size, done⟩ }

/-- Place as many of `n` plain tokens as there are permits beyond those that sent atomics hold (R150, R151, R170). -/
def Ring.place (r : Ring) (held n : Nat) : Ring × Nat :=
  let m := Nat.min n (r.permits - held)
  ((r.takeTail m true).release, n - m)

/-- Give freed permits to the arrival queue, oldest entry first (R151); the entries whose tokens are all placed. -/
def Ring.drain (held : Nat) : List Arrival → Ring → Ring × List Arrival
  | [], r => ({ r with queue := [] }, [])
  | a :: rest, r =>
    let p := r.place held a.tokens
    if p.2 == 0 then
      let d := Ring.drain held rest p.1
      (d.1, a :: d.2)
    else ({ p.1 with queue := { a with tokens := p.2 } :: rest }, [])

/-- Consume `n` tokens at the head; `back` returns the permits at once (R152; log 15, DEDUCED). -/
def Ring.consume (r : Ring) (held n : Nat) (back : Bool) : Ring × List Arrival :=
  let r1 := { r with tokens := r.tokens - n, head := (r.head + n) % r.size }
  if back then Ring.drain held r1.queue { r1 with permits := r1.permits + n } else ({ r1 with lent := r1.lent + n }, [])

/-- Return a permit that a copy held (R152). -/
def Ring.giveBack (r : Ring) (held : Nat) : Ring × List Arrival :=
  Ring.drain held r.queue { r with lent := r.lent - 1, permits := r.permits + 1 }

/-- The producer of a taken slot has completed (R150). -/
def Ring.complete (r : Ring) (sl : Nat) : Ring :=
  let rec mark : List Taken → List Taken
    | [] => []
    | t :: ts => if t.slot == sl && !t.done then { t with done := true } :: ts else t :: mark ts
  ({ r with taken := mark r.taken }).release

/-- A plain arrival to be made: core, ring, tokens, arrivals that its syllable makes when all are placed, issuing strand. -/
structure Give where
  core : Nat
  q : Nat
  n : Nat
  arrive : List (BitVec 4)
  byCore : Nat
  byStrand : Nat
  deriving DecidableEq, Repr

def Arrival.gives (a : Arrival) : List Give := a.arrive.map fun q => ⟨a.core, q.toNat, 1, [], a.core, a.strand⟩
def Give.gives (g : Give) : List Give := g.arrive.map fun q => ⟨g.byCore, q.toNat, 1, [], g.byCore, g.byStrand⟩

/-- Ring reference for FADDR (R329): space 5 for an own ring, space 7 by rank for another core's. -/
def State.ringRef (s : State) (c q byCore : Nat) : Word :=
  if c == byCore then word (5 * 2 ^ 60 + q) else word (7 * 2 ^ 60 + (s.coreAt c).rank * 2 ^ 56 + q)

/-- Tokens and permits that sent atomics hold on a ring (R170). -/
def State.heldTokens (s : State) (c q : Nat) : Nat :=
  (s.cores.flatMap fun k => k.2.strands.flatMap fun p => p.2.reserves.filter fun r => r.core == c && r.q == q).foldl (fun n r => n + r.tokens) 0
def State.heldPermits (s : State) (c q : Nat) : Nat :=
  (s.cores.flatMap fun k => k.2.strands.flatMap fun p => p.2.reserves.filter fun r => r.core == c && r.q == q).foldl (fun n r => n + r.permits) 0

/-- Tokens and permits that a syllable may use. -/
def State.tokensOf (s : State) (c q : Nat) : Nat := ((s.coreAt c).ring q).tokens - s.heldTokens c q
def State.permitsOf (s : State) (c q : Nat) : Nat := ((s.coreAt c).ring q).permits - s.heldPermits c q

/-- Make plain arrivals in order, with those that follow from them (R16, R150, R151). -/
def State.giveAll : Nat → List Give → State → State
  | 0, _, s => s
  | _, [], s => s
  | fuel + 1, g :: rest, s =>
    let k := s.coreAt g.core
    let r := k.ring g.q
    if !r.configured then State.giveAll fuel rest (s.report g.byCore g.byStrand (imprecise cRing 0 (s.ringRef g.core g.q g.byCore)))
    else
      let p := r.place (s.heldPermits g.core g.q) g.n
      if p.2 == 0 then State.giveAll fuel (g.gives ++ rest) (s.setCore g.core (k.setRing g.q p.1))
      else if 8 ≤ r.queue.length then State.giveAll fuel rest (s.report g.byCore g.byStrand (imprecise cRing 0 (s.ringRef g.core g.q g.byCore)))
      else
        State.giveAll fuel rest
          (s.setCore g.core (k.setRing g.q { p.1 with queue := p.1.queue ++ [⟨p.2, g.arrive, g.byCore, g.byStrand⟩] }))

def giveFuel : Nat := 512

def State.give (s : State) (gs : List Give) : State := State.giveAll giveFuel gs s

/-- A retired syllable arrives on its rings (R15, R16). -/
def State.arriveOn (s : State) (c t : Nat) (rings : List (BitVec 4)) : State :=
  s.give (rings.map fun q => ⟨c, q.toNat, 1, [], c, t⟩)

def State.arriveOp (s : State) (i : OpInfo) : State := s.arriveOn i.core i.strand i.arrive

/-- A syllable without a register result has taken its effect at issue: it arrives on its rings (R16). -/
def State.retire (s : State) : Out State := (s.arriveOn s.cur.core s.cur.strand s.cur.arrive).ok

/-- Put a ring back after a consumption, with the arrivals it completed (R151). -/
def State.settleRing (s : State) (c q : Nat) (p : Ring × List Arrival) : State :=
  (s.modCore c fun k => k.setRing q p.1).give (p.2.flatMap Arrival.gives)

def State.consume (s : State) (c q n : Nat) (back : Bool) : State :=
  s.settleRing c q (((s.coreAt c).ring q).consume (s.heldPermits c q) n back)
def State.giveBack (s : State) (c q : Nat) : State := s.settleRing c q (((s.coreAt c).ring q).giveBack (s.heldPermits c q))
def State.completeSlot (s : State) (c q sl : Nat) : State := s.modCore c fun k => k.setRing q ((k.ring q).complete sl)

end Sys2Proof.Machine
end

