-- ==== Sys2Proof/Machine/Flags.lean ====
section
/-! DEFINITION. Masks and element results: the mask instructions' values (R177 to R179), conditions of vcmp and brcm (R194, R215), and the value of every element of a vector syllable (R206 to R232). -/

namespace Sys2Proof.Machine

open Sys2Proof

/-! ### Masks -/

/-- Population count. -/
def popCount (n : Nat) : Nat → Nat
  | 0 => 0
  | k + 1 => popCount n k + n / 2 ^ k % 2

/-- A mask half (R177). -/
def maskHalf (m : Mask) (hi : Bool) : Word := if hi then m.extractLsb' 64 64 else m.extractLsb' 0 64

/-- A mask with one half replaced (R177). -/
def setMaskHalf (m : Mask) (hi : Bool) (v : Word) : Mask := if hi then v ++ m.extractLsb' 0 64 else m.extractLsb' 64 64 ++ v

/-- The mask with bits `lo ≤ k < hi` set (R179). -/
def rangeMask (lo hi : Nat) : Mask := BitVec.ofNat 128 (2 ^ (Nat.max lo hi) - 2 ^ lo)

/-- mcomb's result: whether CM is written, and the mask (R178). -/
def mcombMask (fn : Nat) (em cm : Mask) : Bool × Mask :=
  match fn with
  | 0 => (false, em &&& cm)
  | 1 => (false, em &&& ~~~cm)
  | 2 => (false, em ||| cm)
  | 3 => (false, cm)
  | 4 => (true, ~~~cm)
  | 5 => (false, BitVec.allOnes 128)
  | 6 => (true, em)
  | _ => (true, cm &&& em)

/-- The condition of brcm over the elements of a type (R194). -/
def brcmHolds (cond : BitVec 2) (ty : VType) (em cm : Mask) : Bool :=
  let n := (em &&& cm).toNat % 2 ^ (1024 / ty.bits)
  match cond.toNat with
  | 0 => n != 0
  | 1 => n == 2 ^ (1024 / ty.bits) - 1
  | _ => n == 0

/-! ### Elements of a register type -/

/-- Element at bit position `pos` of `e` bits. -/
def bitsAt (v : VReg) (pos e : Nat) : Nat := v.toNat / 2 ^ pos % 2 ^ e

/-- Signed reading of an element. -/
def sInt (e c : Nat) : Int := codeInt e true c

end Sys2Proof.Machine

namespace Sys2Proof

open Sys2Proof.Machine

def VType.flt (t : VType) : FloatFmt :=
  match t with
  | .bf16 => fmtBf16
  | .f16 => fmtF16
  | .f64 => fmtF64
  | _ => fmtF32

/-- A floating-point operation on codes, rounded once under RNE (R210). -/
def VType.fp1 (t : VType) (f : FVal → FVal) (a : Nat) : Nat := t.flt.encode .rne false (f (t.flt.decode a))
def VType.fp2 (t : VType) (f : FVal → FVal → FVal) (a b : Nat) : Nat := t.flt.encode .rne false (f (t.flt.decode a) (t.flt.decode b))
def VType.fp3 (t : VType) (f : FVal → FVal → FVal → FVal) (a b c : Nat) : Nat :=
  t.flt.encode .rne false (f (t.flt.decode a) (t.flt.decode b) (t.flt.decode c))

/-- a + b (R211). -/
def VType.add (t : VType) (a b : Nat) : Nat := if t.isF then t.fp2 (FVal.add .rne) a b else (a + b) % 2 ^ t.bits
/-- Smaller: signed, or as fmin (R211). -/
def VType.minE (t : VType) (a b : Nat) : Nat := if t.isF then t.flt.min a b else if sInt t.bits b < sInt t.bits a then b else a
/-- Larger: signed, or as fmax (R211). -/
def VType.maxE (t : VType) (a b : Nat) : Nat := if t.isF then t.flt.max a b else if sInt t.bits a < sInt t.bits b then b else a
/-- a × b + c with signs (R211): `negP` negates the product, `negC` the addend. -/
def VType.fma (t : VType) (negP negC : Bool) (a b c : Nat) : Nat :=
  if t.isF then
    t.fp3 (fun x y z =>
      let p := FVal.mul x y
      FVal.add .rne (if negP then p.neg else p) (if negC then z.neg else z)) a b c
  else
    let p : Int := if negP then -(a * b : Int) else (a * b : Int)
    intCode t.bits (p + (if negC then -(c : Int) else (c : Int)))

end Sys2Proof

namespace Sys2Proof.Machine

open Sys2Proof

/-- The condition of vcmp (R215). -/
def vcmpHolds (t : VType) (cond a b : Nat) : Bool :=
  if t.isF then
    let x := t.flt.decode a
    let y := t.flt.decode b
    match cond with
    | 0 => FVal.eq x y
    | 1 => !FVal.eq x y
    | 2 => FVal.lt x y
    | 3 => FVal.le x y
    | 4 => FVal.lt y x
    | 5 => FVal.le y x
    | 10 => x.isNan || y.isNan
    | _ => !(x.isNan || y.isNan)
  else
    let x := sInt t.bits a
    let y := sInt t.bits b
    match cond with
    | 0 => a == b
    | 1 => a != b
    | 2 => decide (x < y)
    | 3 => decide (x ≤ y)
    | 4 => decide (y < x)
    | 5 => decide (y ≤ x)
    | 6 => decide (a < b)
    | 7 => decide (a ≤ b)
    | 8 => decide (b < a)
    | _ => decide (b ≤ a)

/-- Op of the scans and reductions (R221). -/
def scanOp (t : VType) (op a b : Nat) : Nat :=
  match op with
  | 0 => t.add a b
  | 1 => t.maxE a b
  | _ => t.minE a b

/-- Id(op) (R221). -/
def scanId (t : VType) (op : Nat) : Nat :=
  if t.isF then
    match op with
    | 0 => t.flt.sign.getD 0
    | 1 => t.flt.sign.getD 0 + t.flt.infCode.getD 0
    | _ => t.flt.infCode.getD 0
  else
    match op with
    | 0 => 0
    | 1 => 2 ^ (t.bits - 1)
    | _ => 2 ^ (t.bits - 1) - 1

/-- One conversion of vcvt (R217, R218). `rnd` holds the random element of SR. -/
def vcvtElem (f : VF) (a rnd : Nat) : Nat :=
  let uns := f.cvtMode == 3
  let m : RMode := match f.cvtMode with
    | 1 => .rtz
    | 2 => .sr (rnd % 65536)
    | _ => .rne
  (f.ty.elem (!uns)).encode m false ((f.srcTy.elem (!uns)).decode a)

/-! ### The flight of a vector syllable -/

end Sys2Proof.Machine

namespace Sys2Proof

open Sys2Proof.Machine

/-- The V fields of a flight's instruction. -/
def Instr.vf : Instr → Option VF
  | .vadd f | .vsub f | .vmul f | .vfma f | .vfms f | .vfnma f | .vdiv f | .vsqrt f | .vmin f | .vmax f | .vabs f | .vneg f
  | .vexp2 f | .vlog2 f | .vrcp f | .vrsqrt f | .vand f | .vor f | .vxor f | .vshl f | .vshr f | .vsra f | .vcmp f | .vsel f
  | .vcvt f | .vbcst f | .vmov f | .vslide f | .vperm f | .vscan f | .vred f | .vpopc f | .vdot4 f | .vclass f
  | .vadds f | .vmuls f | .vfmas f | .vmins f | .vmaxs f | .vminn f | .vmaxn f
  | .vld f | .vlds f | .vldx f | .vst f | .vsts f | .vstx f | .vacr f | .vacw f => some f
  | _ => none

/-- The fields of the null syllable, for flights that are none of V. -/
def VF.zero : VF := { width := .w1024, dup := false, vd := 0, va := 0, vb := 0, vc := 0, ty := .i8 }

end Sys2Proof

namespace Sys2Proof.Machine

open Sys2Proof

def Flight.vf (f : Flight) : VF := f.instr.vf.getD VF.zero

/-- Width of the elements that masks govern: the larger type of vcvt, 8 bits for pputv and cmpd (R175, R218). -/
def Flight.ebits (f : Flight) : Nat :=
  match f.instr with
  | .vcvt v => Nat.max v.ty.bits v.srcTy.bits
  | _ => f.vf.ty.bits

/-- Width of the destination elements. -/
def Flight.dbits (f : Flight) : Nat := f.vf.ty.bits

/-- Number of elements N (R206, R218). -/
def Flight.count (f : Flight) : Nat := 128 * f.cols / f.ebits

/-- Index of the first element, k0 (R206). -/
def Flight.k0 (f : Flight) : Nat := 128 * f.c0 / f.ebits

/-- Relative element `m` is active (R207, R218). -/
def Flight.active (f : Flight) (m : Nat) : Bool := f.em.getLsbD (f.k0 + m)
def Flight.cmBit (f : Flight) (m : Nat) : Bool := f.cm.getLsbD (f.k0 + m)

/-- Relative element `m` of a source at the element width. -/
def Flight.elem (f : Flight) (v : VReg) (m : Nat) : Nat := bitsAt v (128 * f.c0 + f.ebits * m) f.ebits

/-- The scan of R221 up to `n` elements: the destination element of each, and the accumulator. -/
def Flight.scan (f : Flight) (v : VF) : Nat → List (Option Nat) × Nat
  | 0 => ([], if v.vc.getLsbD 0 then f.sc.toNat % 2 ^ v.ty.bits else scanId v.ty (vcOp v))
  | n + 1 =>
    let p := f.scan v n
    let acc := if v.vc.getLsbD 1 && f.cmBit n then scanId v.ty (vcOp v) else p.2
    if f.active n then
      let acc' := scanOp v.ty (vcOp v) acc (f.elem f.a n)
      (p.1 ++ [some (if v.vc.getLsbD 2 then acc else acc')], acc')
    else (p.1 ++ [none], acc)

/-- The reduction of R223 over the first `n` elements. -/
def Flight.reduce (f : Flight) (v : VF) : Nat → Nat
  | 0 => scanId v.ty (vcOp v)
  | n + 1 => if f.active n then scanOp v.ty (vcOp v) (f.reduce v n) (f.elem f.a n) else f.reduce v n

/-- The scalar result of vred: I sign-extended, F zero-extended (R223). -/
def Flight.redValue (f : Flight) (v : VF) : Word :=
  let r := f.reduce v f.count
  if v.ty.isF then word r else BitVec.ofInt 64 (sInt v.ty.bits r)

/-- The count of vpopc (R223). -/
def Flight.popValue (f : Flight) : Word :=
  word (((List.range f.count).filter fun m => f.active m && f.cmBit m).length)

/-! ### Scratchpad elements of a vector access (R226 to R229) -/

/-- Element width of the bank side: the register's for a raw access (R228). -/
def rawAccess (fmt : Word) (t : VType) : Bool :=
  bfmtElem fmt == 0
  || (!bfmtScaled fmt
      && (match bfmtElem fmt, t with
          | 1, .i8 => true
          | 2, .i8 => true
          | 6, .bf16 => true
          | 7, .f16 => true
          | 8, .f32 => true
          | 9, .f64 => true
          | 10, .i32 => true
          | _, _ => false))

/-- E of R226 and R228. -/
def accessBits (fmt : Word) (t : VType) : Nat := if rawAccess fmt t then t.bits else (bankElem fmt).bits

/-- Byte address of an access inside its space. -/
def ptrOff (p : Word) : Nat := p.toNat % 2 ^ 20

/-- Index in its 256-byte block of the element that relative element `m` names (R226, R232). -/
def Flight.bankIndex (f : Flight) (m : Nat) : Nat :=
  let v := f.vf
  let E := accessBits f.fmt v.ty
  let i0 := f.s.toNat % 256 * 8 / E
  match f.instr with
  | .vlds _ | .vsts _ => (i0 + (m : Int) * f.u.toInt).toNat
  | .vldx _ | .vstx _ => (i0 + bitsAt f.c (128 * f.c0 + v.ty.bits * m) v.ty.bits) % (2048 / E)
  | .vacr _ | .vacw _ => Word.field f.s 5 5 + m
  | _ => i0 + m

/-- Row and column in its tile of the element that relative element `m` of a scaled access names (R229). -/
def Flight.tilePos (f : Flight) (m : Nat) : Nat × Nat :=
  let k := f.s.toNat % tileBytes f.fmt * 8 / (bankElem f.fmt).bits + m
  (k / 32 % 32, k % 32)

/-- The register element that a load gives (R228, R229); `vacr` always rounds (R232). -/
def Flight.loadElem (f : Flight) (m : Nat) : Nat :=
  let t := f.vf.ty
  let E := accessBits f.fmt t
  let code := getElem_ f.block E (f.bankIndex m)
  let rounds : Bool := match f.instr with
    | .vacr _ => true
    | _ => false
  if rawAccess f.fmt t && !rounds then code
  else
    let v :=
      if bfmtScaled f.fmt then
        if f.recBad then .nan
        else tileValue (bankElem f.fmt) f.record (tauVal f.u) code (f.tilePos m).1 (f.tilePos m).2
      else (bankElem f.fmt).decode code
    (t.elem true).encode .rne false v

/-- A σ or τ that lets no store through, and whether it raises SCALE (R229). -/
def Flight.storeBlocked (f : Flight) : Bool :=
  bfmtScaled f.fmt
    && (f.recBad || recSigma f.record == 0 || scaleBad (recSigma f.record) || !(tauVal f.u).isFin || (tauVal f.u).isZero)

/-- The bank code that a store writes (R228, R229). -/
def Flight.storeElem (f : Flight) (m : Nat) : Nat :=
  let t := f.vf.ty
  let x := f.elem f.a m
  if rawAccess f.fmt t then x
  else if f.storeBlocked then 0
  else
    let v := (t.elem true).decode x
    let w :=
      if bfmtScaled f.fmt then
        let p := f.tilePos m
        (FVal.div v (FVal.mul (scaleVal (recSigma f.record)) (tauVal f.u))).shift ((recRho f.record p.1 + recGamma f.record p.2 : Nat) : Int)
      else v
    (bankElem f.fmt).encode (bfmtRnd f.fmt) (bfmtSat f.fmt) w

/-! ### Destination elements -/

/-- Element results of the three-register arithmetic (R211, R213, R214, R224, R225). `a`, `b`, `c` are the elements, `s`, `u` the scalar sources. -/
def elemArith (i : Instr) (t : VType) (a b c s u : Nat) : Nat :=
  let e := t.bits
  let M := 2 ^ e
  match i with
  | .vadd _ => t.add a b
  | .vsub _ => if t.isF then t.fp2 (fun x y => FVal.add .rne x y.neg) a b else (a + M - b) % M
  | .vmul _ => if t.isF then t.fp2 FVal.mul a b else a * b % M
  | .vfma _ => t.fma false false a b c
  | .vfms _ => t.fma false true a b c
  | .vfnma _ => t.fma true false a b c
  | .vdiv _ => t.fp2 FVal.div a b
  | .vsqrt _ => t.fp1 FVal.sqrt a
  | .vmin _ => t.minE a b
  | .vmax _ => t.maxE a b
  | .vabs _ => if t.isF then a % 2 ^ (e - 1) else intCode e (sInt e a).natAbs
  | .vneg _ => if t.isF then (a + 2 ^ (e - 1)) % M else (M - a) % M
  | .vexp2 _ => t.fp1 FVal.exp2 a
  | .vlog2 _ => t.fp1 FVal.log2 a
  | .vrcp _ => t.fp1 (FVal.div FVal.one) a
  | .vrsqrt _ => t.fp1 FVal.rsqrt a
  | .vand _ => a &&& b
  | .vor _ => a ||| b
  | .vxor _ => a ^^^ b
  | .vshl _ => a * 2 ^ (b % e) % M
  | .vshr _ => a / 2 ^ (b % e)
  | .vsra _ => intCode e (sInt e a / 2 ^ (b % e))
  | .vadds _ => t.add c s
  | .vmuls _ => if t.isF then t.fp2 FVal.mul c s else c * s % M
  | .vfmas _ => t.fma false false c s u
  | .vmins _ => t.minE c s
  | .vmaxs _ => t.maxE c s
  | .vminn _ => Nat.min a b
  | .vmaxn _ => Nat.max a b
  | .vclass _ => t.flt.classBits a
  | .vdot4 _ =>
    intCode 32 (sInt 32 c + (sInt 8 (a % 256) * sInt 8 (b % 256) + sInt 8 (a / 256 % 256) * sInt 8 (b / 256 % 256)
      + sInt 8 (a / 65536 % 256) * sInt 8 (b / 65536 % 256) + sInt 8 (a / 16777216) * sInt 8 (b / 16777216)))
  | .vbcst _ => s
  | .vmov _ => a
  | _ => 0

/-- The result of relative element `m`: none where nothing is written (R206, R207). -/
def Flight.value (f : Flight) (m : Nat) : Option Nat :=
  if !f.active m then none
  else
    let v := f.vf
    let a := f.elem f.a m
    match f.instr with
    | .vsel _ => some (if f.cmBit m then a else f.elem f.b m)
    | .vcvt w =>
      some (vcvtElem w (bitsAt f.a (128 * f.c0 + w.srcTy.bits * m) w.srcTy.bits) (bitsAt f.b (128 * f.c0 + w.srcTy.bits * m) w.srcTy.bits))
    | .vslide w =>
      let j := (m : Int) + w.vc.toInt
      some (if (f.count : Int) ≤ j then f.elem f.b (j - f.count).toNat
            else if j < 0 then f.elem f.b (j + f.count).toNat
            else f.elem f.a j.toNat)
    | .vperm _ =>
      let i := f.elem f.b m
      some (if i < f.count then f.elem f.a i else 0)
    | .vscan w => ((f.scan w (m + 1)).1.getD m none)
    | .vld _ | .vlds _ | .vldx _ | .vacr _ => some (f.loadElem m)
    | i => some (elemArith i v.ty a (f.elem f.b m) (f.elem f.c m) (f.s.toNat % 2 ^ v.ty.bits) (f.u.toNat % 2 ^ v.ty.bits))

/-- Relative elements whose destination lies in column `j` (R31, R218). -/
def Flight.elemsIn (f : Flight) (j : Nat) : List Nat :=
  let per := 128 / f.dbits
  ((List.range per).map fun i => (j - f.c0) * per + i).filter (· < f.count)

/-- The register with column `j` of the result landed (R31, R207). -/
def Flight.landCol (f : Flight) (j : Nat) (old : BitVec 128) : BitVec 128 :=
  let d := f.dbits
  (f.elemsIn j).foldl (fun w m =>
    match f.value m with
    | none => w
    | some x =>
      let pos := (128 * f.c0 + d * m) % 128
      let ones := (BitVec.ofNat 128 (2 ^ d - 1)) <<< pos
      (w &&& ~~~ones) ||| (BitVec.ofNat 128 (x % 2 ^ d) <<< pos)) old

/-- CM with the bits of column `j` of a vcmp landed (R215). -/
def Flight.landCmp (f : Flight) (v : VF) (j : Nat) (old : Mask) : Mask :=
  (f.elemsIn j).foldl (fun w m =>
    let bit : Mask := 1 <<< (f.k0 + m)
    if f.active m && vcmpHolds v.ty v.vc.toNat (f.elem f.a m) (f.elem f.b m) then w ||| bit else w &&& ~~~bit) old

end Sys2Proof.Machine
end

