-- ==== Sys2Proof/Machine/Control.lean ====
section
/-! DEFINITION. Control instructions (R194 to R204), the translation of a strand's system-window addresses (R47, R195, R347), and `nop` (R11). -/

namespace Sys2Proof.Machine

open Sys2Proof

/-! ### Translation -/

/-- The page map in force for a core's workgroup (R325). -/
def State.viewOf (s : State) (c : Nat) : SMap Page :=
  match (s.coreAt c).wg.bind s.wgAt with
  | some w => w.view
  | none => []

/-- Why a system-window address does not translate, or its place in system memory (R47, R163, R195). -/
def xlate (pages : SMap Page) (va : Nat) : Except Nat Nat :=
  if va % 2 ^ 52 / 2 ^ 39 != 0 then .error cXlate
  else match SMap.find pages (pageOf va) with
    | none => .error cXlate
    | some p => if p.poisoned then .error cXpoison else .ok (p.frame * Config.pageBytes + va % Config.pageBytes)

/-- The entry of a page is poisoned, and no walk has found it yet. -/
def unfound (page : Nat) (m : SMap Page) : Bool := (SMap.find m page).any fun p => p.poisoned && !p.found

/-- A walk has found the poisoned entry of a page. -/
def markFound (page : Nat) (m : SMap Page) : SMap Page := m.map fun p => if p.1 == page && p.2.poisoned then (p.1, { p.2 with found := true }) else p

/-- The first walk that meets a poisoned entry records one error event; the entry is one, wherever it is in use (R347). -/
def State.walked (s : State) (world va : Nat) : State :=
  let page := pageOf va
  let w := s.worldAt world
  if unfound page w.pages || unfound page w.live || unfound page w.fabView || s.wgs.any (fun g => g.world == world && unfound page g.view) then
    let s1 := s.modWorld world fun w =>
      { w with pages := markFound page w.pages, live := markFound page w.live, fabView := markFound page w.fabView }
    State.errorEvent
      { s1 with wgs := s1.wgs.map fun (g : Workgroup) => if g.world == world then { g with view := markFound page g.view } else g }
      { cat := 6, code := cXpoison, world := world, corrected := false, injected := false, loc := word (4 * 2 ^ 60 + va % 2 ^ 56) }
  else s

/-- A precise fault of the whole bundle: SLOT 0 (R328). -/
def State.bundleFault (s : State) (code : Nat) : Out State :=
  .next (s.takePrecise { code := code, slot := 0, cls := 7, detail := 0, addr := s.cur.pc, imprecise := false, merged := false })

/-- A transfer's target failed its check: a precise fault of the whole bundle (R195, R328); XPOISON records the walk (R347). -/
def State.targetFails (s : State) (code : Nat) (va : Nat) : Out State :=
  if code == cXpoison then (s.walked s.strand.world va).bundleFault code else s.bundleFault code

/-- A translation failure of the syllable being issued: XPOISON records the walk (R347). -/
def State.xlateFault (s : State) (code : Nat) (va : Nat) : Out State :=
  if code == cXpoison then (s.walked s.strand.world va).fault code else s.fault code

/-! ### Transfers (R194 to R197) -/

/-- bundle PC + sext(offset) × 32 (R195). -/
def relTarget {n : Nat} (pc : Word) (off : BitVec n) : Word := pc + (off.signExtend 64) * 32

/-- The checks of a transfer's target, the first failure reported (R195). -/
def State.targetFault (s : State) (c : Nat) (target : Word) : Option Nat :=
  if Word.field target 56 8 != 0 then some cSpace
  else if Word.field target 52 4 == 0 then some cChown
  else if Word.field target 52 4 != 1 then some cXlate
  else if Word.field target 0 5 != 0 then some cAlign
  else match xlate (s.viewOf c) target.toNat with
    | .error e => some e
    | .ok _ => none

/-- Pop loop entries until the innermost body holds the target (R198). -/
def popLoops (target : Word) : List LoopEntry → List LoopEntry
  | [] => []
  | e :: es => if e.start.toNat ≤ target.toNat && target.toNat ≤ e.last.toNat then e :: es else popLoops target es

/-- A taken transfer: its target is checked, and with `pops` the loop entries it leaves are popped (R195, R198). -/
def State.transfer (s : State) (target : Word) (pops : Bool) : Out State :=
  match s.targetFault s.cur.core target with
  | some e => s.targetFails e target.toNat
  | none =>
    let st := s.strand
    let s1 := if pops then s.putStrand { st with lc := popLoops target st.lc } else s
    State.retire { s1 with cur := { s1.cur with taken := some target } }

/-- `nop` does nothing in its slot (R11). -/
def execNop (s : State) : Out State := s.ok

/-- br (R194, R195). -/
def execBr (off : BitVec 24) (s : State) : Out State := s.transfer (relTarget s.cur.pc off) true

/-- brz: taken when the source is zero (R194). -/
def execBrz (a : R5) (off : BitVec 19) (s : State) : Out State :=
  if s.src a == 0 then s.transfer (relTarget s.cur.pc off) true else s.retire

/-- brnz: taken when the source is not zero (R194). -/
def execBrnz (a : R5) (off : BitVec 19) (s : State) : Out State :=
  if s.src a == 0 then s.retire else s.transfer (relTarget s.cur.pc off) true

/-- brcm (R194). -/
def execBrcm (cond : BitVec 2) (ty : VType) (off : BitVec 19) (s : State) : Out State :=
  if brcmHolds cond ty s.strand.em s.strand.cm then s.transfer (relTarget s.cur.pc off) true else s.retire

/-- call: n15 and the belt receive the bundle PC + 32 one cycle later (R197). -/
def execCall (off : BitVec 24) (s : State) : Out State :=
  match s.targetFault s.cur.core (relTarget s.cur.pc off) with
  | some e => s.targetFails e (relTarget s.cur.pc off).toNat
  | none =>
    State.result { s with cur := { s.cur with taken := some (relTarget s.cur.pc off) } } 15 1 (s.cur.pc + 32)

/-- ret: to n15 (R195, R197). -/
def execRet (s : State) : Out State := s.transfer (s.src 31) false

/-- jmp: to the source (R195). -/
def execJmp (a : R5) (s : State) : Out State := s.transfer (s.src a) true

/-- loop (R198). LC is kept innermost first. Of a count of 0 the target is not checked at the loop's bundle, the rules of a taken transfer (R194, R195) not naming loop (log 99, DEDUCED). -/
def execLoop (a : R5) (off : BitVec 19) (s : State) : Out State :=
  let n := (s.src a).toNat
  let st := s.strand
  if 0xFFFFF < n || 3 ≤ st.lc.length then s.fault cSched
  else if n == 0 then
    State.retire { s with cur := { s.cur with taken := some (s.cur.pc + (word off.toNat + 1) * 32) } }
  else
    (s.putStrand { st with lc := { count := n, start := s.cur.pc + 32, last := s.cur.pc + word off.toNat * 32 } :: st.lc }).retire

/-- rep: the next bundle is repeated n times (R200 to R202). -/
def execRep (n : BitVec 6) (step : BitVec 18) (s : State) : Out State :=
  let st := s.strand
  if st.lc.any (fun e => e.last == s.cur.pc) then s.fault cIlleg
  else
    (s.putStrand { st with repActive := true, repCount := n.toNat, repIndex := 0, repStep := step, repAddr := some (s.cur.pc + 32) }).retire

/-- end: the strand issues nothing more; its regions close (R204). -/
def execEndStrand (s : State) : Out State :=
  (s.putStrand { s.strand with status := .ended, regions := [] }).retire

end Sys2Proof.Machine
end

