-- ==== Sys2Proof/Machine/ScalarMem.lean ====
section
/-! DEFINITION. The S slot's loads and stores (R190 to R193), with the L latches that vector accesses share (R140, R142, R230). -/

namespace Sys2Proof.Machine

open Sys2Proof

/-! ### L accesses -/

/-- Byte address in its space. -/
def Local.off : Local → Nat
  | .spad a => a
  | .scale b r y => scaleAddr b r y
  | .acc t o => t * 8192 + o

/-- The bank whose format and L position an access needs; none for space 3. -/
def Local.bank : Local → Option Nat
  | .spad a => some (bankOf a)
  | .scale b _ _ => some b
  | .acc _ _ => none

/-- The strand's last access of the bank lies less than four context cycles back (R142). -/
def State.lTooSoon (s : State) (bank : Nat) : Bool :=
  match SMap.get s.strand.lastL 0 bank with
  | 0 => false
  | n + 1 => s.strand.ctime < n + 4

/-- The access waits for its L position: a vector store does so from its last data column on (R142, R230). -/
def LAccess.waits (a : LAccess) : Bool :=
  match a.op with
  | .vstore none => false
  | _ => true

/-- The bank's L latch is occupied by an access of another strand (R142). -/
def State.lLatched (s : State) (bank : Nat) : Bool :=
  s.asks (s.core.lq.any fun a => a.bank == bank && a.waits && a.info.strand != s.cur.strand)

/-- Put an access into its bank's L latch: its spacing in context time starts (R142, R192). -/
def State.pendL (s : State) (bank cls : Nat) (op : LOp) (arrive : List (BitVec 4)) : State :=
  let k := s.core
  let st := s.strand
  let a : LAccess := { info := { s.newInfo cls 0 with arrive := arrive }, cls := cls, bank := bank, op := op }
  (s.putCore ({ k with lq := k.lq ++ [a] }.setStrand s.cur.strand { st with lastL := SMap.set st.lastL bank (st.ctime + 1) })).bumpId

/-- A fence holds back accesses of the class at selection (R306, R319). -/
def State.fenceHolds (s : State) (cls : Nat) : Bool := s.asks ((s.strand.fencedBy cls).any s.inFlight)

/-- The bundle is held at selection: by a fence, or by another strand's access in the latch (R142, R306). -/
def State.lHeld (s : State) (cls : Nat) (bank : Option Nat) : Bool :=
  s.fenceHolds cls || (match bank with
    | some b => s.lLatched b
    | none => false)

/-- `n` more results pass the limit of R33. -/
def State.fullBy (s : State) (n : Nat) : Bool := 64 < s.strand.heldCount + n

/-- Space-1 pointer to a line (R329). -/
def linePtr (l : Nat) : Word := word (2 ^ 60 + l * 64)

/-- The pointer by which a strand of core `c` names a line of core `src` (R329). -/
def State.linePtrFor (s : State) (c src l : Nat) : Word := if src == c then linePtr l else word (2 * 2 ^ 60 + (s.coreAt src).rank * 2 ^ 56 + l * 64)

/-- Report the poisoned, mismatched or uncorrectable lines that a strand has read (R89, R135, R137). -/
def State.reportFlags (s : State) (c t : Nat) (fs : List LineFlag) : State :=
  fs.foldl (fun s f => s.report c t (imprecise f.code f.detail (s.linePtrFor c f.core f.line))) s

/-- Report a poisoned scale record; the manual gives its FADDR no value (R137, R329; log 8, DESIGN CHOICE). -/
def State.reportRecord (s : State) (c t : Nat) : State :=
  let p := s.free
  p.2.report c t (imprecise cPoison 0 p.1)

/-- Sign- or zero-extension of `n` bytes (R191). -/
def extend (signed : Bool) (n v : Nat) : Word := if signed then BitVec.ofInt 64 (codeInt (8 * n) true v) else word v

/-- The checks of R190 after the space: the first failure. -/
def State.scalarCheck (s : State) (p : Word) (l : Local) (size : Nat) (store : Bool) : Option Nat :=
  let k := s.core
  if p.toNat % size != 0 then some cAlign
  else match l, l.bank with
    | .acc tile off, _ => if s.asks ((k.acc tile).w ≤ off / 256 || (store && k.engaged tile)) then some cSched else none
    | _, some b =>
      if !bfmtValid (k.fmt b) then some cBank
      else if s.lTooSoon b then some cSched
      else none
    | _, none => none

/-- The accumulator tile that a vector store or `vacw` writes (R227, R232, R237). -/
def Flight.tileWritten (f : Flight) : Option Nat :=
  match f.instr with
  | .vst _ | .vsts _ | .vstx _ => match localPtr f.s with
    | some (.acc tile _) => some tile
    | _ => none
  | .vacw v => some (v.vc.toNat % 8)
  | _ => none

/-- A column of a store is still to be read that would reach an accumulator tile (R237). -/
def Core.tileStored (k : Core) (tile : Nat) : Bool :=
  k.strands.any fun p => p.2.held.any fun h => match h.kind with
    | .vector f => f.tileWritten == some tile
    | _ => false

/-- One load (R190 to R193): it waits for its L position with its result held; space 3 is read at issue. -/
def scalarLoad (f : SI) (size : Nat) (signed : Bool) (s : State) : Out State :=
  let p := padd (s.src f.a) (f.imm.signExtend 64)
  match localPtr p with
  | none => if s.fenceHolds clsS then s.block else s.fault cSpace
  | some l =>
    if s.lHeld clsS l.bank then s.block
    else match s.scalarCheck p l size false with
      | some e => s.fault e
      | none =>
        if s.fullBy 1 then s.fault cSched
        else match l, l.bank with
          | .acc tile off, _ =>
            let el := (s.core.acc tile).get (off / 256) (off % 256 / 8)
            s.result f.d 8 (extend signed size (el.toNat / 2 ^ (8 * (off % 8)) % 2 ^ (8 * size)))
          | _, some b =>
            let s1 := s.pendL b clsS (.load p size signed) []
            (s1.putStrand (s1.strand.hold ⟨.load s.nextId (s.strand.ctime + 8) (dstReg f.d), true, s.cur.arrive⟩)).ok
          | _, none => s.ok

/-- One store: the data is read at issue and it waits for its L position; space 3 is written at issue (R190 to R193). -/
def scalarStore (f : SS) (size : Nat) (s : State) : Out State :=
  let p := padd (s.src f.base) (f.imm.signExtend 64)
  let data := leBytes size (s.src f.data).toNat
  match localPtr p with
  | none => if s.fenceHolds clsS then s.block else s.fault cSpace
  | some l =>
    if s.lHeld clsS l.bank then s.block
    else match s.scalarCheck p l size true with
      | some e => s.fault e
      | none =>
        match l, l.bank with
        | .acc tile off, _ =>
          let a := s.core.acc tile
          let old := leBytes 8 (a.get (off / 256) (off % 256 / 8)).toNat
          let new := old.take (off % 8) ++ data ++ old.drop (off % 8 + size)
          (s.putCore (s.core.setAcc tile (a.set (off / 256) (off % 256 / 8) (word (leNat new))))).retire
        | _, some b => (s.pendL b clsS (.store p data) s.cur.arrive).ok
        | _, none => s.ok

/-- ldB: 1 byte(s), sign-extended (R191). -/
def execLdB (f : SI) (s : State) : Out State := scalarLoad f 1 true s

/-- ldH: 2 byte(s), sign-extended (R191). -/
def execLdH (f : SI) (s : State) : Out State := scalarLoad f 2 true s

/-- ldW: 4 byte(s), sign-extended (R191). -/
def execLdW (f : SI) (s : State) : Out State := scalarLoad f 4 true s

/-- ldD: 8 byte(s), as read (R191). -/
def execLdD (f : SI) (s : State) : Out State := scalarLoad f 8 false s

/-- ldnB: 1 byte(s), zero-extended (R191). -/
def execLdnB (f : SI) (s : State) : Out State := scalarLoad f 1 false s

/-- ldnH: 2 byte(s), zero-extended (R191). -/
def execLdnH (f : SI) (s : State) : Out State := scalarLoad f 2 false s

/-- ldnW: 4 byte(s), zero-extended (R191). -/
def execLdnW (f : SI) (s : State) : Out State := scalarLoad f 4 false s

/-- stB: the low 1 byte(s) of data (R191). -/
def execStB (f : SS) (s : State) : Out State := scalarStore f 1 s

/-- stH: the low 2 byte(s) of data (R191). -/
def execStH (f : SS) (s : State) : Out State := scalarStore f 2 s

/-- stW: the low 4 byte(s) of data (R191). -/
def execStW (f : SS) (s : State) : Out State := scalarStore f 4 s

/-- stD: the low 8 byte(s) of data (R191). -/
def execStD (f : SS) (s : State) : Out State := scalarStore f 8 s

end Sys2Proof.Machine
end

