-- ==== Sys2Proof/Machine/Land.lean ====
section
/-! DEFINITION. Context time: reading source columns and landing results as CTIME reaches their cycles (R27, R30 to R34), performing accesses at their L positions (R142, R192, R230), and spending one cycle of a strand's time. -/

namespace Sys2Proof.Machine

open Sys2Proof

/-! ### Which registers a flight reads and writes -/

/-- Registers of operands a, b, c; a store reads its data as operand a (R13, R226). -/
def Flight.regs (f : Flight) : Option Nat × Option Nat × Option Nat :=
  match f.instr with
  | .cmpd r _ => (some r.toNat, some (r.toNat + 32), none)
  | .pputv p => (some p.y.toNat, none, none)
  | i =>
    let v := f.vf
    let r := i.vectorReads
    let ra := match i with
      | .vst _ | .vsts _ | .vstx _ | .vacw _ => v.vd.toNat
      | _ => v.va.toNat
    (if r.1 then some ra else none, if r.2.1 then some v.vb.toNat else none, if r.2.2 then some v.vc.toNat else none)

/-- The vector register that a flight's columns land in. -/
def Flight.destReg (f : Flight) : Option Nat :=
  match f.instr with
  | .vcmp _ | .vred _ | .vpopc _ | .vst _ | .vsts _ | .vstx _ | .vacw _ => none
  | i => i.vf.map fun v => v.vd.toNat

/-- The registers that a flight's columns land in: its own, and the shadow of a duplicated one (R208). -/
def Flight.dests (f : Flight) : List Nat :=
  match f.destReg with
  | none => []
  | some r => if (f.instr.vf.map (·.dup)).getD false then [r, r + 32] else [r]

/-- Result columns that depend on other source columns (R31). -/
def Flight.crossCol (f : Flight) : Bool :=
  match f.instr with
  | .vslide _ | .vperm _ | .vcvt _ => true
  | _ => false

/-- Mask bits of column `j` at element width `e` (R175). -/
def colMask (e j : Nat) : Mask := rangeMask (128 * j / e) (128 * (j + 1) / e)

/-- Take column `j` of a mask. -/
def takeCol (old new : Mask) (e j : Nat) : Mask := (old &&& ~~~(colMask e j)) ||| (new &&& colMask e j)

/-! ### Reading columns (R30) -/

/-- A `cmpd`, which takes no SC: its flight counts in that place the columns that differ (R340). -/
def Flight.isCmpd (f : Flight) : Bool :=
  match f.instr with
  | .cmpd _ _ => true
  | _ => false

/-- Column `j` of the sources and masks, with the vector columns given by `v`. -/
def Flight.withCol (f : Flight) (j : Nat) (v : Nat → BitVec 128) (em cm : Mask) (sc : Word) : Flight :=
  let put (r : Option Nat) (x : VReg) : VReg := match r with
    | some i => putCol x j (v i)
    | none => x
  { f with
    a := put f.regs.1 f.a
    b := put f.regs.2.1 f.b
    c := put f.regs.2.2 f.c
    em := if f.emFixed then f.em else takeCol f.em em f.ebits j
    cm := takeCol f.cm cm f.ebits j
    sc := if j == f.c0 && !f.isCmpd then sc else f.sc
    seen := j + 1 }

/-- The column that falls to be read at cycle `now`, if any. -/
def Flight.due (f : Flight) (now : Nat) : Option Nat :=
  if f.t + f.seen ≤ now && f.t + f.c0 ≤ now && now < f.t + f.c0 + f.cols then some (now - f.t) else none

/-! ### Columns not yet read (R31) -/

/-- Insert by landing cycle, after entries of the same cycle (R32). -/
def insertDue {α : Type} (x : Nat × α) : List (Nat × α) → List (Nat × α)
  | [] => [x]
  | y :: ys => if x.1 < y.1 then x :: y :: ys else y :: insertDue x ys

/-- Flights of a list with the entries before each. -/
def flightsOf : List Held → List Held → List (Flight × List Held)
  | _, [] => []
  | before, h :: hs =>
    match h.kind with
    | .vector f => (f, before) :: flightsOf (before ++ [h]) hs
    | _ => flightsOf (before ++ [h]) hs

/-- Landings into a register's column after `now` and by `time`, in landing order, each with the entries before it. -/
def pendingOn (reg col now time : Nat) (hs : List Held) : List (Nat × Flight × List Held) :=
  (flightsOf [] hs).foldr (fun p acc =>
    let τ := p.1.t + p.1.lat + col
    if p.1.dests.contains reg && p.1.c0 ≤ col && col < p.1.c0 + p.1.dcols && now < τ && τ ≤ time then insertDue (τ, p) acc else acc) []

/-- A write of CM that has not landed: all of it, or column `j` of a `vcmp`, whose flight stands behind the given entries. -/
inductive MaskWrite where
  | whole (v : Mask)
  | col (v : VF) (j : Nat) (f : Flight) (before : List Held)
  deriving DecidableEq, Repr

/-- Writes of EM that fall due from `lo` and by `time`, in the order in which they land (R32). -/
def pendingEms (lo time : Nat) (hs : List Held) : List (Nat × Mask) :=
  (hs.filterMap fun h => match h.kind with
    | .scalar due (.mask false v) => if lo ≤ due && due ≤ time then some (due, v) else none
    | _ => none).foldl (fun acc p => insertDue p acc) []

/-- Writes of CM by one held entry, behind the entries `before`, that fall due from `lo` and by `time`. -/
def Held.cmWrites (h : Held) (lo time : Nat) (before : List Held) : List (Nat × MaskWrite) :=
  match h.kind with
  | .scalar due (.mask true v) => if lo ≤ due && due ≤ time then [(due, .whole v)] else []
  | .vector f =>
    match f.instr with
    | .vcmp v =>
      ((List.range 8).filter fun j => f.c0 ≤ j && j < f.c0 + f.dcols && lo ≤ f.t + f.lat + j && f.t + f.lat + j ≤ time).map
        fun j => (f.t + f.lat + j, .col v j f before)
    | _ => []
  | _ => []

/-- Writes of CM that fall due from `lo` and by `time`, in the order in which they land (R32). -/
def pendingCms (lo time : Nat) (hs : List Held) : List (Nat × MaskWrite) :=
  (hs.zipIdx.flatMap fun h => h.1.cmWrites lo time (hs.take h.2)).foldl (fun acc p => insertDue p acc) []

/-- EM as the results held now will leave it by `time`: those that fall due from `lo` on, which is the present cycle while it still lands results (R30, R31; log 10, DEDUCED). -/
def predictEm (lo time : Nat) (em : Mask) (hs : List Held) : Mask := (pendingEms lo time hs).foldl (fun _ p => p.2) em

/-- The columns that a flight has still to read. -/
def Flight.unread (f : Flight) : List Nat := (List.range 8).filter fun j => f.seen ≤ j && f.c0 ≤ j && j < f.c0 + f.cols

mutual

/-- The contents that a register's column will have at `time`, by the landings of the entries `before`; the masks by those of `all` (R31; log 10, DEDUCED). -/
def predictCol : Nat → Strand → Nat → Nat → List Held → List Held → Nat → Nat → Nat → BitVec 128
  | 0, st, _, _, _, _, reg, col, _ => colOf (st.vreg reg) col
  | fuel + 1, st, now, lo, before, all, reg, col, time =>
    (pendingOn reg col now time before).foldl (fun w p =>
      let full := p.2.1.unread.foldl (fun g j =>
        g.withCol j (fun r => predictCol fuel st now lo p.2.2 all r j (p.2.1.t + j)) (predictEm lo (p.2.1.t + j) st.em all)
          (predictCm fuel st now lo all (p.2.1.t + j)) (if g.c0 == 0 then g.sc else st.sc)) p.2.1
      full.landCol col w) (colOf (st.vreg reg) col)

/-- CM as it will be at `time`: whole writes, and columns of `vcmp` (R30, R31, R215; log 10, DEDUCED). -/
def predictCm : Nat → Strand → Nat → Nat → List Held → Nat → Mask
  | 0, st, _, _, _, _ => st.cm
  | fuel + 1, st, now, lo, all, time =>
    (pendingCms lo time all).foldl (fun m e =>
      match e.2 with
      | .whole v => v
      | .col v col f before =>
        let full := f.unread.foldl (fun g j =>
          g.withCol j (fun r => predictCol fuel st now lo before all r j (f.t + j)) (predictEm lo (f.t + j) st.em all) st.cm g.sc) f
        full.landCmp v col m) st.cm

end

/-- Column `j` of a flight, as the entries `before` it and for the masks all of the strand will leave its sources at t + j (R31; log 10, DEDUCED). -/
def Flight.colAhead (f : Flight) (st : Strand) (lo : Nat) (before : List Held) (j : Nat) : Flight :=
  let fuel := st.held.length + 1
  f.withCol j (fun r => predictCol fuel st st.ctime lo before st.held r j (f.t + j)) (predictEm lo (f.t + j) st.em st.held)
    (predictCm fuel st st.ctime lo st.held (f.t + j)) st.sc

/-- The flight with every column read, where its landing columns depend on columns still to come; other results of the present cycle may still land (R30, R31). -/
def Flight.full (f : Flight) (st : Strand) (before : List Held) : Flight :=
  if f.crossCol then f.unread.foldl (fun g j => g.colAhead st st.ctime before j) f else f

/-! ### Columns landed ahead of their sources (R30, R31; log 10, DEDUCED) -/

/-- A result column has landed by `now` that may depend on a column still to be read. -/
def Flight.ahead (f : Flight) (now : Nat) : Bool := f.crossCol && f.t + f.lat + f.c0 ≤ now && now + 1 < f.t + f.c0 + f.cols

def Held.ahead (h : Held) (now : Nat) : Bool :=
  match h.kind with
  | .vector f => f.ahead now
  | _ => false

/-- The strand keeps a past, or has to from its present cycle on. -/
def Strand.looksAhead (st : Strand) : Bool := st.past.isSome || st.held.any (·.ahead st.ctime)

/-- A write of EM or CM that lands by `now`. -/
def Held.maskBy (h : Held) (now : Nat) : Bool :=
  match h.kind with
  | .scalar due (.mask _ _) => due ≤ now
  | _ => false

/-- A flight that the bundle of the cycle before `now` issued, with nothing read. -/
def Held.issuedBefore (h : Held) (now : Nat) : Option Held :=
  match h.kind with
  | .vector f => if f.t + 1 == now then some { h with kind := .vector { f with seen := 0 } } else none
  | _ => none

def Held.isFlight (h : Held) : Bool :=
  match h.kind with
  | .vector _ => true
  | _ => false

/-- The past of the present cycle, before its landings. -/
def Strand.pastNow (st : Strand) : Past :=
  let masks := st.held.filter (·.maskBy st.ctime)
  match st.past with
  | none => { since := st.ctime, v := st.v, em := st.em, cm := st.cm, held := st.held.filter Held.isFlight ++ masks }
  | some p => { p with held := p.held ++ st.held.filterMap (·.issuedBefore st.ctime) ++ masks }

/-- A flight whose columns read since `since` are read again, as `col`, `em` and `cm` give them for a cycle. -/
def Flight.readAgain (f : Flight) (since : Nat) (col : Nat → Nat → Nat → BitVec 128) (em cm : Nat → Mask) : Flight :=
  let js := (List.range 8).filter fun j => f.c0 ≤ j && j < f.seen && j < f.c0 + f.cols && since ≤ f.t + j
  { js.foldl (fun (g : Flight) j => g.withCol j (fun r => col r j (f.t + j)) (em (f.t + j)) (cm (f.t + j)) f.sc) f with seen := f.seen }

/-- What has landed and been read since the past began, computed again with the masks that are known now. -/
def Strand.replay (st : Strand) (p : Past) : Strand :=
  let base := { st with v := p.v, em := p.em, cm := p.cm }
  let all := p.held ++ st.held.filter fun h => h.maskBy (st.ctime + 8)
  let fuel := all.length + 1
  let col (r j time : Nat) : BitVec 128 := predictCol fuel base (p.since - 1) p.since all all r j time
  let cm (time : Nat) : Mask := predictCm fuel base (p.since - 1) p.since all time
  let regs := (p.held.flatMap fun h => match h.kind with
    | .vector f => f.dests
    | _ => []).eraseDups
  { regs.foldl (fun (x : Strand) r => x.setV r ((List.range 8).foldl (fun w j => putCol w j (col r j st.ctime)) (st.vreg r))) st with
    cm := cm st.ctime
    held := st.held.map fun h => match h.kind with
      | .vector f => { h with kind := .vector (f.readAgain p.since col (fun time => predictEm p.since time p.em all) cm) }
      | _ => h }

/-- The cycle's landings are over: where masks landed in it, what landed ahead of them is set right, and the past is kept as long as a column is ahead. -/
def Strand.settlePast (st : Strand) (p : Past) (masks : Bool) : Strand :=
  let x := if masks then st.replay p else st
  { x with past := if x.held.any (·.ahead x.ctime) then some p else none }

/-! ### Stores -/

/-- Set one element's bits in a block, with the marks of the nibbles written (R231). -/
def putBlock (blk : List Byte × List Bool) (E i code : Nat) : List Byte × List Bool :=
  if E == 4 then
    let old := (blk.1.getD (i / 2) 0).toNat
    let b := if i % 2 == 0 then old / 16 * 16 + code % 16 else old % 16 + 16 * (code % 16)
    (blk.1.set (i / 2) (BitVec.ofNat 8 b), blk.2.set i true)
  else
    (leBytes (E / 8) code).zipIdx.foldl (fun q p =>
      let a := i * (E / 8) + p.2
      (q.1.set a p.1, (q.2.set (2 * a) true).set (2 * a + 1) true)) blk

/-- The 256-byte block after the active elements are written, and which of its nibbles were (R231). -/
def Flight.storeBlock (f : Flight) (old : List Byte) : List Byte × List Bool :=
  (List.range f.count).foldl (fun q m =>
    if f.active m then putBlock q (accessBits f.fmt f.vf.ty) (f.bankIndex m) (f.storeElem m) else q)
    (old, List.replicate 512 false)

/-- Write the marked bytes of one line: the whole line at once where every nibble is marked, else by 64-bit words and bytes (R135, R137, R231). -/
def Core.putLine (k : Core) (world l : Nat) (bs : List Byte) (marks : List Bool) : Core :=
  if marks.all (· == true) then k.writeLine world l 0 bs false
  else (List.range 8).foldl (fun (k : Core) w =>
    let ms := (marks.drop (16 * w)).take 16
    if ms.all (· == true) then k.writeLine world l (8 * w) ((bs.drop (8 * w)).take 8) false
    else (List.range 8).foldl (fun (k : Core) i =>
      if ms.getD (2 * i) false || ms.getD (2 * i + 1) false then k.writeLine world l (8 * w + i) [bs.getD (8 * w + i) 0] false else k) k) k

/-- Perform a vector store into the scratchpad, the scale store or an accumulator (R146, R227, R230, R231). -/
def Core.performStore (k : Core) (world : Nat) (f : Flight) : Core :=
  match localPtr f.s with
  | some (.spad addr) =>
    let base := addr / 256 * 256
    let old := (List.range 4).flatMap fun i =>
      if (k.line (base / 64 + i)).written then Memory.readN k.spad (base + 64 * i) 64 else List.replicate 64 0
    let w := f.storeBlock old
    (List.range 4).foldl (fun k i =>
      let ms := (w.2.drop (128 * i)).take 128
      if ms.any (· == true) then k.putLine world (base / 64 + i) ((w.1.drop (64 * i)).take 64) ms else k) k
  | some (.scale bank r b) =>
    let base := scaleAddr bank r b / 256 * 256
    let w := f.storeBlock (List.replicate 256 0)
    (w.1.zipIdx).foldl (fun k p => if w.2.getD (2 * p.2) false then k.recByte (base + p.2) p.1 else k) k
  | some (.acc tile off) =>
    let i := off / 256
    let w := f.storeBlock ((List.range 32).flatMap fun j => leBytes 8 ((k.acc tile).get i j).toNat)
    k.setAcc tile ((List.range 32).foldl (fun a j =>
      if w.2.getD (16 * j) false then a.set i j (word (leNat ((w.1.drop (8 * j)).take 8))) else a) (k.acc tile))
  | none => k

/-- Write column `j` of a vacw (R232). -/
def Core.performVacw (k : Core) (f : Flight) (j : Nat) : Core :=
  let tile := f.vf.vc.toNat % 8
  let i := Word.field f.s 0 5
  k.setAcc tile ((f.elemsIn j).foldl (fun a m =>
    if f.active m then a.set i (f.bankIndex m) (word (fmtF64.encode .rne false ((f.vf.ty.elem true).decode (f.elem f.a m)))) else a) (k.acc tile))

/-! ### Vector accesses of the scratchpad, as performed (R137, R227, R229) -/

/-- Lines of the 256-byte access that a load reads: all four for an indexed form. -/
def linesRead (f : Flight) (kind off : Nat) : Nat × Nat :=
  let E := accessBits f.fmt f.vf.ty
  let base := off / 256 * 4
  match kind with
  | 0 => (off / 64, (off + f.count * E / 8 - 1) / 64)
  | 1 =>
    let i0 : Int := ((off % 256 * 8 / E : Nat) : Int)
    let e1 := i0 + ((f.count - 1 : Nat) : Int) * f.u.toInt
    (base + (min i0 e1).toNat * E / 8 / 64, base + ((max i0 e1).toNat * E / 8) / 64)
  | _ => (base, base + 3)

/-- The scale record of a scaled access: bytes and poison (R229). -/
def Core.recordFor (k : Core) (f : Flight) : List Byte × Bool :=
  match localPtr f.s with
  | some (.spad a) => if bfmtScaled f.fmt then k.readRec (bankOf a * 128 + a % 65536 / tileBytes f.fmt) else ([], false)
  | _ => ([], false)

/-- The report that a scaled access's record or factor raises for an active element (R229). -/
def State.scaleReport (s : State) (f : Flight) (store : Bool) : State × List (Nat × Nat × FaultRec) :=
  if !bfmtScaled f.fmt then (s, [])
  else if f.recBad then
    let p := s.free
    (p.2, [(0, 256, imprecise cPoison 0 p.1)])
  else if scaleBad (recSigma f.record) || (store && (!(tauVal f.u).isFin || (tauVal f.u).isZero)) then
    (s, [(0, 256, imprecise cScale 0 0)])
  else (s, [])

/-- What a load finds in its 256-byte access, under the VCTL of its issue: bytes, reports by byte range, state (R39, R137, R227). -/
def State.loadBlock (s : State) (c world : Nat) (v : Word) (f : Flight) (kind : Nat) (l : Local) : List Byte × List (Nat × Nat × FaultRec) × State :=
  match l with
  | .spad a =>
    let lr := linesRead f kind a
    let r := s.readLines c world v lr.1 (lr.2 + 1 - lr.1)
    let before := (lr.1 - a / 256 * 4) * 64
    (List.replicate before 0 ++ r.bytes ++ List.replicate (256 - before - r.bytes.length) 0,
     r.flags.map (fun g => ((g.line - a / 256 * 4) * 64, (g.line - a / 256 * 4) * 64 + 64, imprecise g.code g.detail (linePtr g.line))),
     r.state)
  | .scale b rc y =>
    let base := scaleAddr b rc y / 256 * 8
    let rs := (List.range 8).map fun i => (s.coreAt c).readRec (base + i)
    let p := s.free
    (rs.flatMap (·.1),
     (rs.zipIdx.filter fun x => x.1.2).map (fun x => (32 * x.2, 32 * x.2 + 32, imprecise cPoison 0 p.1)),
     p.2)
  | .acc t o =>
    ((List.range 32).flatMap fun j => leBytes 8 (((s.coreAt c).acc t).get (o / 256) j).toNat, [], s)

/-- Raise the reports whose bytes an active element of column `j` touches (R137, R229, R231). -/
def Flight.raise (f : Flight) (j : Nat) (s : State) (c t : Nat) : State × Flight :=
  let E := accessBits f.fmt f.vf.ty
  let touched := (f.elemsIn j).filter f.active
  let hit (p : Nat × Nat × FaultRec) : Bool := touched.any fun m => p.1 ≤ f.bankIndex m * E / 8 && f.bankIndex m * E / 8 < p.2.1
  ((f.flags.filter hit).foldl (fun s p => s.report c t p.2.2) s, { f with flags := f.flags.filter fun p => !hit p })

/-- Raise what the given columns touch. -/
def Flight.raiseAll (f : Flight) (js : List Nat) (s : State) (c t : Nat) : State × Flight :=
  js.foldl (fun (p : State × Flight) j => p.2.raise j p.1 c t) (s, f)

/-- A vector load is performed: the block and record that it finds, and the reports of the columns already read (R229, R230). -/
def State.performVload (s : State) (c t world : Nat) (v : Word) (kind : Nat) (f : Flight) : State × Flight :=
  match localPtr f.s with
  | none => (s, f)
  | some l =>
    let b := s.loadBlock c world v f kind l
    let rec_ := (s.coreAt c).recordFor f
    let f1 := { f with block := b.1, record := rec_.1, recBad := rec_.2 }
    let sc := b.2.2.scaleReport f1 false
    { f1 with flags := b.2.1 ++ sc.2 }.raiseAll ((List.range 8).filter fun j => f.c0 ≤ j && j < f.seen) sc.1 c t

/-- A vector store is performed: its record is read in the same access, and its bytes are written (R229, R230). -/
def State.performVstore (s : State) (c t world : Nat) (f : Flight) : State :=
  let rec_ := (s.coreAt c).recordFor f
  let f1 := { f with record := rec_.1, recBad := rec_.2 }
  let sc := s.scaleReport f1 true
  ({ f1 with flags := sc.2 }.raiseAll ((List.range 8).filter fun j => f.c0 ≤ j && j < f.c0 + f.cols) sc.1 c t).1.modCore c
    fun k => k.performStore world f1

/-! ### Performing at an L position (R142, R192, R230) -/

/-- The result of a scalar load has come. -/
def Strand.fillLoad (st : Strand) (id : Nat) (v : Word) : Strand :=
  { st with held := st.held.map fun h => match h.kind with
      | .load i due dst => if i == id then { h with kind := .scalar due (.push v dst) } else h
      | _ => h }

/-- The flight of the vector load whose access has the number. -/
def Flight.isLoad (f : Flight) (id : Nat) : Bool :=
  match f.instr with
  | .vld _ | .vlds _ | .vldx _ => f.opId == id
  | _ => false

/-- Perform the vector load numbered `id` among the held entries. -/
def State.fillFlight (s : State) (c t world : Nat) (v : Word) (kind id : Nat) : State :=
  match ((s.strandAt c t).held.filterMap fun h => match h.kind with
      | .vector f => if f.isLoad id then some f else none
      | _ => none).head? with
  | none => s
  | some f =>
    let r := s.performVload c t world v kind f
    r.1.modStrandAt c t fun st =>
      { st with
        held := st.held.map fun h => match h.kind with
          | .vector g => if g.isLoad id then { h with kind := .vector r.2 } else h
          | _ => h
        past := st.past.map fun p => { p with held := p.held.map fun h => match h.kind with
          | .vector g => if g.isLoad id then { h with kind := .vector { g with block := r.2.block, record := r.2.record, recBad := r.2.recBad } } else h
          | _ => h } }

/-- Perform an L access of a core (R137, R146, R191 to R193, R230). -/
def State.performL (s : State) (c : Nat) (a : LAccess) : State :=
  let t := a.info.strand
  let w := a.info.world
  let s1 := s.modCore c fun k => { k with lq := k.lq.filter fun b => b.info.id != a.info.id }
  match a.op with
  | .load p size signed =>
    match localPtr p with
    | some (.spad addr) =>
      let r := s1.readSpad c w addr size a.info.vctl
      (r.state.reportFlags c t r.flags).modStrandAt c t fun st => st.fillLoad a.info.id (extend signed size (leNat r.bytes))
    | some (.scale bank rc b) =>
      let r := (s1.coreAt c).readScale (scaleAddr bank rc b) size
      (if r.2 then s1.reportRecord c t else s1).modStrandAt c t fun st => st.fillLoad a.info.id (extend signed size (leNat r.1))
    | _ => s1
  | .store p data =>
    match localPtr p with
    | some (.spad addr) => (s1.modCore c fun k => k.writeSpad w addr data).arriveOp a.info
    | some (.scale bank rc b) => (s1.modCore c fun k => k.recWrite (scaleAddr bank rc b) data).arriveOp a.info
    | _ => s1
  | .vload kind => s1.fillFlight c t w a.info.vctl kind a.info.id
  | .vstore (some f) => (s1.performVstore c t w f).arriveOp a.info
  | .vstore none => s1

/-- The accesses of a strand to a bank up to the one numbered `id`, in issue order. -/
def Core.upTo (k : Core) (t bank id : Nat) : List LAccess := k.lq.filter fun a => a.info.strand == t && a.bank == bank && a.info.id ≤ id

/-- The access of a bank that its L position performs: the first that waits with no earlier access of its strand before it (R142, R192, R230). -/
def Core.nextLAccess (k : Core) (bank : Nat) : Option LAccess :=
  k.lq.find? fun a => a.bank == bank && a.waits && (k.upTo a.info.strand bank a.info.id).head?.map (·.info.id) == some a.info.id

/-- The L positions of a core's present cycle, bank by bank (R139, R142, R343, R349). -/
def State.lPositions (s : State) (c : Nat) : State :=
  (List.range 16).foldl (fun (s : State) b =>
    if wheelPos ((s.coreAt c).wheel b) (s.coreAt c).cycle != 1 then s
    else match (s.coreAt c).nextLAccess b with
      | some a => s.performL c a
      | none => s) s

/-- Accesses whose result is due now, where an earlier store of the strand has held them back, are performed in issue order first (R192, R230; log 5, DEDUCED). -/
def State.forceL (s : State) (c t : Nat) : State :=
  let st := s.strandAt c t
  let due := st.held.filterMap fun h => match h.kind with
    | .load id d _ => if d ≤ st.ctime then some id else none
    | .vector f => if f.isLoad f.opId && f.t + f.lat + f.c0 ≤ st.ctime then some f.opId else none
    | _ => none
  (s.coreAt c).lq.foldl (fun (s : State) a =>
    if a.info.strand == t && due.any (fun id => a.info.id ≤ id && (s.coreAt c).lq.any fun b => b.info.id == id && b.bank == a.bank)
    then s.performL c a else s) s

/-! ### One cycle's reads -/

/-- Columns in which two registers differ, as bits of a word (R340). -/
def cmpdBits (mask : BitVec 8) (a b : VReg) (j : Nat) : Nat :=
  if mask.getLsbD j && colOf a j != colOf b j then 2 ^ j else 0

/-- The last data column of a vector store has been read: the access waits in its latch (R230); a store to an accumulator is written and retires (R227, R230; log 110, DESIGN CHOICE). -/
def State.storeReady (s : State) (c t : Nat) (h : Held) (g : Flight) : State :=
  match localPtr g.s with
  | some (.acc _ _) => (s.modCore c fun k => k.performStore (s.strandAt c t).world g).arriveOn c t h.arrive
  | _ => s.modCore c fun k => { k with lq := k.lq.map fun a => if a.info.id == g.opId then { a with op := .vstore (some g) } else a }

/-- The data of a `pputv` is complete. -/
def State.pputvData (s : State) (g : Flight) : State :=
  { s with fab := s.fab.map fun o =>
      if o.info.id == g.opId then { o with data := leBytes (16 * g.cols) (g.a.toNat % 2 ^ (128 * g.cols)) } else o }

/-- What follows when a flight `g` has just read its column `j`. A store to an accumulator and a vacw are performed, and retire, with their last column (R230; log 110, DESIGN CHOICE). Answers the entry that stays. -/
def State.columnRead (s : State) (c t : Nat) (h : Held) (g : Flight) (j : Nat) : State × Option Held :=
  let last := j + 1 == g.c0 + g.cols
  match g.instr with
  | .vst _ | .vsts _ | .vstx _ =>
    if last then (s.storeReady c t h g, none) else (s, some { h with kind := .vector g })
  | .vacw _ =>
    let s1 := s.modCore c fun k => k.performVacw g j
    if last then (s1.arriveOn c t h.arrive, none) else (s1, some { h with kind := .vector g })
  | .pputv _ => if last then (s.pputvData g, none) else (s, some { h with kind := .vector g })
  | .cmpd _ mask =>
    let kind := HeldKind.vector { g with sc := g.sc + word (cmpdBits mask g.a g.b j) }
    if last then (s.arriveOn c t h.arrive, some { h with kind := kind, arrive := [] }) else (s, some { h with kind := kind })
  | .vld _ | .vlds _ | .vldx _ =>
    let p := g.raise j s c t
    (p.1, some { h with kind := .vector p.2 })
  | _ => (s, some { h with kind := .vector g })

/-- Read the column of a flight that is due (R30). Answers the entry that stays. -/
def State.readOne (s : State) (c t : Nat) (h : Held) : State × Option Held :=
  match h.kind with
  | .scalar _ _ | .load _ _ _ => (s, some h)
  | .vector f =>
    let st := s.strandAt c t
    match f.due st.ctime with
    | none => (s, some h)
    | some j => s.columnRead c t h (f.withCol j (fun r => colOf (st.vreg r) j) st.em st.cm st.sc) j

/-- Go through the held entries in order, keeping those that stay. -/
def State.readAll (c t : Nat) : List Held → List Held → State → State
  | kept, [], s => s.modStrandAt c t fun st => { st with held := kept }
  | kept, h :: hs, s =>
    let p := s.readOne c t h
    State.readAll c t (kept ++ p.2.toList) hs p.1

/-- Read every column due in the strand's current cycle (R30). -/
def State.readColumns (s : State) (c t : Nat) : State := State.readAll c t [] (s.strandAt c t).held s

/-! ### One cycle's landings -/

/-- Land a scalar result (R19, R31, R176, R332). -/
def Strand.land (st : Strand) (l : Landing) : Strand :=
  match l with
  | .push v dst =>
    let st1 := st.pushBelt v
    match dst with
    | some r => st1.setN r v
    | none => st1
  | .named r v => st.setN r v
  | .mask false v => { st with em := v }
  | .mask true v => { st with cm := v }

/-- Land column `j` of a flight (R31, R207, R208, R215, R221). -/
def Strand.landColumn (st : Strand) (f : Flight) (j : Nat) : Strand :=
  match f.instr with
  | .vcmp v => { st with cm := f.landCmp v j st.cm }
  | .vscan v =>
    let st1 := st.setV v.vd.toNat (putCol (st.vreg v.vd.toNat) j (f.landCol j (colOf (st.vreg v.vd.toNat) j)))
    let st2 := if v.dup then st1.setV (v.vd.toNat + 32) (putCol (st.vreg (v.vd.toNat + 32)) j (f.landCol j (colOf (st.vreg (v.vd.toNat + 32)) j))) else st1
    if j + 1 == f.c0 + f.cols then { st2 with sc := word (f.scan v f.count).2 } else st2
  | i =>
    match f.destReg with
    | none => st
    | some r =>
      let st1 := st.setV r (putCol (st.vreg r) j (f.landCol j (colOf (st.vreg r) j)))
      if (match i.vf with
          | some v => v.dup
          | none => false)
      then st1.setV (r + 32) (putCol (st.vreg (r + 32)) j (f.landCol j (colOf (st.vreg (r + 32)) j)))
      else st1

/-- A `cmpd` that has compared its columns reports a difference (R340, R343; log 8, DESIGN CHOICE). -/
def State.cmpdReport (s : State) (c t : Nat) (f : Flight) (r : Nat) : State :=
  if f.sc == 0 then s
  else
    let p := s.free
    (p.2.errorEvent { cat := 5, code := cSdc, world := (s.strandAt c t).world, corrected := false, injected := false, loc := p.1 }).report c t
      (imprecise cSdc f.sc.toNat (word r))

/-! ### Stores of a strand whose CTIME stands (R204, R230; log 26, DEDUCED) -/

/-- A store's access waits to be read or written. -/
def Flight.isStore (f : Flight) : Bool :=
  match f.instr with
  | .vst _ | .vsts _ | .vstx _ | .vacw _ => true
  | _ => false

/-- A `pputv`, whose operation waits for its data. -/
def Flight.isPut (f : Flight) : Bool :=
  match f.instr with
  | .pputv _ => true
  | _ => false

/-- An entry goes on while CTIME stands: a store or put that something waits for, and for a strand that has ended or stopped every one, and its `cmpd` (R204, R230, R237, R306, R316, R319, R340, R351; log 26, DEDUCED). `awaited` says of a flight that the machine waits for it. -/
def Held.goesOn (h : Held) (ended : Bool) (awaited : Flight → Bool) : Bool :=
  match h.kind with
  | .vector f => (ended && f.isCmpd) || ((f.isStore || f.isPut) && (ended || !h.arrive.isEmpty || awaited f))
  | _ => false

/-- One core cycle of an entry that goes on: its next column is read, with the data that it would hold at t + j; a `cmpd` of an ended strand that has compared its columns reports. Answers the entry that stays. -/
def State.driftOne (s : State) (c t : Nat) (goes : Held → Bool) (before : List Held) (h : Held) : State × Option Held :=
  match h.kind with
  | .scalar _ _ | .load _ _ _ => (s, some h)
  | .vector f =>
    let st := s.strandAt c t
    let j := Nat.max f.seen (st.ctime + 1 - f.t)
    if !goes h then (s, some h)
    else if f.c0 + f.cols ≤ j then
      match f.instr with
      | .cmpd r _ => if st.status == .ended then ((s.cmpdReport c t f r.toNat).arriveOn c t h.arrive, none) else (s, some h)
      | _ => (s, some h)
    else if j < f.c0 then (s, some { h with kind := .vector { f with seen := j + 1 } })
    else s.columnRead c t h (f.colAhead st (st.ctime + 1) before j) j

/-- Go through the held entries in order, keeping those that stay. -/
def State.driftAll (c t : Nat) (goes : Held → Bool) : List Held → List Held → State → State
  | kept, [], s => s.modStrandAt c t fun st => { st with held := kept }
  | kept, h :: hs, s =>
    let p := s.driftOne c t goes kept h
    State.driftAll c t goes (kept ++ p.2.toList) hs p.1

/-- The entries of a strand that go on while CTIME stands do so by one core cycle (log 26, DEDUCED). -/
def State.drift (s : State) (c t : Nat) (goes : Held → Bool) : State := State.driftAll c t goes [] (s.strandAt c t).held s

/-- What lands of one held entry at the strand's current cycle; `before` are the entries ahead of it. Answers the entry that stays. -/
def State.landOne (s : State) (c t : Nat) (before : List Held) (h : Held) : State × Option Held :=
  let st := s.strandAt c t
  match h.kind with
  | .scalar due l =>
    if due ≤ st.ctime then ((s.setStrandAt c t (st.land l)).arriveOn c t h.arrive, none) else (s, some h)
  | .load _ _ _ => (s, some h)
  | .vector f =>
    match f.instr with
    | .vred v =>
      if f.t + f.lat + 8 ≤ st.ctime then
        ((s.setStrandAt c t (st.land (.push (f.redValue v) (dstReg v.vd)))).arriveOn c t h.arrive, none)
      else (s, some h)
    | .vpopc v =>
      if f.t + f.lat + 8 ≤ st.ctime then
        ((s.setStrandAt c t (st.land (.push f.popValue (dstReg v.vd)))).arriveOn c t h.arrive, none)
      else (s, some h)
    | .cmpd r _ =>
      if f.t + 8 ≤ st.ctime then ((s.cmpdReport c t f r.toNat).arriveOn c t h.arrive, none) else (s, some h)
    | .vst _ | .vsts _ | .vstx _ | .vacw _ | .pputv _ => (s, some h)
    | _ =>
      if f.t + f.lat + f.c0 ≤ st.ctime && st.ctime < f.t + f.lat + f.c0 + f.dcols then
        let j := st.ctime - f.t - f.lat
        let s1 := s.setStrandAt c t (st.landColumn (f.full st before) j)
        if j + 1 == f.c0 + f.dcols then (s1.arriveOn c t h.arrive, none) else (s1, some h)
      else (s, some h)

/-- Go through the held entries in order (R32), keeping those that stay. -/
def State.landAll (c t : Nat) : List Held → List Held → State → State
  | kept, [], s => s.modStrandAt c t fun st => { st with held := kept }
  | kept, h :: hs, s =>
    let p := s.landOne c t kept h
    State.landAll c t (kept ++ p.2.toList) hs p.1

/-- Take every landing due at the strand's current CTIME, in the order of R32; a mask that lands then sets right what landed ahead of it (R30, R31; log 10, DEDUCED). -/
def State.landDue (s : State) (c t : Nat) : State :=
  let s1 := s.forceL c t
  let st := s1.strandAt c t
  let s2 := State.landAll c t [] st.held s1
  if st.looksAhead then s2.modStrandAt c t fun x => x.settlePast st.pastNow (st.held.any (·.maskBy st.ctime)) else s2

/-- One cycle of context time passes: the results due land, then the columns due are read (R27, R30). -/
def State.spend (s : State) (c t : Nat) : State :=
  ((s.modStrandAt c t fun st => { st with ctime := st.ctime + 1, owed := st.owed - 1 }).landDue c t).readColumns c t

end Sys2Proof.Machine
end

