-- ==== Sys2Proof/Machine/Slots.lean ====
section
/-! DEFINITION. Runs of whole lines that an engine reads or writes: a range of a bank, or a ring slot (R148, R163, R165). -/

namespace Sys2Proof.Machine

open Sys2Proof

/-- What an engine read: bytes, the positions in the run of the lines it found bad, what it reports of them, the state. -/
structure RunRead where
  bytes : List Byte
  bad : List Nat
  flags : List LineFlag
  state : State
  deriving DecidableEq, Repr

/-- Address of line `i` of a run that starts at a scratchpad address. -/
def runSpad (addr i : Nat) : Nat := addr + 64 * i

/-- Address of line `i` of a ring slot (R148). -/
def runSlot (d : Word) (sl i : Nat) : Nat := ringByte d sl (64 * i)

/-- Read lines `i`, `i+1`, … of a run, `n` of them, for an agent of a world under a VCTL value (R39; log 4, DEDUCED). -/
def State.readRun (s : State) (c world : Nat) (v : Word) (place : Nat → Nat) : Nat → Nat → RunRead
  | _, 0 => ⟨[], [], [], s⟩
  | i, n + 1 =>
    let r := s.readLine c world (place i / 64) v
    let rest := r.state.readRun c world v place (i + 1) n
    ⟨r.bytes ++ rest.bytes, (if r.flags.isEmpty then [] else [i]) ++ rest.bad, r.flags ++ rest.flags, rest.state⟩

/-- Write whole lines of a run from line `i` on; `poison` names the lines to write as poisoned (R137; log 4, DEDUCED). -/
def Core.writeRun (k : Core) (world : Nat) (place : Nat → Nat) (poison : Nat → Bool) : Nat → Nat → List Byte → Core
  | _, 0, _ => k
  | i, n + 1, bs =>
    (k.writeLine world (place i / 64) 0 (bs.take 64) (poison i)).writeRun world place poison (i + 1) n (bs.drop 64)

/-- Scale record of a ring slot (R148): bank × 128 + RECBASE + s. -/
def ringRecord (d : Word) (sl : Nat) : Nat := ringBank d * 128 + ringRec d + sl

end Sys2Proof.Machine

namespace Sys2Proof.Machine

open Sys2Proof

/-- Write a record as a tile-granular write: its generation counts on (R123, R125). -/
def Core.tileRec (k : Core) (i : Nat) (r : List Byte) (poison : Bool) : Core :=
  k.writeRec i (r.set 17 (BitVec.ofNat 8 (k.prevGen i + 1))) poison

/-- Rings and slots that an M syllable pops and reads when it starts (R243). -/
def MOp.popped (o : MOp) : List (Nat × Nat) :=
  match o.instr with
  | .mma f | .mmas f =>
    (if f.pa || (f.qa == f.qb && f.pb) then [(f.qa.toNat, o.slotA)] else [])
      ++ (if f.pb || (f.qa == f.qb && f.pa) then [(f.qb.toNat, o.slotB)] else [])
      ++ (match o.instr with
          | .mmas _ => if f.pa then [(Word.field o.mg 18 4, o.slotM)] else []
          | _ => [])
  | .macc f => if f.pa then [(f.qa.toNat, o.slotA)] else []
  | _ => []

/-- A slot that the matrix unit has popped and not yet read: writes into it by a producer wait (R243). -/
def Core.slotPending (k : Core) (q sl : Nat) : Bool := k.mq.any fun o => !o.started && o.popped.contains (q, sl)

end Sys2Proof.Machine
end

