-- ==== Sys2Proof/Machine/Matrix.lean ====
section
/-! DEFINITION. The matrix unit (R233 to R256): issue of the M syllables, the start of an operation on the array, its rows, its checksums and its retirement. -/

namespace Sys2Proof.Machine

open Sys2Proof

/-! ### Exact sums and groups (R133, R248) -/

/-- Round to binary64 under RNE (R133). -/
def rne64 (v : FVal) : Word := word (fmtF64.encode .rne false v)

/-- The value of a binary64 element. -/
def f64 (w : Word) : FVal := fmtF64.decode w.toNat

/-- The special values of R133, if the terms have one. -/
def sumSpecial (vs : List FVal) : Option FVal :=
  if vs.any FVal.isNan || (vs.any (fun v => v == .inf false) && vs.any (fun v => v == .inf true)) then some .nan
  else if vs.any (fun v => v == .inf false) then some (.inf false)
  else if vs.any (fun v => v == .inf true) then some (.inf true)
  else none

/-- A common denominator of the finite terms. -/
def sumDen (vs : List FVal) : Nat :=
  vs.foldl (fun m v => match v with
    | .fin _ _ d => Nat.lcm m d
    | _ => m) 1

/-- The exact sum; a sum of zero is +0 (R133, R248). -/
def exactSum (vs : List FVal) : FVal :=
  match sumSpecial vs with
  | some v => v
  | none =>
    let D := sumDen vs
    let x := vs.foldl (fun (t : Int) v => match v with
      | .fin s n d => t + FVal.sgn s (n * (D / d))
      | _ => t) 0
    .fin (decide (x < 0)) x.natAbs D

/-- Exponent of the largest product; none when every product is zero (R133). -/
def groupExp (ps : List FVal) : Option Int :=
  ps.foldl (fun m p => match p with
    | .fin _ n d =>
      if n == 0 then m
      else match m with
        | none => some (ilog2 n d)
        | some e => some (max e (ilog2 n d))
    | _ => m) none

/-- A product cut toward zero to a multiple of 2^q, in units of 2^q (R133). -/
def cutTo (q : Int) (p : FVal) : Int :=
  match p with
  | .fin s n d => FVal.sgn s (if 0 ≤ q then n / (d * 2 ^ q.toNat) else n * 2 ^ (-q).toNat / d)
  | _ => 0

/-- The group g of R133, before the sign. -/
def groupVal (ps : List FVal) : FVal :=
  match sumSpecial ps with
  | some v => v
  | none =>
    match groupExp ps with
    | none => FVal.zero
    | some e =>
      let x := ps.foldl (fun t p => t + cutTo (e - 110) p) 0
      f64 (rne64 (FVal.scaled (decide (x < 0)) x.natAbs (e - 110)))

/-- One group of one output element (R133). -/
def group (ps : List FVal) (neg : Bool) (acc : Word) : Word :=
  let g := groupVal ps
  rne64 (FVal.add .rne (f64 acc) (if neg then g.neg else g))

/-! ### Operands (R241, R243) -/

/-- Fields of MG (R238). -/
def mgTA (w : Word) : Bool := w.getLsbD 0
def mgTB (w : Word) : Bool := w.getLsbD 1
def mgTO (w : Word) : Bool := w.getLsbD 2
def mgMQ (w : Word) : Nat := Word.field w 18 4
/-- Kept elements per row. -/
def mgKept (w : Word) : Nat := 8 * (Word.field w 16 2 + 1)
/-- A value that MG takes: zero fields zero and SPN valid. -/
def mgOk (w : Word) : Bool := Word.field w 22 42 == 0 && Word.field w 3 13 == 0 && Word.field w 16 2 != 3

/-- Ring of an M syllable's format: valid and of a kind from `lo` to `hi` (R241, R242). -/
def kindOk (fmt : Word) (lo hi : Nat) : Bool := bfmtValid fmt && lo ≤ bfmtElem fmt && bfmtElem fmt ≤ hi

/-- The first failure of R242 for operand rings of kinds 1 to `hi`, and for `mmas` its mask ring. -/
def operandFault (k : Core) (qs : List Nat) (hi : Nat) (mask : Option Nat) : Option Nat :=
  let all := qs ++ mask.toList
  if all.any (fun q => !(k.ring q).configured || ringSizeCode (k.ring q).desc == 0) then some cRing
  else if qs.any (fun q => !kindOk (k.fmt (ringBank (k.ring q).desc)) 1 hi)
      || mask.any (fun q => !bfmtValid (k.fmt (ringBank (k.ring q).desc))) then some cBank
  else if qs.any (fun q => ringSlot (k.ring q).desc != tileBytes (k.fmt (ringBank (k.ring q).desc))) then some cRing
  else match mask with
    | some q => if qs.contains q || ringSlot (k.ring q).desc != 128 then some cRing else none
    | none => none

/-- The first failure of R242 for an output ring: `scaled` names what the format must be, `size` the slot bytes (R249, R251, R252). -/
def outputFault (k : Core) (q : Nat) (bad : Word → Bool) (size : Word → Nat) : Option Nat :=
  let d := (k.ring q).desc
  let fmt := k.fmt (ringBank d)
  if !(k.ring q).configured || ringSizeCode d == 0 then some cRing
  else if !bfmtValid fmt || bad fmt then some cBank
  else if ringSlot d != size fmt then some cRing
  else none

/-- Rows of 32 of a tile in row order. -/
def rowsOf {α : Type} (xs : List α) : List (List α) := (List.range 32).map fun i => (xs.drop (32 * i)).take 32

/-- An element under τ: a τ of +0 makes every finite element +0, whatever its sign (R244). -/
def underTau (tau v : FVal) : FVal := if tau.isZero && !tau.isNeg && v.isFin then FVal.zero else v

/-- The banks of a slot have M positions for the unit under given wheels (R140, R247). -/
def slotServed (wheels : SMap Word) (d : Word) : Bool :=
  (List.range (ringStripe d)).all fun i => wheelServes (SMap.get wheels Config.defaultWheel (ringBank d + i)) 2

/-- The decoded operand of a ring slot, as consumed, with its reports (R124, R241, R254). -/
def State.readTile (s : State) (i : OpInfo) (d : Word) (sl : Nat) (tau : FVal) (transposed : Bool) : List FVal × State :=
  let fmt := (s.coreAt i.core).fmt (ringBank d)
  let e := bankElem fmt
  let r := s.readRun i.core i.world (s.coreAt i.core).vctl (runSlot d sl) 0 (tileBytes fmt / 64)
  let s1 := r.state.reportFlags i.core i.strand r.flags
  let codes := unpackElems e.bits r.bytes
  let bad (n : Nat) : Bool := r.bad.contains (n * e.bits / 8 / 64)
  let p : List FVal × State :=
    if bfmtScaled fmt then
      let rc := (s1.coreAt i.core).readRec (ringRecord d sl)
      if rc.2 then (codes.map fun _ => .nan, s1.reportRecord i.core i.strand)
      else
        (codes.zipIdx.map fun x => if bad x.2 then .nan else underTau tau (tileValue e rc.1 tau x.1 (x.2 / 32) (x.2 % 32)),
         if scaleBad (recSigma rc.1) then s1.report i.core i.strand (imprecise cScale 0 0) else s1)
    else (codes.zipIdx.map fun x => if bad x.2 then .nan else underTau tau (FVal.mul (e.decode x.1) tau), s1)
  (if transposed then transpose32 .nan p.1 else p.1, p.2)

/-- The elements of a row that the mask keeps: the `n` lowest-numbered set bits of its word (R246; log 34, DEDUCED). -/
def keepRow (w : Nat) : Nat → Nat → Nat → List Bool
  | 0, _, _ => []
  | fuel + 1, b, n =>
    if w / 2 ^ b % 2 == 1 && 0 < n then true :: keepRow w fuel (b + 1) (n - 1) else false :: keepRow w fuel (b + 1) n

/-- The mask of `mmas`, 32 rows of 32 (R246). A poisoned line reads as zeros, so it keeps nothing (R254). -/
def State.readMask (s : State) (i : OpInfo) (d : Word) (sl kept : Nat) : List (List Bool) × State :=
  let r := s.readRun i.core i.world (s.coreAt i.core).vctl (runSlot d sl) 0 2
  ((List.range 32).map fun row => keepRow (leNat ((r.bytes.drop (4 * row)).take 4)) 32 0 kept,
   r.state.reportFlags i.core i.strand r.flags)

/-! ### Issue (R233, R234, R236, R242, R243) -/

/-- Places of the queue that bundles of the core's strands with sent atomics keep (R170; log 66, DEDUCED). -/
def Core.mplaces (k : Core) : Nat := (k.strands.filter fun p => p.2.sent.any (·.mplace)).length

/-- The unit holds 16 syllables (R233). -/
def State.queueFull (s : State) : Bool := s.asks (16 ≤ s.core.mq.length + s.core.mplaces)

/-- The operation as it issues. -/
def State.newMOp (s : State) (i : Instr) (f : MF) : MOp :=
  { info := s.newInfo clsM 0, instr := i, x := s.src f.x, y := s.src f.y, mg := s.core.mg,
    descA := (s.core.ring f.qa.toNat).desc, descB := (s.core.ring f.qb.toNat).desc, descM := (s.core.ring (mgMQ s.core.mg)).desc,
    slotA := (s.core.ring f.qa.toNat).head, slotB := (s.core.ring f.qb.toNat).head, slotM := (s.core.ring (mgMQ s.core.mg)).head,
    started := false, row := 0, newEl := [], newRs := [], newCs := [], newCkv := true, newBytes := [], newRec := [], vctl := 0, wheels := [], begun := 0, halves := 0 }

/-- Queue an operation; a writer takes the watermark of its tile to 0 (R236). -/
def State.queueM (s : State) (o : MOp) (f : MF) (writes : Bool) : State :=
  let s1 := s.bumpId.modCore s.cur.core fun k => { k with mq := k.mq ++ [o] }
  if writes then s1.modCore s.cur.core fun k => k.setAcc f.acc.toNat { k.acc f.acc.toNat with w := 0, writer := o.info.id } else s1

/-- Rings that an operand syllable pops, once each (R243). -/
def popsOf (f : MF) (mask : Option Nat) : List Nat :=
  (if f.qa == f.qb then (if f.pa || f.pb then [f.qa.toNat] else [])
   else (if f.pa then [f.qa.toNat] else []) ++ (if f.pb then [f.qb.toNat] else []))
    ++ (if f.pa then mask.toList else [])

/-- Issue of `mma`, `mmas` and `macc`: `qs` are its operand rings (R242, R243). -/
def issueProduct (s : State) (i : Instr) (f : MF) (qs : List Nat) (pops : List Nat) (hi : Nat) (mask : Option Nat) : Out State :=
  if s.queueFull then s.block
  else match s.asked (operandFault s.core qs hi mask) with
  | some e => s.fault e
  | none =>
    if s.asks ((qs ++ mask.toList).any fun q => s.tokensOf s.cur.core q == 0) then s.block
    else
      let s1 := s.queueM (s.newMOp i f) f true
      (pops.foldl (fun s q => s.consume s.cur.core q 1 true) s1).ok

/-- Issue of a writer without ring operands. -/
def issueWriter (s : State) (i : Instr) (f : MF) : Out State :=
  if s.queueFull then s.block else (s.queueM (s.newMOp i f) f true).ok

/-- Issue of an operation that writes a ring slot: it takes a permit and the tail slot (R150, R249, R251, R252). -/
def issueOutput (s : State) (i : Instr) (f : MF) (bad : Word → Bool) (size : Word → Nat) : Out State :=
  let q := f.qa.toNat
  if s.queueFull then s.block
  else match s.asked (outputFault s.core q bad size) with
  | some e => s.fault e
  | none =>
    if s.asks (s.permitsOf s.cur.core q == 0) then s.block
    else
      let s1 := s.queueM { s.newMOp i f with slotA := (s.core.ring q).tail } f false
      (s1.modCore s1.cur.core fun k => k.setRing q ((k.ring q).takeTail 1 false)).ok

/-- mma: a tile product (R245). -/
def execMma (f : MF) (s : State) : Out State :=
  issueProduct s (.mma f) f [f.qa.toNat, f.qb.toNat] (popsOf f none) 7 none

/-- mmas: a product with a structured-sparse A (R246). -/
def execMmas (f : MF) (s : State) : Out State :=
  issueProduct s (.mmas f) f [f.qa.toNat, f.qb.toNat] (popsOf f (some (mgMQ s.core.mg))) 7 (some (mgMQ s.core.mg))

/-- macc: add a tile from a ring (R250). -/
def execMacc (f : MF) (s : State) : Out State :=
  issueProduct s (.macc f) f [f.qa.toNat] (if f.pa then [f.qa.toNat] else []) 10 none

/-- mzero: every element +0 (R250). -/
def execMzero (f : MF) (s : State) : Out State := issueWriter s (.mzero f) f

/-- mscl: scale a tile (R250). -/
def execMscl (f : MF) (s : State) : Out State := issueWriter s (.mscl f) f

/-- mgeo: MG := x, for M syllables issued after it (R238, R240; log 33, DEDUCED). -/
def execMgeo (f : MF) (s : State) : Out State :=
  if s.queueFull then s.block
  else if !mgOk (s.src f.x) then s.fault cIlleg
  else (s.putCore { s.core with mg := s.src f.x }).retire

/-- tquant: quantise a tile into a slot of a scaled ring (R251). -/
def execTquant (f : MF) (s : State) : Out State := issueOutput s (.tquant f) f (fun w => !bfmtScaled w) tileBytes

/-- tcast: write a tile into a slot of an unscaled ring (R252). -/
def execTcast (f : MF) (s : State) : Out State :=
  issueOutput s (.tcast f) f (fun w => bfmtScaled w || bfmtElem w == 0) tileBytes

/-- mchk: write the residues of a tile's checksums (R249). -/
def execMchk (f : MF) (s : State) : Out State := issueOutput s (.mchk f) f bfmtScaled (fun _ => 1024)

/-! ### On the array (R243, R245 to R252) -/

/-- Elements of an accumulator in row order. -/
def Acc.elems (a : Acc) : List Word := (List.range 1024).map fun n => SMap.get a.el 0 n

/-- List the values of a sparse map from a list, by position. -/
def listed {α : Type} (xs : List α) : SMap α := xs.zipIdx.map fun x => (x.2, x.1)

/-- Add s × an exact sum to a checksum (R248). -/
def addSum (w : Word) (neg : Bool) (v : FVal) : Word :=
  let r := rne64 (if neg && !v.isZero then v.neg else v)
  rne64 (FVal.add .rne (f64 w) (f64 r))

/-- The products of kept elements: a masked element is an exact zero, and its product is one whatever it meets (R133, R246; log 34, DEDUCED). -/
def keptProducts (xs : List (Option FVal)) (ys : List FVal) : List FVal :=
  List.zipWith (fun x y => match x with
    | some v => FVal.mul v y
    | none => FVal.zero) xs ys

/-- Checksums of a product (R248): A by rows with its masked elements as none, B by rows (log 34, DEDUCED). -/
def productSums (rs cs : List Word) (neg : Bool) (A : List (List (Option FVal))) (B : List (List FVal)) : List Word × List Word :=
  let beta := B.map exactSum
  let alpha := (rowsOf (transpose32 none A.flatten)).map fun col =>
    if col.any Option.isSome then some (exactSum (col.filterMap id)) else none
  let cols := rowsOf (transpose32 .nan B.flatten)
  (rs.zipIdx.map fun x => addSum x.1 neg (exactSum (keptProducts (A.getD x.2 []) beta)),
   cs.zipIdx.map fun x => addSum x.1 neg (exactSum (keptProducts alpha (cols.getD x.2 []))))

/-- Row and column checksums of a tile. -/
def Acc.sums (a : Acc) : List Word × List Word :=
  ((List.range 32).map fun i => SMap.get a.rs 0 i, (List.range 32).map fun i => SMap.get a.cs 0 i)

/-- CKV and the checksums that a writer with the ck flag starts from, and whether it updates them (R248). -/
def ckStart (a : Acc) (ck z : Bool) : Bool × Bool × (List Word × List Word) :=
  if ck && z then (true, true, (List.replicate 32 0, List.replicate 32 0))
  else if ck then (a.ckv, a.ckv, a.sums)
  else (false, false, a.sums)

/-- A writer with its results. -/
def MOp.withNew (o : MOp) (el : List Word) (ckv : Bool) (rs cs : List Word) : MOp :=
  { o with started := true, newEl := listed el, newCkv := ckv, newRs := listed rs, newCs := listed cs }

/-- `mma` and `mmas` on the array (R245, R246, R248; log 34, DEDUCED). -/
def MOp.product (o : MOp) (f : MF) (a : Acc) (A B : List FVal) (mask : List (List Bool)) : MOp :=
  let keep (row : List FVal) (m : List Bool) : List (FVal × Bool) := row.zip m
  let rows := List.zipWith keep (rowsOf A) mask
  let cols := rowsOf (transpose32 .nan B)
  let old := a.elems
  let el := rows.zipIdx.flatMap fun r => cols.zipIdx.map fun c =>
    let ps := ((r.1.zip c.1).filter (fun p => p.1.2)).map fun p => FVal.mul p.1.1 p.2
    group ps f.neg (if f.z then 0 else old.getD (32 * r.2 + c.2) 0)
  let st := ckStart a f.ck f.z
  let thin := rows.map fun r => r.map fun p => if p.2 then some p.1 else none
  let sums := if st.2.1 then productSums st.2.2.1 st.2.2.2 f.neg thin (rowsOf B) else st.2.2
  o.withNew el st.1 sums.1 sums.2

/-- `macc` on the array (R248, R250). -/
def MOp.add (o : MOp) (f : MF) (a : Acc) (V : List FVal) : MOp :=
  let sv := V.map fun v => if f.neg then v.neg else v
  let el := (a.elems.zip sv).map fun p => if f.z then rne64 p.2 else rne64 (FVal.add .rne (f64 p.1) p.2)
  let st := ckStart a f.ck f.z
  let sums :=
    if st.2.1 then
      (List.zipWith (fun w r => addSum w false (exactSum r)) st.2.2.1 (rowsOf sv),
       List.zipWith (fun w r => addSum w false (exactSum r)) st.2.2.2 (rowsOf (transpose32 .nan sv)))
    else st.2.2
  o.withNew el st.1 sums.1 sums.2

/-- `mscl` on the array: elements, and valid checksums, by the factor (R244, R250). -/
def MOp.scale (o : MOp) (f : MF) (a : Acc) : MOp :=
  let by_ (w : Word) : Word :=
    let p := FVal.mul (f64 o.x) (f64 w)
    rne64 (if f.neg then p.neg else p)
  let sums := if a.ckv then (a.sums.1.map by_, a.sums.2.map by_) else a.sums
  o.withNew (a.elems.map by_) a.ckv sums.1 sums.2

/-- Residues, masks and slot bytes of `mchk` (R249). -/
def mchkSlot (a : Acc) (t : FVal) : List Byte × Bool :=
  let el := a.elems.map f64
  let diff (w : Word) (r : List FVal) : Word := rne64 (exactSum (f64 w :: r.map FVal.neg))
  let nanWord := word fmtF64.nanCode
  let dr := if a.ckv then List.zipWith diff a.sums.1 (rowsOf el) else List.replicate 32 nanWord
  let dc := if a.ckv then List.zipWith diff a.sums.2 (rowsOf (transpose32 .nan el)) else List.replicate 32 nanWord
  let beyond (ws : List Word) : Nat := ws.zipIdx.foldl (fun m w => if FVal.le (f64 w.1).abs t then m else m + 2 ^ w.2) 0
  ((dr ++ dc).flatMap (fun w => leBytes 8 w.toNat) ++ leBytes 4 (beyond dr) ++ leBytes 4 (beyond dc)
     ++ leBytes 4 (if a.ckv then 0 else 1) ++ List.replicate 500 0,
   a.ckv && (beyond dr != 0 || beyond dc != 0))

/-- An SDC found by `mchk`: an error event at the tile, whose element the manual leaves open, and a report (R249, R329, R343; log 8, DESIGN CHOICE). -/
def State.sdcTile (s : State) (i : OpInfo) (tile : Nat) : State :=
  let p := s.free
  let loc := word (2 * 2 ^ 60 + i.core / 12 * 2 ^ 22 + i.core % 12 * 2 ^ 18 + tile * 2 ^ 10 + p.1.toNat % 1024)
  let s1 := p.2.errorEvent { cat := 5, code := cSdc, world := i.world, corrected := false, injected := false, loc := loc }
  s1.report i.core i.strand (imprecise cSdc 0x100 (word tile))

/-- The τ of R244. -/
def isPosFin (v : FVal) : Bool := v.isFin && !v.isZero && !v.isNeg

/-- The operation at the head of the matrix unit starts: its operands are read and its results follow (R243). Answers the operation with its results. A bank format that changed since the issue is taken as it is found (log 82, DESIGN CHOICE). -/
def State.startM (s : State) (o : MOp) : MOp × State :=
  let i := o.info
  let k := s.coreAt i.core
  match o.instr with
  | .mma f =>
    let a := s.readTile i o.descA o.slotA (tauVal o.x) (mgTA o.mg)
    let b := a.2.readTile i o.descB o.slotB (tauVal o.y) (mgTB o.mg)
    (o.product f (k.acc f.acc.toNat) a.1 b.1 (List.replicate 32 (List.replicate 32 true)), b.2)
  | .mmas f =>
    let a := s.readTile i o.descA o.slotA (tauVal o.x) (mgTA o.mg)
    let b := a.2.readTile i o.descB o.slotB (tauVal o.y) (mgTB o.mg)
    let m := b.2.readMask i o.descM o.slotM (mgKept o.mg)
    (o.product f (k.acc f.acc.toNat) a.1 b.1 m.1, m.2)
  | .macc f =>
    let v := s.readTile i o.descA o.slotA (tauVal o.x) (mgTA o.mg)
    (o.add f (k.acc f.acc.toNat) v.1, v.2)
  | .mzero _ => (o.withNew (List.replicate 1024 0) true (List.replicate 32 0) (List.replicate 32 0), s)
  | .mscl f => (o.scale f (k.acc f.acc.toNat), s)
  | .mchk f =>
    let m := mchkSlot (k.acc f.acc.toNat) (f64 o.x)
    ({ o with started := true, newBytes := m.1 }, if f.ck && m.2 then s.sdcTile i f.acc.toNat else s)
  | .tquant f =>
    let fmt := k.fmt (ringBank o.descA)
    let t := tquantTile (bankElem fmt) (bfmtRnd fmt) ((k.acc f.acc.toNat).elems.map f64) (tauVal o.x)
    let codes := if mgTO o.mg then transpose32 0 t.codes else t.codes
    let r := if mgTO o.mg then mkRecord t.sigma t.gamma t.rho 0 t.flags else mkRecord t.sigma t.rho t.gamma 0 t.flags
    ({ o with started := true, newBytes := packElems (bankElem fmt).bits codes, newRec := r },
     if t.scale then s.report i.core i.strand (imprecise cScale 0 0) else s)
  | .tcast f =>
    let fmt := k.fmt (ringBank o.descA)
    let e := bankElem fmt
    let ok := isPosFin (tauVal o.x)
    let codes := (k.acc f.acc.toNat).elems.map fun w =>
      if ok then e.encode (bfmtRnd fmt) (bfmtSat fmt) (FVal.div (f64 w) (tauVal o.x)) else 0
    ({ o with started := true, newBytes := packElems e.bits (if mgTO o.mg then transpose32 0 codes else codes) },
     if ok then s else s.report i.core i.strand (imprecise cScale 0 0))
  | _ => ({ o with started := true }, s)

/-- Descriptors of the slots that an operation reads (R243). -/
def MOp.operands (o : MOp) : List Word :=
  match o.instr with
  | .mma _ => [o.descA, o.descB]
  | .mmas _ => [o.descA, o.descB, o.descM]
  | .macc _ => [o.descA]
  | _ => []

/-- The accumulator tile that an M syllable names (R237). -/
def MOp.accTile (o : MOp) : Option Nat :=
  match o.instr with
  | .mma f | .mmas f | .mzero f | .mscl f | .macc f | .tquant f | .tcast f | .mchk f => some f.acc.toNat
  | _ => none

/-- Element bits of a ring's bank. -/
def Core.slotBits (k : Core) (d : Word) : Nat := (bankElem (k.fmt (ringBank d))).bits

/-- Core cycles of a product, by the width class of its wider operand (R247). -/
def productCycles (bits : Nat) : Nat := if bits ≤ 4 then 2 else if bits ≤ 8 then 4 else 8

/-- Occupancy of the array in half core cycles (R247). -/
def MOp.occupancy (o : MOp) (k : Core) : Nat :=
  let wide := productCycles (Nat.max (k.slotBits o.descA) (k.slotBits o.descB))
  match o.instr with
  | .mma _ => 2 * wide
  | .mmas _ => 2 * wide * mgKept o.mg / 32
  | .mzero _ => 2
  | .mscl _ | .macc _ | .tcast _ => 8
  | .tquant _ | .mchk _ => 16
  | _ => 0

/-- The bit that Vetiver's target 2 flips in the next element that the matrix unit writes under the VCTL `v` of the operation's start, with the next event number (R39, R349, R391). -/
def Core.flip (k : Core) (v w : Word) : Word × Core :=
  if vctlEn v && vctlTgt v == 2 then
    let n := k.vctlEvent
    let bit := if vctlOne v then vctlRate v else (rngPair (word n) 0 (word (vctlArg v))).1.toNat / 2 ^ 8 % 64
    (if vctlHit v 2 n then w ^^^ ((1 : Word) <<< bit) else w, { k with vctlEvent := n + 1 })
  else (w, k)

/-- Write the elements of row `i` from column `j` on. -/
def Core.writeRow (k : Core) (v : Word) (t i : Nat) (el : SMap Word) : Nat → Nat → Core
  | _, 0 => k
  | j, n + 1 =>
    let p := k.flip v (SMap.get el 0 (32 * i + j))
    (p.2.setAcc t ((p.2.acc t).set i j p.1)).writeRow v t i el (j + 1) n

/-- A writer of tile `t` writes its next row, and its checksums with the last one; the watermark follows if it is the last writer of its tile (R236, R247). -/
def Core.matrixRow (k : Core) (o : MOp) (t : Nat) : Core :=
  let k1 := k.writeRow o.vctl t o.row o.newEl 0 32
  let a := k1.acc t
  let a1 := if a.writer == o.info.id then { a with w := o.row + 1 } else a
  k1.setAcc t (if o.row == 31 then { a1 with ckv := o.newCkv, rs := o.newRs, cs := o.newCs } else a1)

def MOp.writesAcc (o : MOp) : Option Nat :=
  match o.instr with
  | .mma f | .mmas f | .mzero f | .mscl f | .macc f => some f.acc.toNat
  | _ => none

/-- Row `i` of a writer falls in the core's present cycle or an earlier one: cycle s + ⌈(i + 1) · O / 32⌉ − 1 (R247). -/
def MOp.rowDue (o : MOp) (cycle : Nat) : Bool := o.started && o.row < 32 && o.begun / 2 + ((o.row + 1) * o.halves + 63) / 64 ≤ cycle + 1

/-- The rows that an operation writes in the core's present cycle (R236, R247). -/
def Core.rowsOf (k : Core) (o : MOp) : MOp × Core :=
  match o.writesAcc with
  | some t => (List.range 32).foldl (fun (p : MOp × Core) _ =>
      if p.1.rowDue k.cycle then ({ p.1 with row := p.1.row + 1 }, p.2.matrixRow p.1 t) else p) (o, k)
  | none => (o, k)

/-- The rows that operations of the unit write in the core's present cycle, in the order of their issue (R233, R247). -/
def Core.runRows : List MOp → Core → List MOp × Core
  | [], k => ([], k)
  | o :: rest, k =>
    let p := k.rowsOf o
    let q := Core.runRows rest p.2
    (p.1 :: q.1, q.2)

def Core.matrixCycle (k : Core) : Core :=
  let r := Core.runRows k.mq k
  { r.2 with mq := r.1 }

/-! ### Starting and retiring (R233, R243, R247, R255) -/

/-- Half core cycle in which the next operation's occupancy starts: its predecessor's has ended, and the core's present cycle has come (R247). -/
def Core.nextHalf (k : Core) : Nat := Nat.max k.mFree (2 * k.cycle)

/-- Half core cycle in which the array is free after an occupancy of `n` half cycles from half cycle `h` on: after a half cycle in the same core cycle, else with the next one (R247; log 6, DESIGN CHOICE). -/
def freeAfter (h n : Nat) : Nat := if n == 1 then h + 1 else 2 * (h / 2 + (n + 1) / 2)

/-- The operation's occupancy of the array has not ended (R247). -/
def MOp.occupied (o : MOp) (cycle : Nat) : Bool := 2 * cycle < freeAfter o.begun o.halves

/-- The next operation may start: no fence holds it, its slots' banks have M positions, no store is still to write its tile, and its predecessor's occupancy has ended (R140, R233, R237, R243, R247, R306). -/
def State.mStarts (s : State) (core : Nat) (o : MOp) : Bool :=
  let k := s.coreAt core
  !o.started && s.unfenced o.info && o.operands.all (slotServed k.bwheel) && !(o.accTile.any k.tileStored) && k.mFree / 2 ≤ k.cycle

/-- The first operation of the unit that has not started does so, where it may: the rows due of its predecessors stand, and it keeps the VCTL and the wheels that it finds (R39, R233, R243, R247). -/
def State.startNext (s : State) (core : Nat) : State :=
  let k := s.coreAt core
  match k.mq.dropWhile (·.started) with
  | o :: rest =>
    if !s.mStarts core o then s
    else
      let r := Core.runRows (k.mq.takeWhile (·.started)) k
      let s0 := if r.1.isEmpty then s else s.setCore core r.2
      let p := s0.startM o
      p.2.modCore core fun k1 =>
        { k1 with
          mq := r.1 ++ { p.1 with vctl := k.vctl, wheels := k.bwheel, begun := k.nextHalf, halves := o.occupancy k } :: rest
          mFree := freeAfter k.nextHalf (o.occupancy k) }
  | [] => s

/-- An operation that reads no slot waits for no position: it starts with the core cycle after its predecessor's occupancy (R247). -/
def State.startFree (s : State) (core : Nat) : State :=
  match (s.coreAt core).mq.find? (!·.started) with
  | some o => if o.operands.isEmpty then s.startNext core else s
  | none => s

/-- MATRIX_OPERATION_START: the next operation of the unit starts, where it may: in which cycle it finds its M positions is free (R140, R233, R243, R247; log 6, DESIGN CHOICE). -/
def execMatrixOperationStart (core : Nat) (s : State) : Out State := .next (s.startNext core)

/-- Write the output slot of an operation (R249, R251, R252). -/
def Core.writeOutput (k : Core) (o : MOp) : Core :=
  let k1 := k.writeRun o.info.world (runSlot o.descA o.slotA) (fun _ => false) 0 (ringSlot o.descA / 64) o.newBytes
  match o.instr with
  | .tquant _ => k1.tileRec (ringRecord o.descA o.slotA) o.newRec false
  | _ => k1

/-- A started operation may retire: a writer with its last row, another with its occupancy over and M positions for its output slot (R140, R247, R255). -/
def MOp.finished (o : MOp) (cycle : Nat) : Bool :=
  o.started && match o.writesAcc with
    | some _ => o.row == 32
    | none => slotServed o.wheels o.descA && !o.occupied cycle

/-- Writers retire when their last row and checksums are written (R255). -/
def State.retireWriters (s : State) (core : Nat) : State :=
  let spent (o : MOp) : Bool := o.writesAcc.isSome && o.finished 0
  ((s.coreAt core).mq.filter spent).foldl (fun (s : State) o => s.arriveOp o.info)
    (s.modCore core fun k => { k with mq := k.mq.filter fun o => !spent o })

/-- MATRIX_OPERATION_RETIRE: the first operation that may retires (R140, R247, R255). -/
def execMatrixOperationRetire (core : Nat) (s : State) : Out State :=
  let k := s.coreAt core
  match k.mq.find? (·.finished k.cycle) with
  | none => .next s
  | some o =>
    let rest := k.mq.eraseP (·.finished k.cycle)
    match o.instr with
    | .tquant f | .tcast f | .mchk f =>
      .next (((s.modCore core fun k => { k.writeOutput o with mq := rest }).completeSlot core f.qa.toNat o.slotA).arriveOp o.info)
    | _ => .next ((s.modCore core fun k => { k with mq := rest }).arriveOp o.info)

end Sys2Proof.Machine
end

