-- ==== Sys2Proof/Machine/MemCmd.lean ====
section
/-! DEFINITION. Issue of the memory commands (R58 to R78, R367): address, target and timing checks on the nominal timeline, and the command queue. -/

namespace Sys2Proof.Machine

open Sys2Proof

/-! ### Addresses (R49, R67) -/

/-- Fields of a data-window address (R49). -/
abbrev vaLchan (x : Word) : Nat := Word.field x 30 9
abbrev vaSlot (x : Word) : Nat := Word.field x 28 2
abbrev vaBg (x : Word) : Nat := Word.field x 26 2
abbrev vaBank (x : Word) : Nat := Word.field x 24 2
abbrev vaRow (x : Word) : Nat := Word.field x 10 14
abbrev vaCol (x : Word) : Nat := Word.field x 6 4
abbrev vaByte (x : Word) : Nat := Word.field x 0 6

/-- Number of a bank of a PC (R46). -/
def bankNo (sid bg bank : Nat) : Nat := sid * 16 + bg * 4 + bank
def bankSid (b : Nat) : Nat := b / 16
def bankBg (b : Nat) : Nat := b / 4 % 4

/-- Steps 1 to 4 of R67: the channel, its PC and the SID (0 where none is needed). -/
def State.window (s : State) (x : Word) (needSid : Bool) : Except Nat (Chan × Nat × Nat) :=
  if Word.field x 56 8 != 0 then .error cSpace
  else if Word.field x 52 4 == 1 then .error cChown
  else if Word.field x 52 4 != 0 || Word.field x 39 13 != 0 then .error cXlate
  else match s.wg.bind (fun w => w.window.find? fun c => c.lchan == vaLchan x) with
    | none => .error cChown
    | some c =>
      if c.rank != s.core.rank || c.strand != s.cur.strand then .error cChown
      else match c.pc with
        | none => .error cAbsent
        | some p =>
          if !needSid then .ok (c, pcKey p.1 p.2, 0)
          else match SMap.find c.sids (vaSlot x) with
            | some sid => .ok (c, pcKey p.1 p.2, sid)
            | none => .error cAbsent

/-- The PC whose queue a command of the strand would join, whatever else of its address is wrong (R61). -/
def State.queueOf (s : State) (x : Word) : Option Nat :=
  if Word.field x 39 25 != 0 then none
  else match s.wg.bind (fun w => w.window.find? fun c => c.lchan == vaLchan x) with
    | none => none
    | some c => if c.rank != s.core.rank || c.strand != s.cur.strand then none else c.pc.map fun p => pcKey p.1 p.2

/-- The partition is flagged TEST (R356). -/
def World.test (w : World) : Bool := w.pwctl.getLsbD 62
/-- The partition runs in protected mode (R341, R356). -/
def World.prot (w : World) : Bool := w.pwctl.getLsbD 61

/-- A pointer of the strand's sync slot `k`; 15 names none (R66, R162). -/
def State.syncPtr (s : State) (k : BitVec 4) : Word := if k == 15 then 0 else SMap.get s.strand.sync 0 k.toNat

/-- A named sync slot whose SYNC register is zero (R67, R163). -/
def State.syncMissing (s : State) (k : BitVec 4) : Bool := k != 15 && s.syncPtr k == 0

/-! ### The nominal timeline (R58 to R61) -/

/-- Banks of one group, and other conditions of R59. -/
def TEvent.sameBank (a b : TEvent) : Bool := a.sid == b.sid && a.bg == b.bg && a.bank == b.bank
def TEvent.sameGroup (a b : TEvent) : Bool := a.sid == b.sid && a.bg == b.bg
def EvKind.grain (k : EvKind) : Bool := k == .rg || k == .wg

/-- An accepted event `f` and a new event `e` lie nearer than a minimum; an accepted grain may lie after `e`, and R59's grain rules hold for either order (log 20, DEDUCED). -/
def tooNear (f e : TEvent) (min_ : Nat) : Bool := e.tick < f.tick + min_
def tooNearGrain (f e : TEvent) (min_ : Nat) : Bool := e.tick < f.tick + min_ && f.tick < e.tick + min_

/-- The fourth activate before a new one, by tick (R59 rule 8). -/
def fourthA (evs : List TEvent) : Option TEvent := ((evs.filter fun f => f.kind == .a).reverse)[3]?

/-- The first minimum rule of R59 that a new event violates (log 20, DEDUCED). -/
def ruleBroken (p : Config.Profile) (evs : List TEvent) (e : TEvent) : Option Nat :=
  let any (k : EvKind → Bool) (q : TEvent → Bool) (m : Nat) : Bool := evs.any fun f => k f.kind && q f && tooNear f e m
  let near (q : TEvent → Bool) (m : Nat) : Bool := evs.any fun f => f.kind.grain && q f && tooNearGrain f e m
  let bank := fun f => TEvent.sameBank f e
  let group := fun f => TEvent.sameGroup f e
  let wend := p.tWL + p.tBURST
  if e.kind.grain && any (· == .a) bank p.tRCD then some 1
  else if e.kind == .p && any (· == .a) bank p.tRAS then some 2
  else if e.kind == .a && any (· == .a) bank p.tRC then some 3
  else if (e.kind == .a || e.kind == .f) && any (· == .p) bank p.tRP then some 4
  else if e.kind == .fa && any (· == .p) (fun _ => true) p.tRP then some 5
  else if e.kind == .a && any (· == .a) (fun f => group f && !bank f) p.tRRDL then some 6
  else if e.kind == .a && any (· == .a) (fun f => !group f) p.tRRDS then some 7
  else if e.kind == .a && (fourthA evs).any (fun f => tooNear f e p.tFAW) then some 8
  else if e.kind.grain && near group p.tCCDL then some 9
  else if e.kind.grain && near (fun f => !group f) p.tCCDS then some 10
  else if e.kind == .p && any (· == .rg) bank p.tRTP then some 11
  else if e.kind == .p && any (· == .wg) bank (wend + p.tWR) then some 12
  else if e.kind == .rg && any (· == .wg) group (wend + p.tWTRL) then some 13
  else if e.kind == .rg && any (· == .wg) (fun f => !group f) (wend + p.tWTRS) then some 14
  else if e.kind == .wg && any (· == .rg) (fun _ => true) p.tRTW then some 15
  else if e.kind == .a && any (· == .f) bank p.tRFCpb then some 16
  else if (e.kind == .f && any (· == .f) (fun _ => true) p.tPBR2PBR)
      || (e.kind == .fa && any (· == .f) (fun _ => true) p.tRFCpb) then some 17
  else if any (· == .fa) (fun _ => true) p.tRFCab then some 18
  else none

/-- The bank-state rules of R60 on the nominal timeline. -/
def stateBroken (rows : SMap Nat) (e : TEvent) : Option Nat :=
  let row := SMap.find rows (bankNo e.sid e.bg e.bank)
  match e.kind with
  | .a => if row.isSome then some 20 else none
  | .rg | .wg =>
    match row with
    | none => some 21
    | some r => if r == e.row then none else some 22
  | .f => if row.isSome then some 23 else none
  | .fa => if rows.isEmpty then none else some 23
  | .p => none

/-- The first TIMING code of a command's events, in order (R61). -/
def timingFault (p : Config.Profile) (rows : SMap Nat) (evs : List TEvent) : List TEvent → Option Nat
  | [] => none
  | e :: es =>
    match stateBroken rows e with
    | some c => some c
    | none =>
      match ruleBroken p evs e with
      | some c => some c
      | none => timingFault p rows evs es

/-- The nominal bank state after an event (R61). -/
def recordRow (rows : SMap Nat) (e : TEvent) : SMap Nat :=
  match e.kind with
  | .a => SMap.set rows (bankNo e.sid e.bg e.bank) e.row
  | .p => SMap.erase rows (bankNo e.sid e.bg e.bank)
  | _ => rows

/-- Ticks after which an event matters to no rule: the longest minimum of R57. -/
def eventSpan : Nat := 560

/-! ### Issue (R61) -/

/-- A command as the sequencer takes it. -/
structure CmdIn where
  instr : Instr
  f : MemF
  key : Nat
  sid : Nat
  x : Word
  target : Place
  fmt : Word
  data : List Byte
  poison : List Nat
  late : List Nat
  meter : Option Nat
  deriving DecidableEq, Repr

/-- The `n` grain events of a command (R58). -/
def grainEvents (kind : EvKind) (sid : Nat) (x : Word) (n t : Nat) : List TEvent :=
  (List.range n).map fun k => ⟨kind, sid, vaBg x, vaBank x, vaRow x, t + 4 * k⟩

/-- First column and number of grains of a read's footprint (R72). -/
def footprint (col n : Nat) : Nat × Nat := (col / 2 * 2, (col + n + 1) / 2 * 2 - col / 2 * 2)

/-- Nominal tick of a command (R58). -/
def State.nominalOf (s : State) (c : CmdIn) : Nat := (s.pcAt c.key).nominal + c.f.delta.toNat

/-- The timing checks of a command: Δ, bank state, minimum rules (R58 to R61). -/
def State.timingOf (s : State) (c : CmdIn) (mk : Nat → List TEvent) : Option Nat :=
  let p := s.pcAt c.key
  if c.f.delta == 0 then some 24
  else timingFault (Config.profile ((s.wg.map (·.mprof)).getD 0x47)) p.openRow p.events (mk (s.nominalOf c))

/-- Accept a command: bank state, events, Nominal and the queue (R61). -/
def State.accept (s : State) (c : CmdIn) (mk : Nat → List TEvent) : State :=
  let p := s.pcAt c.key
  let t := s.nominalOf c
  let cmd : Cmd :=
    { info := s.newInfo clsD (s.syncPtr c.f.sync), instr := c.instr, sid := c.sid, bg := vaBg c.x, bank := vaBank c.x,
      row := vaRow c.x, col := vaCol c.x, n := c.f.cnt.toNat + 1, delta := c.f.delta.toNat, va := c.x, target := c.target,
      fmt := c.fmt, data := c.data, poison := c.poison, late := c.late, meter := c.meter, issued := s.tick }
  s.bumpId.setPc c.key { p with
    nominal := t
    openRow := (mk t).foldl recordRow p.openRow
    events := (p.events ++ mk t).filter fun e => t ≤ e.tick + eventSpan
    queue := p.queue ++ [cmd] }

/-- The queue of 64 commands is full, or a fence holds the command back: the checks are made when neither does (R26, R61, R306). -/
def State.commandHeld (s : State) (x : Word) : Bool :=
  s.asks ((s.queueOf x).any fun key => 64 ≤ (s.pcAt key).queue.length) || s.fenceHolds clsD

/-- A row command: `needSid` unless it acts on the whole PC; `colByte` for `mact`'s zero fields (R66, R67). -/
def rowCommand (s : State) (i : Instr) (f : MemF) (needSid colByte : Bool) (mk : Pc → Nat → Nat → List TEvent) : Out State :=
  let x := s.src f.x
  if s.commandHeld x then s.block
  else match s.window x needSid with
  | .error e => s.fault e
  | .ok w =>
    if colByte && (vaCol x != 0 || vaByte x != 0) then s.fault cAlign
    else
      let c : CmdIn := ⟨i, f, w.2.1, w.2.2, x, .none, 0, [], [], [], none⟩
      match s.timingOf c (mk (s.pcAt w.2.1) w.2.2) with
      | some code => s.faultD cTiming code
      | none => (s.accept c (mk (s.pcAt w.2.1) w.2.2)).ok

/-- One event of the addressed bank. -/
def oneEvent (kind : EvKind) (sid : Nat) (x : Word) (t : Nat) : TEvent := ⟨kind, sid, vaBg x, vaBank x, vaRow x, t⟩

/-- mact: open a row (R69). -/
def execMact (f : MemF) (s : State) : Out State :=
  rowCommand s (.mact f) f true true fun _ sid t => [oneEvent .a sid (s.src f.x) t]

/-- mpre: close a bank; a P to a closed bank sets no event (R60, R70). -/
def execMpre (f : MemF) (s : State) : Out State :=
  let x := s.src f.x
  rowCommand s (.mpre f) f true false fun p sid t =>
    if (SMap.find p.openRow (bankNo sid (vaBg x) (vaBank x))).isSome then [oneEvent .p sid x t] else []

/-- mprea: close every bank that is open on the nominal timeline (R70). -/
def execMprea (f : MemF) (s : State) : Out State :=
  rowCommand s (.mprea f) f false false fun p _ t =>
    p.openRow.map fun r => ⟨.p, bankSid r.1, bankBg r.1, r.1 % 4, r.2, t⟩

/-- mref: refresh a bank (R71). -/
def execMref (f : MemF) (s : State) : Out State :=
  rowCommand s (.mref f) f true false fun _ sid t => [oneEvent .f sid (s.src f.x) t]

/-- mrefa: refresh every bank of the PC (R71). -/
def execMrefa (f : MemF) (s : State) : Out State :=
  rowCommand s (.mrefa f) f false false fun _ _ t => [oneEvent .fa 0 0 t]

/-- mnop: a tick without an event (R78). -/
def execMnop (f : MemF) (s : State) : Out State := rowCommand s (.mnop f) f false false fun _ _ _ => []

/-! ### Reads and writes (R72 to R76) -/

/-- Step 5 of R67 and METER of R367 and step 6, for `mrd`, `mrdt` (`write` false) and `mwr`. -/
def dataFault (s : State) (c : Chan) (f : MemF) (x : Word) (write : Bool) : Option Nat :=
  let n := f.cnt.toNat + 1
  if vaByte x != 0 || (write && (vaCol x % 2 != 0 || n % 2 != 0)) || 16 < vaCol x + n then some cAlign
  else if (SMap.find c.metered (vaSlot x)).isSome && (write || (s.worldAt s.strand.world).test) then some cMeter
  else if s.syncMissing f.sync then some cSpace
  else none

/-- A ring that a read lands in: core, ring (R72, R73). -/
def State.ringTarget (s : State) (y : Word) : Option (Nat × Nat) :=
  match ringPtr y with
  | some q => some (s.cur.core, q)
  | none =>
    match clusterRingPtr y with
    | some p => (s.wg.bind fun w => w.coreOf p.1).map fun c => (c, p.2)
    | none => none

/-- Element bits of an `mrdt` payload by element code (R75). -/
def mrdtBits (elem : Nat) : Nat :=
  match elem with
  | 1 | 2 | 5 => 8
  | 3 | 4 => 4
  | 6 | 7 => 16
  | _ => 0

/-- The count, column and alignment rules of R75 for a payload at a byte offset; a ring slot has offset 0. -/
def mrdtAligned (bits off col n : Nat) : Bool :=
  match bits with
  | 8 => n == 16 && col == 0 && off % 1024 == 0
  | 4 => n == 8 && (col == 0 || col == 8) && off % 512 == 0
  | _ => n == 16 && col == 0 && (off % 2048 == 0 || off % 2048 == 32)

/-- Whether the ring has no permit that the syllable may take. -/
def State.noPermit (s : State) (c q : Nat) : Bool := s.asks (s.permitsOf c q == 0)

/-- The target of a read is a ring in use without a permit, so that the bundle blocks (R72; log 12, DEDUCED). -/
def State.landingFull (s : State) (y : Word) : Bool :=
  (Word.space y == 5 || Word.space y == 7) && (match s.ringTarget y with
    | some t =>
      let r := (s.coreAt t.1).ring t.2
      r.configured && ringSizeCode r.desc != 0 && s.noPermit t.1 t.2
    | none => false)

/-- The source of a write is a ring in use without a token, so that the bundle blocks (R76; log 12, DEDUCED). -/
def State.sourceEmpty (s : State) (y : Word) : Bool :=
  Word.space y == 5 && (match ringPtr y with
    | some q =>
      let r := s.core.ring q
      r.configured && ringSizeCode r.desc != 0 && s.asks (s.tokensOf s.cur.core q == 0)
    | none => false)

/-- The landing target of a read and its bank's format, or why it has none (R72, R75). The slot of a ring target is filled in when it is taken. A space-4 target must name the first byte of an even record: a byte within it other than 0 is ALIGN (log 77, DESIGN CHOICE). -/
def State.landing (s : State) (transpose : Bool) (y : Word) (col n : Nat) : Except Nat (Place × Word) :=
  match Word.space y with
  | 1 | 2 =>
    match s.resolve y with
    | none => .error cSpace
    | some p =>
      let fmt := (s.coreAt p.1).fmt (bankOf p.2)
      let bits := mrdtBits (bfmtElem fmt)
      let off := p.2 % 65536
      if !bfmtValid fmt || (transpose && bits == 0) then .error cBank
      else if transpose then
        (if mrdtAligned bits off col n then .ok (.spad p.1 (bankOf p.2) off, fmt) else .error cAlign)
      else if off % 64 != 0 || 65536 < off + 64 * n then .error cAlign
      else .ok (.spad p.1 (bankOf p.2) off, fmt)
  | 4 =>
    match scalePtr y with
    | none => .error cSpace
    | some p =>
      if !bfmtValid (s.core.fmt p.1) then .error cBank
      else if p.2 % 64 != 0 || 4096 < p.2 + 64 * n then .error cAlign
      else .ok (.scale s.cur.core p.1 p.2, s.core.fmt p.1)
  | 5 | 7 =>
    match s.ringTarget y with
    | none => .error cSpace
    | some t =>
      let r := (s.coreAt t.1).ring t.2
      let fmt := (s.coreAt t.1).fmt (ringBank r.desc)
      let bits := mrdtBits (bfmtElem fmt)
      if !r.configured || ringSizeCode r.desc == 0 then .error cRing
      else if !bfmtValid fmt || (transpose && bits == 0) then .error cBank
      else if ringSlot r.desc < 64 * n || (transpose && bits == 16) then .error cRing
      else if transpose && !mrdtAligned bits 0 col n then .error cAlign
      else .ok (.ring t.1 t.2 r.tail, fmt)
  | _ => .error cSpace

/-- A read (R72 to R75). -/
def readCommand (s : State) (i : Instr) (f : MemF) (transpose : Bool) : Out State :=
  let x := s.src f.x
  let n := f.cnt.toNat + 1
  if s.commandHeld x || s.landingFull (s.src f.y) then s.block
  else match s.window x true with
  | .error e => s.fault e
  | .ok w =>
    match dataFault s w.1 f x false with
      | some e => s.fault e
      | none =>
        match s.landing transpose (s.src f.y) (vaCol x) n with
        | .error e => s.fault e
        | .ok t =>
          let mk := grainEvents .rg w.2.2 x (footprint (vaCol x) n).2
          let c : CmdIn := ⟨i, f, w.2.1, w.2.2, x, t.1, t.2, [], [], [], SMap.find w.1.metered (vaSlot x)⟩
          match s.timingOf c mk with
            | some code => s.faultD cTiming code
            | none =>
              match t.1 with
              | .ring core q _ => ((s.accept c mk).modCore core fun k => k.setRing q ((k.ring q).takeTail 1 false)).ok
              | _ => (s.accept c mk).ok

/-- mrd: read grains (R72 to R74). -/
def execMrd (f : MemF) (s : State) : Out State := readCommand s (.mrd f) f false

/-- mrdt: transposing read (R75). -/
def execMrdt (f : MemF) (s : State) : Out State := readCommand s (.mrdt f) f true

/-- The source of a write: core, lines and, for a ring, its number, with its place (R76). -/
def State.writeSource (s : State) (y : Word) (n : Nat) : Except Nat (Nat × (Nat → Nat) × Option Nat × Place) :=
  match Word.space y with
  | 1 | 2 =>
    match s.resolve y with
    | none => .error cSpace
    | some p =>
      if !bfmtValid ((s.coreAt p.1).fmt (bankOf p.2)) then .error cBank
      else if p.2 % 64 != 0 || 65536 < p.2 % 65536 + 64 * n then .error cAlign
      else .ok (p.1, runSpad p.2, none, .spad p.1 (bankOf p.2) (p.2 % 65536))
  | 5 =>
    match ringPtr y with
    | none => .error cSpace
    | some q =>
      let r := s.core.ring q
      if !r.configured || ringSizeCode r.desc == 0 then .error cRing
      else if !bfmtValid (s.core.fmt (ringBank r.desc)) then .error cBank
      else if ringSlot r.desc < 64 * n then .error cRing
      else .ok (s.cur.core, runSlot r.desc r.head, some q, .ring s.cur.core q r.head)
  | _ => .error cSpace

/-- The banks of a write's source have positions of the class that reads them: C for the own core's, R for another's (R76, R140). -/
def State.sourceServed (s : State) (p : Place) : Bool :=
  match p with
  | .spad c b _ => (s.coreAt c).serves b (if c == s.cur.core then 3 else 4)
  | .ring c q _ =>
    let d := ((s.coreAt c).ring q).desc
    (List.range (ringStripe d)).all fun i => (s.coreAt c).serves (ringBank d + i) 3
  | _ => true

/-- mwr: write grains; the source is read, and a ring's permit given back, at issue (R76). The bundle is held while a bank of the source has no position for that read; which position of the issue cycle it takes is not modelled (R140; log 95, DESIGN CHOICE). POISON of poisoned source lines alone is raised as their lines commit (log 28, DEDUCED). -/
def execMwr (f : MemF) (s : State) : Out State :=
  let x := s.src f.x
  let n := f.cnt.toNat + 1
  if s.commandHeld x || s.sourceEmpty (s.src f.y) then s.block
  else match s.window x true with
  | .error e => s.fault e
  | .ok w =>
    match dataFault s w.1 f x true with
      | some e => s.fault e
      | none =>
        match s.writeSource (s.src f.y) n with
        | .error e => s.fault e
        | .ok src =>
          if s.asks (!s.sourceServed src.2.2.2) then s.block
          else
          let mk := grainEvents .wg w.2.2 x n
          let r := s.readRun src.1 s.strand.world (s.coreAt src.1).vctl src.2.1 0 n
          let plain := r.flags.all fun g => g.detail == 0
          let c : CmdIn := ⟨.mwr f, f, w.2.1, w.2.2, x, src.2.2.2, 0, r.bytes, r.bad, if plain then r.bad else [], none⟩
          match s.timingOf c mk with
          | some code => s.faultD cTiming code
          | none =>
            let s1 := (r.state.accept c mk).reportFlags s.cur.core s.cur.strand (if plain then [] else r.flags)
            match src.2.2.1 with
            | some q => (s1.consume s.cur.core q 1 true).ok
            | none => s1.ok

end Sys2Proof.Machine
end

