-- ==== Sys2Proof/Machine/Sync.lean ====
section
/-! DEFINITION. Phases, fences and instruction refetch (R316 to R321, R325). -/

namespace Sys2Proof.Machine

open Sys2Proof

/-- Numbers of the strand's accesses of the classes of a mask that are not performed yet (R306, R319). -/
def State.unperformed (s : State) (c t : Nat) (mask : BitVec 7) : List Nat :=
  ((s.infosOf c t).filter fun i => i.1 < 7 && mask.getLsbD i.1).map (·.2.id)
    ++ (if mask.getLsbD clsV then (s.strandAt c t).storeIds else [])

/-- phase: the strand arrives and blocks until the boundary passes (R316, R317). -/
def execPhase (s : State) : Out State :=
  let st := s.strand
  if st.released then
    State.retire (s.putStrand { st with released := false, phasen := ((s.wg.map (·.boundary)).getD 0) % 2 ^ 64 })
  else (s.putStrand { st with arrived := true, notified := false }).block

/-- xfence: accesses of the from-classes issued in earlier bundles come before later ones of the to-classes; the syllables of its own bundle are left out (R319). -/
def execXfence (src dst : BitVec 7) (s : State) : Out State :=
  let f : Fence := { waits := (s.unperformed s.cur.core s.cur.strand src).filter (· < s.cur.firstId), dst := dst }
  let st := s.strand
  State.retire (s.putStrand { st with fences := (st.fences.filter fun g => g.waits.any s.inFlight) ++ [f] })

/-- ifence: the core's instruction buffer is emptied (R321). -/
def execIfence (s : State) : Out State := State.retire (s.putCore { s.core with ibuf := [] })

/-- The workgroup takes the translation in force for its world, and so, at its boundary, do fabric targets (R82, R317, R325; log 14, DESIGN CHOICE). -/
def State.freshView (s : State) (wg : Nat) : State :=
  match s.wgAt wg with
  | none => s
  | some w =>
    (s.modWorld w.world fun x => { x with fabView := x.live }).modWg wg fun w => { w with view := (s.worldAt w.world).live, stale := false }

/-- The strands of a workgroup: core, strand number, strand. -/
def State.strandsOf (s : State) (w : Workgroup) : List (Nat × Nat × Strand) :=
  w.cores.flatMap fun c => (s.coreAt c).strands.map fun p => (c, p.1, p.2)

/-- Every present strand that has not finished has arrived, and what each arrived strand issued before is performed (R316). -/
def State.boundaryDue (s : State) (w : Workgroup) : Bool :=
  let ts := (s.strandsOf w).filter fun p => p.2.2.status != .absent && p.2.2.status != .finished
  !ts.isEmpty && ts.all fun p => p.2.2.arrived && (s.unperformed p.1 p.2.1 (BitVec.allOnes 7)).isEmpty

/-- PHASE_BOUNDARY: the workgroup passes its boundary (R316, R317). A workgroup that a seal has stopped passes none (R318). -/
def execPhaseBoundary (wg : Nat) (s : State) : Out State :=
  match s.wgAt wg with
  | none => .next s
  | some w =>
    let live : Bool := match w.state with
      | .running => true
      | .sealing => !s.sealStopped wg
      | _ => false
    if live && s.boundaryDue w then
      let s1 := (s.strandsOf w).foldl (fun s p => s.modStrandAt p.1 p.2.1 fun st =>
        if st.arrived then { st with arrived := false, released := true } else st) s
      .next ((s1.modWg wg fun w => { w with boundary := w.boundary + 1 }).freshView wg)
    else .next s

end Sys2Proof.Machine
end

