-- ==== Sys2Proof/Machine/System.lean ====
section
/-! DEFINITION. Containment regions, software faults, shadow comparison and the system registers (R25, R39, R40, R52, R86, R141, R154, R199, R202, R238, R324, R328, R335 to R340, R344, R348). -/

namespace Sys2Proof.Machine

open Sys2Proof

/-! ### Regions, traps, breakpoints, shadows -/

/-- cropen: a region opens, and the other syllables of its bundle belong to it (R335). -/
def execCropen (mask : BitVec 8) (off : BitVec 16) (s : State) : Out State :=
  let st := s.strand
  if 4 ≤ st.regions.length then s.fault cCrdepth
  else
    (s.putStrand { st with regions := { mask := mask, handler := relTarget s.cur.pc off, firstId := s.cur.firstId } :: st.regions }).retire

/-- crclose: the innermost region closes (R336). -/
def execCrclose (s : State) : Out State :=
  let st := s.strand
  match st.regions with
  | [] => s.fault cCrdepth
  | _ :: outer => (s.putStrand { st with regions := outer }).retire

/-- cmpd: columns are compared one by one with their shadows (R340). -/
def execCmpd (reg : R5) (mask : BitVec 8) (s : State) : Out State :=
  let f : Flight :=
    { t := s.strand.ctime, instr := .cmpd reg mask, c0 := 0, cols := 8, dcols := 0, lat := 0, s := 0, u := 0, a := 0, b := 0, c := 0,
      em := 0, cm := 0, sc := 0, seen := 0, emFixed := false, block := [], record := [], recBad := false, flags := [], fmt := 0, opId := 0 }
  (s.putStrand (s.strand.hold ⟨.vector f, false, s.cur.arrive⟩)).ok

/-- trap: the precise fault TRAP with the immediate as DETAIL (R337). -/
def execTrap (imm : BitVec 16) (s : State) : Out State := s.faultD cTrap imm.toNat

/-- The debug event of R338. -/
def debugEvent (w : Workgroup) (k : Core) (t : Nat) (imm : BitVec 16) (restored : Bool) (pc : Word) (ctime : Nat) : List Byte :=
  leBytes 2 (w.index % 1024 * 64 + k.rank * 4 + t) ++ leBytes 2 imm.toNat ++ leBytes 4 (if restored then 1 else 0)
    ++ leBytes 8 pc.toNat ++ leBytes 8 ctime ++ leBytes 8 w.seq

/-- brk: with the world's debug enable set the strand halts and a debug event is posted; while the workgroup is being sealed the event is kept for the unseal (R338, R354; log 25, DEDUCED). -/
def execBrk (imm : BitVec 16) (s : State) : Out State :=
  let st := s.strand
  if !(s.worldAt st.world).debug then s.retire
  else
    match s.wg with
    | none => s.retire
    | some w =>
      if w.state = .sealing then
        (s.putStrand { st with status := .halted, debugUnposted := some (imm, s.cur.pc, st.ctime) }).retire
      else
        ((s.putStrand { st with status := .halted }).modWorld st.world fun x =>
          { x with debugQueue := x.debugQueue ++ [debugEvent w s.core s.cur.strand imm false s.cur.pc st.ctime] }).retire

/-! ### System register values -/

/-- REPC (R202). -/
def Strand.repc (st : Strand) : Word :=
  word ((if st.repActive then 2 ^ 32 else 0) + st.repCount % 64 * 2 ^ 26 + st.repIndex % 64 * 2 ^ 20 + st.repStep.toNat)

/-- LC: entry 0 is the outermost (R199). -/
def Strand.lcWord (st : Strand) : Word :=
  word (st.lc.length * 2 ^ 62 + (st.lc.reverse.zipIdx.foldl (fun n e => n + e.1.count % 2 ^ 20 * 2 ^ (20 * e.2)) 0))

/-- CHMAP (R52). -/
def State.chmap (s : State) : Word :=
  match s.wg with
  | none => 0
  | some w =>
    let own := (w.window.filter fun ch => ch.rank == s.core.rank && ch.strand == s.cur.strand).map (·.lchan)
    word ((if w.remap then 2 ^ 32 else 0) + w.window.length * 2 ^ 25 + own.length * 2 ^ 18
      + own.foldl Nat.max 0 * 2 ^ 9 + (match own with
        | [] => 0
        | x :: xs => xs.foldl Nat.min x))

/-- MCAP (R86). -/
def State.mcap (s : State) : Word :=
  let gone (st pc : Nat) : Nat := (s.goneSlices.filter fun g => g.1 == st && g.2.1 == pc).length
  let withGone := (List.range 8).foldl (fun n k => n + if (List.range 64).any (fun pc => gone k pc < 4) then 2 ^ k else 0) 0
  let slices := 1792 - (s.goneSlices.filter fun g => g.2.1 < 56).length
  let pcs := ((List.range 8).map fun k => ((List.range 56).filter fun pc => gone k pc < 4).length).foldl (· + ·) 0
  word (s.mcapEvents % 65536 * 2 ^ 48 + withGone * 2 ^ 40 + slices * 2 ^ 16 + pcs)

/-- XPEND: workgroups of the world last named that still use a replaced translation (R324, R325). -/
def State.xpend (s : State) : Word :=
  word (s.pendingViews s.xinvWorld % 65536)

/-- The value of a system register (R39, R40). -/
def State.sysReg (s : State) (i : Nat) : Word :=
  let st := s.strand
  let k := s.core
  if i == 0x000 then word st.ctime
  else if i == 0x001 then word st.strandId
  else if i == 0x002 then word st.world
  else if i == 0x003 then word st.phasen
  else if i == 0x004 then st.repc
  else if i == 0x005 then st.lcWord
  else if 0x010 ≤ i && i ≤ 0x01F then k.fmt (i - 0x010)
  else if 0x020 ≤ i && i ≤ 0x02F then k.wheel (i - 0x020)
  else if i == 0x030 then word ((s.wg.map (·.mprof)).getD 0x47)
  else if i == 0x031 then s.chmap
  else if i == 0x040 then st.fault
  else if i == 0x041 then st.faddr
  else if i == 0x042 then st.fcount
  else if i == 0x060 then k.mg
  else if 0x070 ≤ i && i ≤ 0x07F then SMap.get st.sync 0 (i - 0x070)
  else if i == 0x080 then k.vctl
  else if i == 0x820 then s.mcap
  else if i == 0x829 then s.xpend
  else if i == 0x830 then s.elogBase
  else if i == 0x831 then s.elogHead
  else if i == 0x832 then s.elogTail
  else if i == 0x833 then (if s.elogOvf then word (2 ^ 63) else 0)
  else if i == 0x834 then s.eseq
  else if 0x840 ≤ i && i ≤ 0x847 then SMap.get s.ecnt 0 (i - 0x840)
  else 0

/-- The PRIV faults of R25 and R40. -/
def State.sysPriv (s : State) (i : Nat) : Bool :=
  (0x800 ≤ i && s.strand.world != 0) || (i == 0x080 && !(s.worldAt s.strand.world).test)

/-- sysr: the value at issue lands one cycle later (R339). -/
def execSysr (d : R5) (idx : BitVec 12) (s : State) : Out State :=
  if s.sysPriv idx.toNat then s.fault cPriv else s.result d 1 (s.sysReg idx.toNat)

/-! ### System register writes -/

/-- Registers whose writes have no row of their own; zero fields stay zero, and unlisted supervisor indices ignore the write (R7, R40, R105, R328, R344). -/
def State.sysSet (s : State) (i : Nat) (v : Word) : State :=
  if 0x010 ≤ i && i ≤ 0x01F then s.putCore { s.core with bfmt := SMap.set s.core.bfmt (i - 0x010) (v &&& 0xFFFFFFFC) }
  else if i == 0x040 then s.putStrand { s.strand with fault := v &&& 0xE0FFE0FFFFFFFFFF }
  else if i == 0x041 then s.putStrand { s.strand with faddr := v }
  else if i == 0x042 then s.putStrand { s.strand with fcount := v }
  else if i == 0x830 then { s with elogBase := v }
  else if i == 0x832 then { s with elogTail := v }
  else s

/-- sysw (R339). -/
def execSysw (src : R5) (idx : BitVec 12) (s : State) : Out State :=
  if s.sysPriv idx.toNat then s.fault cPriv else (s.sysSet idx.toNat (s.src src)).retire

/-- A SYNC register of some strand of the workgroup points into bank `k` of the core being issued (R141). -/
def State.syncInto (s : State) (k : Nat) : Bool :=
  match s.wg with
  | none => false
  | some w => (s.strandsOf w).any fun p => p.2.2.sync.any fun q =>
      q.2 != 0 && (match spadPtr q.2 with
        | none => false
        | some a =>
          (match a.rank with
            | none => p.1 == s.cur.core
            | some r => w.coreOf r == some s.cur.core) && bankOf a.addr == k)

/-- sysw to BWHEEL[k] (R40, R141). -/
def execBwheelWrite (src : R5) (k : BitVec 4) (s : State) : Out State :=
  let v := s.src src &&& 0xFFFFFFFFFFFF
  if !wheelOk v || (!wheelHasWindow v && s.syncInto k.toNat) then s.fault cWheel
  else (s.putCore { s.core with bwheel := SMap.set s.core.bwheel k.toNat v }).retire

/-- sysw to SYNC[k] (R138, R154). -/
def execSyncRegisterWrite (src : R5) (k : BitVec 4) (s : State) : Out State :=
  let v := s.src src
  let put : Out State := (s.putStrand { s.strand with sync := SMap.set s.strand.sync k.toNat v }).retire
  if v == 0 then put
  else match s.resolve v with
    | none => s.fault cSpace
    | some a =>
      if a.2 % 16 != 0 then s.fault cAlign
      else if !wheelHasWindow ((s.coreAt a.1).wheel (bankOf a.2)) then s.fault cWheel
      else put

/-- sysw to REPC: with A set it is a taken transfer to the repeat address; bits 15 to 17 of STEP stay zero (R7, R202, R203). -/
def execRepcWrite (src : R5) (s : State) : Out State :=
  let v := s.src src
  let st := s.strand
  let st1 := { st with repActive := v.getLsbD 32, repCount := Word.field v 26 6, repIndex := Word.field v 20 6, repStep := (v.extractLsb' 0 15).setWidth 18 }
  if Word.field v 26 6 < Word.field v 20 6 then s.fault cIlleg
  else if v.getLsbD 32 then
    match st.repAddr with
    | none => s.fault cIlleg
    | some a =>
      match s.targetFault s.cur.core a with
      | some e => s.targetFails e a.toNat
      | none => State.retire { s.putStrand st1 with cur := { s.cur with taken := some a } }
  else (s.putStrand st1).retire

/-- The counts of the entries that stay, innermost first, from a written LC (R199). -/
def lcCounts (v : Word) (lc : List LoopEntry) : List LoopEntry :=
  (lc.reverse.zipIdx.map fun e => { e.1 with count := Word.field v (20 * e.2) 20 }).reverse

/-- sysw to LC: DEPTH may fall, never rise (R199). -/
def execLcWrite (src : R5) (s : State) : Out State :=
  let v := s.src src
  let st := s.strand
  let depth := Word.field v 62 2
  if st.lc.length < depth then s.fault cSched
  else (s.putStrand { st with lc := lcCounts v (st.lc.drop (st.lc.length - depth)) }).retire

/-- sysw to MG (R238). -/
def execMgWrite (src : R5) (s : State) : Out State :=
  let v := s.src src
  if !mgOk v then s.fault cIlleg else (s.putCore { s.core with mg := v }).retire

/-- sysw to VCTL: event numbering restarts at 1 (R348, R349). -/
def execVctlWrite (src : R5) (s : State) : Out State :=
  let v := s.src src
  if s.sysPriv 0x080 then s.fault cPriv
  else if 5 < vctlTgt v || Word.field v 32 20 != 0 || (vctlTgt v == 5 && Word.field v 24 8 != 0) then s.fault cIlleg
  else (s.putCore { s.core with vctl := v, vctlEvent := 1 }).retire

/-- A well-formed translation request; one of no kind that carries an INDEX is ignored too (R324; log 108, DESIGN CHOICE). -/
def xinvOk (v : Word) : Bool :=
  Word.field v 60 2 == 0 && Word.field v 31 25 == 0
    && (match Word.field v 62 2 with
      | 1 => true
      | 2 => Word.field v 11 20 == 0
      | _ => Word.field v 0 31 == 0)

/-- sysw to XINV: the running workgroups of the world are to take the new translation at their next boundary (R324, R325). -/
def execXinvWrite (src : R5) (s : State) : Out State :=
  let v := s.src src
  if s.sysPriv 0x828 then s.fault cPriv
  else if !xinvOk v then s.retire
  else
    let w := Word.field v 56 4
    let s1 := match Word.field v 62 2 with
      | 1 => s.invalidate w fun page => page == Word.field v 0 31
      | 3 => s.invalidate w fun _ => true
      | _ => s
    State.retire { s1 with
      xinvWorld := w
      wgs := s1.wgs.map fun g => if g.world == w && g.state != .sealed && Word.field v 62 2 != 0 then { g with stale := true } else g }

/-- sysw to ESTAT: OVF is written 1 to clear (R344). -/
def execEstatWrite (src : R5) (s : State) : Out State :=
  if s.sysPriv 0x833 then s.fault cPriv
  else State.retire { s with elogOvf := s.elogOvf && !(s.src src).getLsbD 63 }

end Sys2Proof.Machine
end

