-- ==== Sys2Proof/Machine/Sha.lean ====
section
/-! DEFINITION. SHA-256 (FIPS 180-4), by which kernels are measured and statements chained (R281, R369). Numbers are packed most significant word first, as the standard prints them. -/

namespace Sys2Proof.Machine

open Sys2Proof

/-- The bytes of a number, most significant first. -/
def beBytes : Nat → Nat → List Byte
  | 0, _ => []
  | n + 1, v => beBytes n (v / 256) ++ [BitVec.ofNat 8 v]

/-- The number that bytes write, most significant first. -/
def beNat (b : List Byte) : Nat := b.foldl (fun n x => n * 256 + x.toNat) 0

/-- The `n` words packed in a number. -/
def packedWords : Nat → Nat → List (BitVec 32)
  | 0, _ => []
  | n + 1, v => packedWords n (v / 2 ^ 32) ++ [BitVec.ofNat 32 v]

/-- The number that packs words. -/
def packWords (ws : List (BitVec 32)) : Nat := ws.foldl (fun n w => n * 2 ^ 32 + w.toNat) 0

/-- The 64 constants of the rounds, eight to a number. -/
def shaTable : List Nat :=
  [0x428a2f9871374491b5c0fbcfe9b5dba53956c25b59f111f1923f82a4ab1c5ed5,
   0xd807aa9812835b01243185be550c7dc372be5d7480deb1fe9bdc06a7c19bf174,
   0xe49b69c1efbe47860fc19dc6240ca1cc2de92c6f4a7484aa5cb0a9dc76f988da,
   0x983e5152a831c66db00327c8bf597fc7c6e00bf3d5a7914706ca635114292967,
   0x27b70a852e1b21384d2c6dfc53380d13650a7354766a0abb81c2c92e92722c85,
   0xa2bfe8a1a81a664bc24b8b70c76c51a3d192e819d6990624f40e3585106aa070,
   0x19a4c1161e376c082748774c34b0bcb5391c0cb34ed8aa4a5b9cca4f682e6ff3,
   0x748f82ee78a5636f84c878148cc7020890befffaa4506cebbef9a3f7c67178f2]

/-- The chaining value before the first block. -/
def shaStart : Nat := 0x6a09e667bb67ae853c6ef372a54ff53a510e527f9b05688c1f83d9ab5be0cd19

/-- The exclusive or of a word turned right by each count of a list. -/
def turned (x : BitVec 32) (counts : List Nat) : BitVec 32 := counts.foldl (fun y n => y ^^^ x.rotateRight n) 0

/-- One round: the eight working words go down by one place, the new first and fifth words from all of them. -/
def shaRound (v : List (BitVec 32)) (kw : BitVec 32) : List (BitVec 32) :=
  match v with
  | [a, b, c, d, e, f, g, h] =>
    let choice := g ^^^ (e &&& (f ^^^ g))
    let majority := (a &&& b) ||| (c &&& (a ||| b))
    let t := kw + h + choice + turned e [6, 11, 25]
    [t + majority + turned a [2, 13, 22], a, b, c, d + t, e, f, g]
  | other => other

/-- The rounds over a window of the sixteen next message words: each round takes the first and adds the word that follows the last. -/
def shaRounds (window : List (BitVec 32)) : List (BitVec 32) → List (BitVec 32) → List (BitVec 32)
  | [], v => v
  | k :: ks, v =>
    let w (i : Nat) := window.getD i 0
    let near := turned (w 14) [17, 19] ^^^ (w 14 >>> 10)
    let far := turned (w 1) [7, 18] ^^^ (w 1 >>> 3)
    shaRounds (window.drop 1 ++ [near + w 9 + far + w 0]) ks (shaRound v (k + w 0))

/-- A chaining value after one more block of 64 bytes. -/
def shaBlock (chain : Nat) (b : List Byte) : Nat :=
  let v := packedWords 8 chain
  packWords (List.zipWith (· + ·) v (shaRounds (packedWords 16 (beNat b)) (shaTable.flatMap (packedWords 8)) v))

/-- The chaining value after the next `n` blocks of a message. -/
def shaChain (chain : Nat) : Nat → List Byte → Nat
  | 0, _ => chain
  | n + 1, b => shaChain (shaBlock chain (b.take 64)) n (b.drop 64)

/-- SHA-256 of a message, the first byte of the value most significant: the message is closed by one set bit and its length in bits, at the end of a block. -/
def sha256 (m : List Byte) : BitVec 256 :=
  let blocks := (m.length + 72) / 64
  BitVec.ofNat 256 (shaChain shaStart blocks (m ++ 0x80 :: List.replicate (64 * blocks - m.length - 9) 0 ++ beBytes 8 (8 * m.length)))

/-- The 32 bytes of a hash value, in the order in which it is stored. -/
def hashBytes (d : BitVec 256) : List Byte := beBytes 32 d.toNat

/-- The value of 32 stored bytes. -/
def hashOf (b : List Byte) : BitVec 256 := BitVec.ofNat 256 (beNat b)

/-- HMAC-SHA-256 under a key of at most 64 bytes (RFC 2104). -/
def hmac256 (key m : List Byte) : List Byte :=
  let pad (x : Byte) : List Byte := (key ++ List.replicate (64 - key.length) 0).map (· ^^^ x)
  hashBytes (sha256 (pad 0x5C ++ hashBytes (sha256 (pad 0x36 ++ m))))

/-- HKDF-SHA-256 with 256 bits of output: extraction under the salt, and the first block of the expansion (RFC 5869; R361). -/
def hkdf256 (secret salt info : List Byte) : BitVec 256 := hashOf (hmac256 (hmac256 salt secret) (info ++ [1]))

end Sys2Proof.Machine
end

