-- ==== Sys2Proof/Machine/Keys.lean ====
section
/-! DEFINITION. The keys that the device holds and no program reads (R87, R102, R358, R361), the scrambler of the scratchpad (R88), and the frames that they protect (R102, R103). -/

namespace Sys2Proof.Machine

open Sys2Proof

/-! ### Keys by name, each by the number of the draw that gave it (R87, R358; log 7, DESIGN CHOICE) -/

/-- KS(w), of the scratchpad scrambler, drawn at the world's creation. -/
def keyKS (world born : Nat) : BitVec 256 := Config.key 0 world born
/-- KB(w), of the die bridge, drawn at the world's creation. -/
def keyKB (world born : Nat) : BitVec 256 := Config.key 1 world born
/-- KX1(w) and KX2(w), data and tweak key of the memory encryption, drawn at creation and at each rotation. -/
def keyKX1 (world gen : Nat) : BitVec 256 := Config.key 2 world gen
def keyKX2 (world gen : Nat) : BitVec 256 := Config.key 3 world gen
/-- KH(w), the GHASH key of the line MAC, 128 bits, and KM(w), its mask key. -/
def keyKH (world gen : Nat) : BitVec 128 := (Config.key 4 world gen).setWidth 128
def keyKM (world gen : Nat) : BitVec 256 := Config.key 5 world gen
/-- KC(w, e), of a checkpoint epoch, drawn at the epoch's first `cksave`. -/
def keyKC (world draw : Nat) : BitVec 256 := Config.key 6 world draw
/-- KT of a stack, drawn at boot, and the tree's GHASH key that the Lintel derives from it: the encryption of the zero block. -/
def keyKT (stack draw : Nat) : BitVec 256 := Config.key 7 stack draw
def keyKTh (stack draw : Nat) : BitVec 128 := Config.aes256 (keyKT stack draw) 0

/-! ### Keys shared with a peer (R102, R271, R361; log 7, DESIGN CHOICE for the bytes of the labels) -/

/-- The shared secret ss of a binding. -/
def LinkKey.secret (k : LinkKey) : List Byte := hashBytes (Config.key 8 k.world k.draw)

/-- The two device identities in ascending order. -/
def LinkKey.salt (k : LinkKey) : List Byte :=
  let p := Config.peerIdentity k.device
  if Config.deviceIdentity.toNat ≤ p.toNat then hashBytes Config.deviceIdentity ++ hashBytes p else hashBytes p ++ hashBytes Config.deviceIdentity

/-- KL(w, d) in use: derived from the shared secret with the label "link", the world and the peer's world, and replaced at each rekeying. -/
def keyKL (k : LinkKey) : BitVec 256 :=
  let k0 := hkdf256 k.secret k.salt [0x6C, 0x69, 0x6E, 0x6B, BitVec.ofNat 8 k.world, BitVec.ofNat 8 k.remote]
  if k.rekeys == 0 then k0 else Config.rekeyed k0 k.rekeys

/-- The pairwise key K(i, j) of a group's member on this device with the member on the bound device: derived with the label "sum", the group and the world, without a salt. -/
def groupKey (k : LinkKey) (group : Nat) : BitVec 256 :=
  hkdf256 k.secret [] [0x73, 0x75, 0x6D, BitVec.ofNat 8 group, BitVec.ofNat 8 k.world]

/-! ### The scrambler (R88) -/

/-- A line as its cells hold it: XORed with the mask of the owner world's KS, the core's rank, the bank and the line. -/
def Core.storedLine (k : Core) (born l : Nat) : BitVec 512 :=
  let m := k.line l
  BitVec.ofNat 512 (leNat (Memory.readN k.spad (l * 64) 64)) ^^^ Config.scramble (keyKS (m.tag % 16) born) k.rank (l / 1024) (l % 1024)

/-- The scrambler's read: the same mask takes it off again. -/
def Core.unmasked (k : Core) (born l : Nat) : BitVec 512 :=
  k.storedLine born l ^^^ Config.scramble (keyKS ((k.line l).tag % 16) born) k.rank (l / 1024) (l % 1024)

/-! ### Frames (R102, R103) -/

/-- A frame on the die bridge, under KB of the world that owns the traffic, where its two ends lie on different dies (R102, R257). -/
def State.crossBridge (s : State) (world from_ to_ : Nat) : State :=
  if from_ == to_ then s else { s with bridge := SMap.set s.bridge world (SMap.get s.bridge 0 world + 1) }

/-- Compute die of a core, a stack and a port (R257). -/
def dieOfCore (c : Nat) : Nat := c / 384
def dieOfStack (st : Nat) : Nat := st / 4
def dieOfPort (p : Nat) : Nat := if p < 16 then p / 8 else (p - 16) / 2

/-- The key of a world towards a device (R361). -/
def State.linkKey (s : State) (world dev : Nat) : Option LinkKey := s.linkKeys.find? fun k => k.world == world && k.device == dev

/-- A key after one more frame: it is replaced before its counter reaches 2^62 (R102). -/
def LinkKey.sent (k : LinkKey) : LinkKey := if k.frames + 1 < 2 ^ 62 then { k with frames := k.frames + 1 } else { k with rekeys := k.rekeys + 1, frames := 0 }

/-- A frame for a world goes out on the port to a device: requests, replies, acknowledgements and masked sums alike (R102). -/
def State.countFrame (s : State) (world dev : Nat) : State :=
  match SMap.find s.routes dev with
  | none => s
  | some p =>
    { s with
      ports := SMap.set s.ports p { SMap.get s.ports Port.reset p with frames := (SMap.get s.ports Port.reset p).frames + 1 }
      linkKeys := s.linkKeys.map fun k => if k.world == world && k.device == dev then k.sent else k }

/-- A frame that authenticates comes from a device: the port's run of failures ends (R103). -/
def State.frameOk (s : State) (dev : Nat) : State :=
  match SMap.find s.routes dev with
  | some p => { s with ports := SMap.set s.ports p { SMap.get s.ports Port.reset p with fails := 0 } }
  | none => s

end Sys2Proof.Machine
end

