-- ==== Sys2Proof/Machine/Copy.lean ====
section
/-! DEFINITION. The copy port (R121, R126, R129 to R131, R137, R162 to R167): issue of copies, fills and rescales, the read of a source and the completion of a copy. -/

namespace Sys2Proof.Machine

open Sys2Proof

/-! ### Sides of a copy -/

/-- A pointer's place before translation and before a slot is taken (R37, R138, R163 step 1). -/
def State.sidePlace (s : State) (p : Word) : Except Nat Place :=
  match Word.space p with
  | 0 => if Word.field p 56 4 != 0 then .error cSpace else .ok (.sys (p.toNat % 2 ^ 56))
  | 1 | 2 =>
    match s.resolve p with
    | some a => .ok (.spad a.1 (bankOf a.2) (a.2 % 65536))
    | none => .error cSpace
  | 4 =>
    match scalePtr p with
    | some a => .ok (.scale s.cur.core a.1 a.2)
    | none => .error cSpace
  | 5 | 7 =>
    match s.ringTarget p with
    | some t => .ok (.ring t.1 t.2 0)
    | none => .error cSpace
  | _ => .error cSpace

/-- The format that governs a side: system memory and records are raw (R121, R148). -/
def State.placeFmt (s : State) (p : Place) : Word :=
  match p with
  | .spad c b _ => (s.coreAt c).fmt b
  | .ring c q _ => (s.coreAt c).fmt (ringBank ((s.coreAt c).ring q).desc)
  | _ => 0

/-- The bank of a side has an invalid format (R107). -/
def State.placeBad (s : State) (p : Place) : Bool :=
  match p with
  | .scale c b _ => !bfmtValid ((s.coreAt c).fmt b)
  | p => !bfmtValid (s.placeFmt p)

/-- A system-window side translated, with the checks of R163 step 2; a destination may not hold measured code (R281; log 38, DESIGN CHOICE). -/
def State.placeSys (s : State) (p : Place) (len : Nat) (write : Bool) : Except Nat Place :=
  match p with
  | .sys va =>
    if va / 2 ^ 52 == 0 then .error cChown
    else if va / 2 ^ 52 != 1 || va % 2 ^ 52 / 2 ^ 39 != 0 then .error cXlate
    else if Config.pageBytes < va % Config.pageBytes + len then .error cAlign
    else match xlate (s.viewOf s.cur.core) va with
      | .error e => .error e
      | .ok a => if write && s.codeAt s.strand.world (pageOf va) (a / Config.pageBytes) then .error cPriv else .ok (.sys a)
  | p => .ok p

/-- R163 step 3: a bank range that does not start on a line or leaves its bank. -/
def rangeBad (p : Place) (len : Nat) : Bool :=
  match p with
  | .spad _ _ off => off % 64 != 0 || 65536 < off + len
  | .scale _ _ off => off % 64 != 0 || 4096 < off + len
  | _ => false

/-- R163 step 4: a ring that is not exactly one slot of the size. -/
def State.slotBad (s : State) (p : Place) (len : Nat) : Bool :=
  match p with
  | .ring c q _ =>
    let r := (s.coreAt c).ring q
    !r.configured || ringSizeCode r.desc == 0 || ringSlot r.desc != len
  | _ => false

/-- Byte offset that a tile must lie on, 0 for a ring slot (R122). -/
def placeOff (p : Place) : Nat :=
  match p with
  | .spad _ _ off => off
  | _ => 0

/-- The slot of a ring side: the head for a source, the tail for a destination. -/
def State.withSlot (s : State) (p : Place) (tail : Bool) : Place :=
  match p with
  | .ring c q _ => .ring c q (if tail then ((s.coreAt c).ring q).tail else ((s.coreAt c).ring q).head)
  | p => p

/-- The ring of a side blocks: no token at a source, no permit at a destination (R29, R163 step 4). -/
def State.sideBlocked (s : State) (p : Place) (tail : Bool) : Bool :=
  match p with
  | .ring c q _ => s.asks (if tail then s.permitsOf c q == 0 else s.tokensOf c q == 0)
  | _ => false

/-- Take the token of a ring source, whose permit returns when the slot has been read (R152), or the permit and tail slot of a ring destination (R150). -/
def State.takeSide (s : State) (p : Place) (tail : Bool) : State :=
  match p with
  | .ring c q _ => if tail then s.modCore c fun k => k.setRing q ((k.ring q).takeTail 1 false) else s.consume c q 1 false
  | _ => s

/-! ### Sizes (R164) -/

/-- Element width that a transposing copy moves: the other side's where one is raw (R164). -/
def tileBits (sf df : Word) : Nat × Nat :=
  let a := (bankElem sf).bits
  let b := (bankElem df).bits
  if bfmtElem sf == 0 then (if bfmtElem df == 0 then (8, 8) else (b, b))
  else if bfmtElem df == 0 then (a, a) else (a, b)

/-- Bytes move as they stand (R121). -/
def rawCopy (sf df : Word) : Bool := bfmtElem sf == 0 || bfmtElem df == 0

/-- Source and destination bytes of a copy of `n` units (R162, R164). They follow from the formats as they stand, also where a side's BFMT is invalid or its ring is not configured, which fault only at later steps (log 83, DESIGN CHOICE). -/
def copySizes (transpose : Bool) (sf df : Word) (n : Nat) : Nat × Nat :=
  if transpose then (n * 128 * (tileBits sf df).1, n * 128 * (tileBits sf df).2)
  else if rawCopy sf df then (64 * n, 64 * n)
  else (64 * n, 64 * n * (bankElem df).bits / (bankElem sf).bits)

/-- R163 step 5: whole tiles at tile boundaries. -/
def tilesBad (transpose : Bool) (sf df : Word) (src dst : Place) (slen dlen : Nat) : Bool :=
  if transpose then
    placeOff src % (128 * (tileBits sf df).1) != 0 || placeOff dst % (128 * (tileBits sf df).2) != 0
  else if bfmtScaled sf && bfmtScaled df && !rawCopy sf df then
    placeOff src % tileBytes sf != 0 || placeOff dst % tileBytes df != 0 || slen % tileBytes sf != 0 || dlen % tileBytes df != 0
  else false

/-! ### Issue (R163) -/

/-- The copy-family operations that a strand has in progress (R163 step 8, R362). -/
def State.copiesOf (s : State) (c t : Nat) : Nat :=
  ((s.coreAt c).copies.filter fun o => o.info.core == c && o.info.strand == t && (match o.kind with
    | .rescale => false
    | _ => true)).length

/-- A space that the instruction's column of R162 allows. -/
def spaceIn (allowed : List Nat) (p : Word) : Bool := allowed.contains (Word.space p)

/-- Steps 3 and 4 of R163, up to the rings that block: within a step the source first (log 83, DESIGN CHOICE). -/
def State.sideFault (s : State) (src dst : Place) (slen dlen : Nat) : Option Nat :=
  if rangeBad src slen || rangeBad dst dlen then some cAlign
  else if s.slotBad src slen || s.slotBad dst dlen then some cRing
  else none

/-- A token or a permit is missing at one of the sides (R29, R163 step 4). -/
def State.sidesBlocked (s : State) (src dst : Place) : Bool := s.sideBlocked src false || s.sideBlocked dst true

/-- Steps 5 to 8 of R163 for a copy whose sides have been translated. -/
def copyFault (s : State) (transpose : Bool) (sf df : Word) (src dst : Place) (slen dlen : Nat) (sync : BitVec 4) : Option Nat :=
  if s.placeBad src || s.placeBad dst || (bfmtScaled df && !bfmtScaled sf && bfmtElem sf != 0) then some cBank
  else if tilesBad transpose sf df src dst slen dlen then some cAlign
  else if dlen % 64 != 0 then some cAlign
  else if s.syncMissing sync then some cSpace
  else if 32 ≤ s.copiesOf s.cur.core s.cur.strand then some cSched
  else none

/-- Put an operation into the copy port (R166). -/
def State.queueCopy (s : State) (kind : CopyKind) (src dst : Place) (slen dlen : Nat) (arg : Word) (sync : BitVec 4) : State :=
  let o : CopyOp :=
    { info := s.newInfo clsC (s.syncPtr sync), kind := kind, src := src, dst := dst, len := slen, dlen := dlen, sfmt := 0, dfmt := 0,
      arg := arg, read := none, got := 0, put := 0, ahead := [], vctl := 0, srcWheels := [], dstWheels := [] }
  s.bumpId.modCore s.cur.core fun k => { k with copies := k.copies ++ [o] }

/-- A copy or a transposing copy (R162 to R166). Within a step of R163 the source is looked at before the destination (log 83, DESIGN CHOICE). -/
def copyIssue (s : State) (f : CopyF) (transpose : Bool) (srcs dsts : List Nat) : Out State :=
  let x := s.src f.x
  let y := s.src f.y
  if !spaceIn srcs x || !spaceIn dsts y then s.fault cSpace
  else match s.sidePlace x, s.sidePlace y with
    | .error e, _ => s.fault e
    | _, .error e => s.fault e
    | .ok a, .ok b =>
      let sf := s.placeFmt a
      let df := s.placeFmt b
      let len := copySizes transpose sf df (f.cnt.toNat + 1)
      match s.placeSys a len.1 false, s.placeSys b len.2 true with
      | .error e, _ => s.xlateFault e (x.toNat % 2 ^ 56)
      | _, .error e => s.xlateFault e (y.toNat % 2 ^ 56)
      | .ok a, .ok b =>
        match s.asked (s.sideFault a b len.1 len.2) with
        | some e => s.fault e
        | none =>
          if s.sidesBlocked a b then s.block
          else match s.asked (copyFault s transpose sf df a b len.1 len.2 f.sync) with
            | some e => s.fault e
            | none =>
              let src := s.withSlot a false
              let dst := s.withSlot b true
              (((s.queueCopy (if transpose then .transpose else .copy) src dst len.1 len.2 0 f.sync).takeSide src false).takeSide dst true).ok

/-- xcpy (R162). -/
def execXcpy (f : CopyF) (s : State) : Out State := copyIssue s f false [0, 1, 2, 4, 5] [0, 1, 2, 4, 5, 7]

/-- xcpyt (R162). -/
def execXcpyt (f : CopyF) (s : State) : Out State := copyIssue s f true [1, 2, 5] [1, 2, 5, 7]

/-- xfill: 8 bytes of x over the destination (R162, R164). -/
def execXfill (f : CopyF) (s : State) : Out State :=
  let y := s.src f.y
  let len := 64 * (f.cnt.toNat + 1)
  if !spaceIn [1, 2, 5, 7] y then s.fault cSpace
  else match s.sidePlace y with
    | .error e => s.fault e
    | .ok b =>
      match s.asked (s.sideFault .none b len len) with
      | some e => s.fault e
      | none =>
        if s.sidesBlocked .none b then s.block
        else match s.asked (copyFault s false 0 0 .none b len len f.sync) with
        | some e => s.fault e
        | none =>
          let dst := s.withSlot b true
          ((s.queueCopy .fill .none dst 0 len (s.src f.x) f.sync).takeSide dst true).ok

/-- tscale: rewrite the scale record of a tile (R128, R167). -/
def execTscale (x y : R5) (s : State) : Out State :=
  match spadPtr (s.src y), s.resolve (s.src y) with
  | some _, some p =>
    let fmt := (s.coreAt p.1).fmt (bankOf p.2)
    if !bfmtValid fmt || !bfmtScaled fmt then s.fault cBank
    else if p.2 % 65536 % tileBytes fmt != 0 then s.fault cAlign
    else (s.queueCopy .rescale (.spad p.1 (bankOf p.2) (p.2 % 65536)) .none 0 0 (s.src x) 15).ok
  | _, _ => s.fault cSpace

/-! ### Starting: the source is read (R165, R166) -/

/-- Lines and units that a side covers, for the overlap rule of R166: space, core and line. -/
def State.placeLines (s : State) (p : Place) (len : Nat) : List (Nat × Nat × Nat) :=
  match p with
  | .spad c b off => (List.range (len / 64)).map fun i => (1, c, (b * 65536 + off) / 64 + i)
  | .ring c q sl => (List.range (len / 64)).map fun i => (1, c, runSlot ((s.coreAt c).ring q).desc sl i / 64)
  | .scale c b off => (List.range (len / 32)).map fun i => (4, c, b * 128 + off / 32 + i)
  | .acc c t _ => [(3, c, t)]
  | .sys a => (List.range ((a % 64 + len + 63) / 64)).map fun i => (0, 0, a / 64 + i)
  | .none => []

/-- Scale record of byte `b` of a side in a scaled bank (R122, R148). -/
def State.placeRecord (s : State) (p : Place) (fmt : Word) (b : Nat) : Option (Nat × Nat) :=
  match p with
  | .spad c bank off => some (c, bank * 128 + (off + b) / tileBytes fmt)
  | .ring c q sl => some (c, ringRecord ((s.coreAt c).ring q).desc sl)
  | _ => none

/-- Byte offset of byte `b` of a side inside its tile. -/
def tileOff (p : Place) (fmt : Word) (b : Nat) : Nat := (placeOff p + b) % tileBytes fmt

/-- Copies that go by whole tiles: transposing ones and those between scaled banks (R137, R163). -/
def byTiles (o : CopyOp) : Bool := o.kind == .transpose || (bfmtScaled o.sfmt && bfmtScaled o.dfmt && !rawCopy o.sfmt o.dfmt)

/-- A copy that writes the records of its destination's tiles (R123, R125, R129). -/
def writesRecs (o : CopyOp) : Bool := bfmtScaled o.sfmt && bfmtScaled o.dfmt && !rawCopy o.sfmt o.dfmt

/-- Element widths of a copy by tiles. -/
def tileWidths (o : CopyOp) : Nat × Nat :=
  if o.kind == .transpose then tileBits o.sfmt o.dfmt else ((bankElem o.sfmt).bits, (bankElem o.dfmt).bits)

/-- A copy with the formats in force: those now standing, until it starts (R39). -/
def State.formed (s : State) (o : CopyOp) : CopyOp :=
  if o.read.isSome then o else { o with sfmt := s.placeFmt o.src, dfmt := s.placeFmt o.dst }

/-- Scale records of the tiles that a side touches, for the overlap rule of R166. -/
def State.placeRecords (s : State) (p : Place) (fmt : Word) (len : Nat) : List (Nat × Nat × Nat) :=
  if bfmtScaled fmt then
    (List.range ((placeOff p % tileBytes fmt + len + tileBytes fmt - 1) / tileBytes fmt)).filterMap fun i =>
      (s.placeRecord p fmt (i * tileBytes fmt)).map fun r => (4, r.1, r.2)
  else []

/-- What a copy reads: its source's lines, and the records of a scaled source that are read (R121, R137). -/
def State.copySources (s : State) (o : CopyOp) : List (Nat × Nat × Nat) :=
  let o := s.formed o
  if o.kind == .rescale then s.placeRecords o.src o.sfmt 1
  else s.placeLines o.src o.len ++ (if bfmtElem o.dfmt != 0 || o.kind == .transpose then s.placeRecords o.src o.sfmt o.len else [])

/-- What a copy writes: its destination's lines, and the records of a tile copy or a rescale (R125, R167). -/
def State.copyDests (s : State) (o : CopyOp) : List (Nat × Nat × Nat) :=
  let o := s.formed o
  if o.kind == .rescale then s.placeRecords o.src o.sfmt 1
  else s.placeLines o.dst o.dlen ++ (if writesRecs o then s.placeRecords o.dst o.dfmt o.dlen else [])

/-- An earlier unfinished copy of the strand writes where this one reads or writes (R166). -/
def State.copyHeld (s : State) (o e : CopyOp) : Bool :=
  e.info.core == o.info.core && e.info.strand == o.info.strand
    && (let w := s.copyDests e
        (s.copySources o ++ s.copyDests o).any w.contains)

/-- A copy may start: every earlier copy of the core has started, none holds it, and no fence does (R166, R306). -/
def State.copyReady (s : State) (core : Nat) (o : CopyOp) : Bool :=
  let before := (s.coreAt core).copies.takeWhile fun e => e.info.id != o.info.id
  before.all (fun e => e.read.isSome) && !before.any (s.copyHeld o) && s.unfenced o.info

/-- The core in which a side lies. -/
def Place.core : Place → Option Nat
  | .spad c _ _ | .scale c _ _ | .ring c _ _ | .acc c _ _ => some c
  | .sys _ | .none => Option.none

/-- The wheels, and VCTL, of a side's core (R39). -/
def State.wheelsOf (s : State) (p : Place) : SMap Word := (p.core.map fun c => (s.coreAt c).bwheel).getD []
def State.vctlOf (s : State) (p : Place) : Word := (p.core.map fun c => (s.coreAt c).vctl).getD 0

/-- The banks of a side have, under given wheels, a position for an engine of core `by_`: C in its own banks, R in another core's (R140, R165). -/
def State.sideServed (s : State) (by_ : Nat) (wheels : SMap Word) (p : Place) : Bool :=
  let cls : Nat := if p.core == some by_ then 3 else 4
  let has (b : Nat) : Bool := wheelServes (SMap.get wheels Config.defaultWheel b) cls
  match p with
  | .spad _ b _ | .scale _ b _ => has b
  | .ring c q _ =>
    let d := ((s.coreAt c).ring q).desc
    (List.range (ringStripe d)).all fun i => has (ringBank d + i)
  | _ => true

/-- The source, or the destination, of a started copy is served (R39, R140, R165). -/
def State.srcServed (s : State) (o : CopyOp) : Bool := s.sideServed o.info.core o.srcWheels o.src
def State.dstServed (s : State) (o : CopyOp) : Bool := s.sideServed o.info.core o.dstWheels o.dst

/-- DETAIL of a VERIFY report of a copy: its destination as landing target; the manual gives no line of a record and no form for system memory (R329; log 8, DESIGN CHOICE). -/
def State.copyDetail (s : State) (p : Place) (free : Word) : Nat :=
  match p with
  | .ring c q _ => 2 ^ 31 + (s.coreAt c).rank * 2 ^ 18 + q
  | .spad c b off => (s.coreAt c).rank * 2 ^ 18 + b * 2 ^ 14 + off / 64 * 16
  | .scale c b _ => (s.coreAt c).rank * 2 ^ 18 + b * 2 ^ 14 + free.toNat % 1024 * 16
  | _ => free.toNat % 2 ^ 32

/-- Lines of system memory that a copy reads fail their verification: an event, and VERIFY to its strand, for each (R97, R104, R329; log 73, DEDUCED). -/
def State.sysReport (s : State) (o : CopyOp) (a n : Nat) : State :=
  (s.sysFailing a n).foldl (fun (s : State) pla =>
    s.free.2.reportOp o.info (imprecise cVerify (s.copyDetail o.dst s.free.1) (word (pla * 128)))) (s.sysVerify o.info.world a n)

/-- Read `n` lines of a copy's source from its line `first` on (R137, R165). -/
def State.readSource (s : State) (o : CopyOp) (first n : Nat) : RunRead :=
  match o.src with
  | .spad c b off => s.readRun c o.info.world o.vctl (runSpad (b * 65536 + off)) first n
  | .ring c q sl => s.readRun c o.info.world o.vctl (runSlot ((s.coreAt c).ring q).desc sl) first n
  | .scale c b off =>
    let r := (s.coreAt c).readScale (b * 4096 + off + 64 * first) (64 * n)
    let bad := (List.range n).filter fun i =>
      ((s.coreAt c).readRec (b * 128 + off / 32 + 2 * (first + i))).2 || ((s.coreAt c).readRec (b * 128 + off / 32 + 2 * (first + i) + 1)).2
    ⟨r.1, bad.map (first + ·), [], if r.2 then s.reportRecord o.info.core o.info.strand else s⟩
  | .sys a =>
    ⟨s.readSys (a + 64 * first) (64 * n), ((List.range n).map (first + ·)).filter fun i =>
      s.unitBad ((a + 64 * i) / 64) || s.unitBad ((a + 64 * i + 63) / 64), [], s.sysReport o (a + 64 * first) (64 * n)⟩
  | _ => ⟨[], [], [], s⟩

/-- Poisoned records of a space-4 source, from its record `first` on (R137). -/
def State.badRecords (s : State) (p : Place) (first n : Nat) : List Nat :=
  match p with
  | .scale c b off => ((List.range n).map (first + ·)).filter fun i => ((s.coreAt c).readRec (b * 128 + off / 32 + i)).2
  | _ => []

/-- Record `i` of a scaled source, counted from the tile of its first byte (R124, R129, R131; log 37, DEDUCED). -/
def State.sourceRecord (s : State) (o : CopyOp) (i : Nat) : List Byte × Bool :=
  match s.placeRecord o.src o.sfmt (i * tileBytes o.sfmt) with
  | some r => (s.coreAt r.1).readRec r.2
  | none => (List.replicate 32 0, false)

/-- The tiles of a scaled source that the lines read so far touch; a raw destination needs none but for the poison of a transposed tile (R121, R137). -/
def copyTiles (o : CopyOp) (bytes : Nat) : Nat :=
  if bfmtScaled o.sfmt && (bfmtElem o.dfmt != 0 || o.kind == .transpose) && bytes != 0 then
    (placeOff o.src % tileBytes o.sfmt + bytes + tileBytes o.sfmt - 1) / tileBytes o.sfmt
  else 0

/-- Lines from line `at_` up to the end of a 256-byte access of a side; those of a slot lie where its bank's bytes do, and a stripe ends an access (R148, R165). -/
def State.accessLines (s : State) (p : Place) (at_ : Nat) : Nat :=
  match p with
  | .spad _ _ off | .scale _ _ off => 4 - (off / 64 + at_) % 4
  | .sys a => 4 - (a / 64 + at_) % 4
  | .ring c q sl =>
    let line (i : Nat) : Nat := runSlot ((s.coreAt c).ring q).desc sl (at_ + i) / 64
    ((List.range 4).takeWhile fun i => line i == line 0 + i && line i / 4 == line 0 / 4).length
  | .acc _ _ _ | .none => 4 - at_ % 4

/-- Lines of a copy's next read: a whole tile of a copy by tiles, else one access (R125, R166). -/
def State.nextRead (s : State) (o : CopyOp) : Nat :=
  let left := (o.len - o.got) / 64
  Nat.min left (if byTiles o then 2 * (tileWidths o).1 else s.accessLines o.src (o.got / 64))

/-- Change a copy operation. -/
def State.modCopy (s : State) (o : CopyOp) (f : CopyOp → CopyOp) : State :=
  s.modCore o.info.core fun k => { k with copies := k.copies.map fun e => if e.info.id == o.info.id then f e else e }

/-- An access of a copy to a stack of the other die crosses the die bridge in a frame of its own (R102; log 86, DESIGN CHOICE). -/
def State.copyFrame (s : State) (o : CopyOp) (p : Place) : State :=
  match p with
  | .sys a => s.crossBridge o.info.world (dieOfCore o.info.core) (dieOfStack (a / 2 ^ 33))
  | _ => s

/-- A copy makes its next read; a ring source's permit returns with the last (R152). A copy that reads a poisoned line reports it (R76, R89, R98; log 21, DEDUCED; log 4, DEDUCED). -/
def State.readChunk (s : State) (o : CopyOp) (d : CopyData) : State :=
  let n := s.nextRead o
  let r := (s.copyFrame o o.src).readSource o (o.got / 64) n
  let old := copyTiles o o.got
  let more := (List.range (copyTiles o (o.got + 64 * n) - old)).map fun i => (old + i, r.state.sourceRecord o (old + i))
  let bad := (more.filter fun x => x.2.2).map (·.1) ++ s.badRecords o.src (o.got / 32) (2 * n)
  let d1 : CopyData := ⟨d.bytes ++ r.bytes, d.recs ++ more.map (·.2.1), d.poisonLines ++ r.bad, d.poisonTiles ++ bad⟩
  let s1 := (r.state.reportFlags o.info.core o.info.strand r.flags).modCopy o fun e => { e with read := some d1, got := o.got + 64 * n }
  match o.src with
  | .ring c q _ => if o.got + 64 * n == o.len then s1.giveBack c q else s1
  | _ => s1

/-- A copy starts: its formats, VCTL and wheels are those now in force (R39). A copy that was issued when a format was valid goes on by the format it finds (log 82, DESIGN CHOICE). -/
def State.startCopy (s : State) (o : CopyOp) : State :=
  let sf := s.placeFmt o.src
  let df := s.placeFmt o.dst
  s.modCopy o fun e =>
    { e with sfmt := sf, dfmt := df, read := some ⟨[], [], [], []⟩, vctl := s.vctlOf o.src, srcWheels := s.wheelsOf o.src, dstWheels := s.wheelsOf o.dst }

/-! ### What a copy writes (R121, R127, R129 to R131, R137) -/

/-- What reaches the destination: bytes, bad lines, and for tiles their records with their poison; and where a record moves as bytes, the bad halves of lines. -/
structure CopyOut where
  bytes : List Byte
  bad : List Nat
  recs : List (List Byte × Bool)
  scale : Bool
  halves : List Nat
  deriving DecidableEq, Repr

/-- Destination lines that hold an element of a bad source line; `map` gives each element's place in the destination (log 21, DEDUCED). -/
def badLines (sb db : Nat) (bad : List Nat) (n : Nat) (map : Nat → Nat) : List Nat :=
  ((List.range n).filter fun e => bad.contains (e * sb / 512)).map fun e => map e * db / 512

/-- Elements that a run of bytes moves: those that convert as such, raw bytes as bytes. -/
def lineMap (sb db : Nat) (bad : List Nat) (n : Nat) : List Nat := (badLines sb db bad n id).eraseDups

/-- One tile of a copy between banks: codes in, codes and record out (R127, R129 to R131). -/
def tileOut (o : CopyOp) (transpose : Bool) (codes : List Nat) (r : List Byte) : TileOut :=
  let sf := o.sfmt
  let df := o.dfmt
  let se := bankElem sf
  let de := bankElem df
  let keep (cs : List Nat) : TileOut :=
    { codes := cs, sigma := recSigma r, rho := recRhoBytes r, gamma := recGammaBytes r, flags := recFlags r, scale := false }
  let t : TileOut :=
    if rawCopy sf df then keep codes
    else if bfmtScaled sf && bfmtScaled df then
      (if sameFormat sf df then keep codes else copyTile se de (bfmtRnd df) codes r)
    else if bfmtScaled sf then
      { keep (codes.zipIdx.map fun x => de.encode (bfmtRnd df) (bfmtSat df) (tileValue se r FVal.one x.1 (x.2 / 32) (x.2 % 32))) with
        scale := scaleBad (recSigma r) }
    else if sameFormat sf df then keep codes
    else keep (codes.map fun c => de.encode (bfmtRnd df) (bfmtSat df) (se.decode c))
  if transpose then { t with codes := transpose32 0 t.codes, rho := t.gamma, gamma := t.rho } else t

/-- A copy by whole tiles. Of a transposing copy from a raw source into a scaled bank, which leaves the destination's record as it is (R164), the record is not poisoned with the tile's lines either (R137; log 93, DESIGN CHOICE). -/
def tilesOut (o : CopyOp) (d : CopyData) : CopyOut :=
  let w := tileWidths o
  let n := o.len / (128 * w.1)
  let tiles := (List.range n).map fun i =>
    tileOut o (o.kind == .transpose) (unpackElems w.1 ((d.bytes.drop (i * 128 * w.1)).take (128 * w.1))) (d.recs.getD i (List.replicate 32 0))
  let bad (i : Nat) : Bool := d.poisonTiles.contains i || d.poisonLines.any fun l => l / (2 * w.1) == i
  { bytes := tiles.flatMap fun t => packElems w.2 t.codes
    bad := (List.range (n * 2 * w.2)).filter fun l => bad (l / (2 * w.2))
    recs := tiles.zipIdx.map fun t => (mkRecord t.1.sigma t.1.rho t.1.gamma 0 t.1.flags, bad t.2)
    scale := tiles.any (·.scale)
    halves := [] }

/-- A copy by elements or bytes: from a scaled bank the values of R131, else R121. -/
def runOut (o : CopyOp) (d : CopyData) : CopyOut :=
  let sf := o.sfmt
  let df := o.dfmt
  if rawCopy sf df then
    ⟨d.bytes, d.poisonLines, [], false, match o.src with
      | .scale _ _ _ => d.poisonTiles
      | _ => d.poisonLines.flatMap fun l => [2 * l, 2 * l + 1]⟩
  else
    let se := bankElem sf
    let de := bankElem df
    let codes := unpackElems se.bits d.bytes
    if bfmtScaled sf then
      let base := tileOff o.src sf 0 * 8 / se.bits
      let tile (e : Nat) : Nat := (base + e) / 1024
      let rec_ (e : Nat) : List Byte := d.recs.getD (tile e) (List.replicate 32 0)
      let vals := codes.zipIdx.map fun x =>
        let k := (base + x.2) % 1024
        de.encode (bfmtRnd df) (bfmtSat df) (tileValue se (rec_ x.2) FVal.one x.1 (k / 32) (k % 32))
      { bytes := packElems de.bits vals
        bad := (lineMap se.bits de.bits d.poisonLines codes.length
          ++ (((List.range codes.length).filter fun e => d.poisonTiles.contains (tile e)).map fun e => e * de.bits / 512)).eraseDups
        recs := []
        scale := d.recs.any fun r => scaleBad (recSigma r)
        halves := [] }
    else if sameFormat sf df then ⟨d.bytes, d.poisonLines, [], false, []⟩
    else
      { bytes := packElems de.bits (codes.map fun c => de.encode (bfmtRnd df) (bfmtSat df) (se.decode c))
        bad := lineMap se.bits de.bits d.poisonLines codes.length
        recs := []
        scale := false
        halves := [] }

/-- The eight bytes of a fill, repeated (R164). -/
def fillBytes (x : Word) (n : Nat) : List Byte := (List.range (n / 8)).flatMap fun _ => leBytes 8 x.toNat

/-- Everything that a started copy writes. -/
def copyOut (o : CopyOp) (d : CopyData) : CopyOut :=
  match o.kind with
  | .fill => ⟨fillBytes o.arg o.dlen, [], [], false, []⟩
  | .copy | .transpose => if byTiles o then tilesOut o d else runOut o d
  | _ => ⟨[], [], [], false, []⟩

/-- The bytes of a copy, as many as its destination has: more or fewer come only where a format changed between issue and start (log 82, DESIGN CHOICE). -/
def CopyOut.sized (c : CopyOut) (n : Nat) : List Byte := c.bytes.take n ++ List.replicate (n - c.bytes.length) 0

/-- Whole records written into the scale store: each a tile-granular write (R123, R164). -/
def Core.writeRecords (k : Core) (first : Nat) (bad : Nat → Bool) : Nat → List Byte → Core
  | 0, _ => k
  | n + 1, bs =>
    let k1 := k.writeRecords first bad n bs
    let r := (bs.drop (32 * n)).take 32
    k1.tileRec (first + n) (r.take 17 ++ [0, r.getD 18 0] ++ List.replicate 13 0) (bad n)

/-- Write `n` lines of the destination of a copy from its line `first` on (R137, R164, R165). -/
def State.writeDest (s : State) (o : CopyOp) (c : CopyOut) (first n : Nat) : State :=
  let bs := (c.sized o.dlen).drop (64 * first)
  match o.dst with
  | .spad k b off => s.modCore k fun x => x.writeRun o.info.world (runSpad (b * 65536 + off)) c.bad.contains first n bs
  | .ring k q sl => s.modCore k fun x => x.writeRun o.info.world (runSlot (x.ring q).desc sl) c.bad.contains first n bs
  | .scale k b off => s.modCore k fun x => x.writeRecords (b * 128 + off / 32 + 2 * first) (fun i => c.halves.contains (2 * first + i)) (2 * n) bs
  | .sys a =>
    (List.range n).foldl (fun s i => s.putSys (a + 64 * (first + i)) ((bs.drop (64 * i)).take 64) (c.bad.contains (first + i))) s
  | _ => s

/-- Write the records of `n` tiles of a copy between scaled banks, from tile `first` on (R123, R125, R129). -/
def State.writeTileRecs (s : State) (o : CopyOp) (c : CopyOut) (first n : Nat) : State :=
  if writesRecs o then
    ((c.recs.zipIdx.drop first).take n).foldl (fun s r => match s.placeRecord o.dst o.dfmt (r.2 * tileBytes o.dfmt) with
      | some p => s.modCore p.1 fun k => k.tileRec p.2 r.1.1 r.1.2
      | none => s) s
  else s

/-- Write the lines of a copy's access from byte `o.put` on, `n` of them but for those written ahead, and the records of the tiles among them (R125, R165). -/
def State.writeLines (s : State) (o : CopyOp) (c : CopyOut) (n : Nat) : State :=
  let per := 2 * (tileWidths o).2
  let first := o.put / 64
  let s1 := if o.ahead.isEmpty then (s.copyFrame o o.dst).writeDest o c first n
    else ((List.range n).filter fun i => !o.ahead.contains (first + i)).foldl (fun (s : State) i => s.writeDest o c (first + i) 1) s
  s1.writeTileRecs o c (first / per) ((n + per - 1) / per)

/-- Line `i` of an access of `n` lines may be written ahead of the others: it has not come yet, and is not the last to come. -/
def CopyOp.mayWriteAhead (o : CopyOp) (n i : Nat) : Bool := i < n && !byTiles o && !o.ahead.contains (o.put / 64 + i) && o.ahead.length + 1 < n

/-- Write line `i` of the access under way ahead of the others, in any order, so that a reader may find some of an access's lines old and others new; the last one comes with the end of the access (R311; log 4, DEDUCED). -/
def State.writeAhead (s : State) (o : CopyOp) (c : CopyOut) (i : Nat) : State :=
  let l := o.put / 64 + i
  ((if o.ahead.isEmpty then s.copyFrame o o.dst else s).writeDest o c l 1).modCopy o fun e => { e with ahead := l :: e.ahead }

/-- tscale when it is performed: one tile-granular record write under the format in force at its start (R39, R128, R167). What is taken from a poisoned record is written as poisoned (R137; log 37, DEDUCED). -/
def State.rescale (s : State) (o : CopyOp) : State :=
  match s.placeRecord o.src o.sfmt 0 with
  | none => s
  | some p =>
    let r := (s.coreAt p.1).readRec p.2
    let t := tscaleSigma (recSigma r.1) (tauVal o.arg)
    let new := mkRecord t.1 (recRhoBytes r.1) (recGammaBytes r.1) 0 (recFlags r.1 ||| t.2.1)
    let s1 := if r.2 then s.reportRecord o.info.core o.info.strand else s
    let s2 := if t.2.2 then s1.report o.info.core o.info.strand (imprecise cScale 0 0) else s1
    s2.modCore p.1 fun k => k.tileRec p.2 new r.2

/-- The destination slot of a copy that the matrix unit has yet to read (R243). -/
def State.destPending (s : State) (o : CopyOp) : Bool :=
  match o.dst with
  | .ring k q sl => (s.coreAt k).slotPending q sl
  | _ => false

/-- Zero `n` bytes of a scrub's range from its byte `first` on: lines or records (R362). -/
def State.scrubRange (s : State) (o : CopyOp) (first n : Nat) : State :=
  match o.dst with
  | .spad k b off =>
    s.modCore k fun x => (List.range (n / 64)).foldl (fun (x : Core) i =>
      { x with
        spad := Memory.clear x.spad (b * 65536 + off + first + 64 * i) 64
        lines := SMap.set x.lines ((b * 65536 + off + first) / 64 + i) { tag := o.info.world, poison := false, written := false, err := Ecc.sound } }) x
  | .scale k b off =>
    s.modCore k fun x => (List.range (n / 32)).foldl (fun (x : Core) i =>
      { x with
        scale := Memory.clear x.scale (b * 4096 + off + first + 32 * i) 32
        recs := SMap.erase x.recs (b * 128 + (off + first) / 32 + i) }) x
  | _ => s

/-- Lines of a copy's next write: a whole tile of a copy that writes records, else one access (R125, R165). -/
def State.nextWrite (s : State) (o : CopyOp) : Nat :=
  Nat.min ((o.dlen - o.put + 63) / 64) (if byTiles o then 2 * (tileWidths o).2 else s.accessLines o.dst (o.put / 64))

/-- The bytes of a copy's next write, and whether it is the last one (R165). -/
def State.nextBytes (s : State) (o : CopyOp) : Nat := Nat.min (o.dlen - o.put) (64 * s.nextWrite o)
def State.lastWrite (s : State) (o : CopyOp) : Bool := o.dlen ≤ o.put + 64 * s.nextWrite o

/-- An access of a copy would cross the die bridge before it is trained (R257, R383). -/
def State.bridgeWaits (s : State) (o : CopyOp) : Bool :=
  let crosses (p : Place) : Bool := match p with
    | .sys a => dieOfCore o.info.core != dieOfStack (a / 2 ^ 33)
    | _ => false
  !s.bridgeUp && (crosses o.src || crosses o.dst)

/-- A copy makes its next write, whole or one line of it, but for what ends the copy (R165, R311). -/
def State.writeChunk (s : State) (o : CopyOp) (d : CopyData) : State :=
  let n := s.nextWrite o
  let c := copyOut o d
  let f := s.free
  let i := f.1.toNat % (n + 1)
  match o.kind with
  | .rescale => s
  | .scrub => if s.lastWrite o then s else (s.scrubRange o o.put (64 * n)).modCopy o fun e => { e with put := o.put + 64 * n }
  | _ =>
    if o.mayWriteAhead n i then f.2.writeAhead o c i
    else if s.lastWrite o then f.2
    else (f.2.writeLines o c n).modCopy o fun e => { e with put := o.put + 64 * n, ahead := [] }

/-- The next access of a copy: it starts if it may, makes its next read, or with its source read its next write (R163 to R166, R311; log 21, DEDUCED). -/
def State.copyStep (s : State) (o : CopyOp) : State :=
  if s.bridgeWaits o then s
  else match o.read with
  | none => if s.copyReady o.info.core o then s.startCopy o else s
  | some d =>
    if o.got < o.len then (if s.srcServed o then s.readChunk o d else s)
    else if s.destPending o || !s.dstServed o then s
    else s.writeChunk o d

/-- The copy numbered `id` of a core goes on. -/
def State.copyRead (s : State) (core id : Nat) : State :=
  match (s.coreAt core).copies.find? fun o => o.info.id == id with
  | none => s
  | some o => s.copyStep o

/-- COPY_COMPLETE: a copy that has read its source makes the last write of its destination: it counts, completes its ring slot and retires (R165). -/
def execCopyComplete (core id : Nat) (s : State) : Out State :=
  match (s.coreAt core).copies.find? fun o => o.info.id == id with
  | none => .next s
  | some o =>
    match o.read with
    | none => .next s
    | some d =>
      if o.got < o.len || !s.lastWrite o || s.bridgeWaits o || s.destPending o || !s.dstServed o || (o.kind == .rescale && !s.srcServed o) then .next s
      else
        let c := copyOut o d
        let s1 := match o.kind with
          | .rescale => s.rescale o
          | .scrub => s.scrubRange o o.put (s.nextBytes o)
          | _ => s.writeLines o c (s.nextWrite o)
        let s2 := if c.scale then s1.report o.info.core o.info.strand (imprecise cScale 0 0) else s1
        let s3 := s2.modCore core fun k => { k with copies := k.copies.filter fun e => e.info.id != id }
        let s4 := s3.countFor o.info o.dlen (!c.bad.isEmpty)
        let s5 := match o.dst with
          | .ring k q sl => s4.completeSlot k q sl
          | _ => s4
        .next (s5.arriveOp o.info)

end Sys2Proof.Machine
end

