-- ==== Sys2Proof/Machine/Atomic.lean ====
section
/-! DEFINITION. Read-modify-write operations of a bank (R143, R154, R155, R160, R168 to R170): atomics, sync-word counts and `swset`. -/

namespace Sys2Proof.Machine

open Sys2Proof

/-! ### Performing -/

/-- The world of a core's workgroup. -/
def State.worldOfCore (s : State) (c : Nat) : Nat := (((s.coreAt c).wg.bind s.wgAt).map (·.world)).getD 0

/-- A signed value of `n` bits. -/
def signedOf (n v : Nat) : Int := codeInt n true v

/-- The new value of an atomic of `n` bits (R169). -/
def atomicNew (i : Instr) (n old v c : Nat) : Nat :=
  match i with
  | .aadd _ => (old + v) % 2 ^ n
  | .aand _ => old &&& v
  | .aor _ => old ||| v
  | .axor _ => old ^^^ v
  | .amin _ => if signedOf n v < signedOf n old then v else old
  | .amax _ => if signedOf n old < signedOf n v then v else old
  | .aminu _ => Nat.min old v
  | .amaxu _ => Nat.max old v
  | .aswp _ => v
  | .acas _ => if old == c then v else old
  | .afadd _ =>
    let f := if n == 32 then fmtF32 else fmtF64
    f.encode .rne false (FVal.add .rne (f.decode old) (f.decode v))
  | _ => old

/-- Perform an atomic in a window: the old value, 0 where the line is bad and nothing is written (R169). -/
def State.performAtomic (s : State) (core : Nat) (info : OpInfo) (addr : Nat) (op : Instr) (wide : Bool) (v c : Word) : State × Word :=
  let n := if wide then 8 else 4
  let r := s.readSpad core info.world addr n info.vctl
  if !r.flags.isEmpty then (r.state.reportFlags info.core info.strand r.flags, 0)
  else
    let old := leNat r.bytes
    let new := atomicNew op (8 * n) old (v.toNat % 2 ^ (8 * n)) (c.toNat % 2 ^ (8 * n))
    (r.state.modCore core fun k => k.writeSpad info.world addr (leBytes n new), word old)

/-- A sync word (R154). -/
structure SyncWord where
  target : Nat
  count : Nat
  gen : Nat
  flags : Nat
  deriving DecidableEq, Repr

def SyncWord.ofBytes (b : List Byte) : SyncWord :=
  ⟨leNat (b.take 4), leNat ((b.drop 4).take 4), leNat ((b.drop 8).take 4), leNat ((b.drop 12).take 4)⟩

/-- Add counted bytes (R155), and the flags of R154. -/
def SyncWord.add (w : SyncWord) (a : Nat) (poisoned abandoned : Bool) : SyncWord :=
  let c := w.count + a
  let flags := w.flags ||| (if poisoned then 1 else 0) ||| (if abandoned then 2 else 0)
  if w.target == 0 then { w with count := c % 2 ^ 32, flags := flags }
  else { w with count := c % w.target, gen := (w.gen + c / w.target) % 2 ^ 32, flags := flags }

/-- Read a sync word under a VCTL value; a bad line reads as zeros (log 22, DESIGN CHOICE). -/
def State.syncWord (s : State) (core addr : Nat) (v : Word) : SyncWord × State :=
  let r := s.readSpad core (s.worldOfCore core) addr 16 v
  (SyncWord.ofBytes r.bytes, r.state)

/-- Perform a count (R155; log 22, DESIGN CHOICE). -/
def State.performCount (s : State) (core addr bytes : Nat) (poisoned abandoned : Bool) : State :=
  let r := s.syncWord core addr (s.coreAt core).vctl
  let w := r.1.add bytes poisoned abandoned
  r.2.modCore core fun k =>
    k.writeSpad (s.worldOfCore core) (addr + 4) (leBytes 4 w.count ++ leBytes 4 w.gen ++ leBytes 4 w.flags)

/-- Perform a `swset`, under the VCTL of its issue: target, count and flags; the generation stays (R39, R160). -/
def State.performSwset (s : State) (core addr : Nat) (target : BitVec 32) (v : Word) : State :=
  let r := s.syncWord core addr v
  r.2.modCore core fun k =>
    (k.writeSpad (s.worldOfCore core) addr (leBytes 4 target.toNat ++ leBytes 4 0)).writeSpad (s.worldOfCore core) (addr + 12) (leBytes 4 0)

/-- Perform a queued operation: its memory effect and the old value of an atomic. -/
def State.performRmw (s : State) (core : Nat) (r : Rmw) : State × Word :=
  match r with
  | .atomic info addr op wide v c _ => s.performAtomic core info addr op wide v c
  | .count addr bytes p a => (s.performCount core addr bytes p a, 0)
  | .swset addr t v => (s.performSwset core addr t v, 0)

/-- The operation at the head of a bank's queue (R143). -/
def Core.rmwHead (k : Core) (bank : Nat) : Option Rmw := (k.rmw.find? fun r => r.1 == bank).map (·.2)

/-- Remove the head of a bank's queue. -/
def Core.rmwPop (k : Core) (bank : Nat) : Core := { k with rmw := k.rmw.eraseP fun r => r.1 == bank }

/-- The bank's wheel in force has a window (R139, R141, R143). -/
def Core.hasWindow (k : Core) (bank : Nat) : Bool := wheelHasWindow (k.wheel bank)

/-- SYNC_COUNT: the next window of a bank performs a count or a `swset` (R143, R155, R160). -/
def execSyncCount (core bank : Nat) (s : State) : Out State :=
  if !(s.coreAt core).hasWindow bank then .next s
  else match (s.coreAt core).rmwHead bank with
  | some (.count a n p x) => .next ((s.modCore core fun k => k.rmwPop bank).performCount core a n p x)
  | some (.swset a t v) => .next ((s.modCore core fun k => k.rmwPop bank).performSwset core a t v)
  | _ => .next s

/-- The strand whose atomic an operation is. -/
def Rmw.sender (r : Rmw) : Option (Nat × Nat) := r.infos.head?.map fun i => (i.2.core, i.2.strand)

/-- An operation from another core reaches its bank's queue; atomics of one strand to one bank keep their order at an R position of the bank (R140, R143, R170, R307, R393). -/
def State.rmwArrive (s : State) (core index : Nat) : State :=
  let k := s.coreAt core
  match k.inbound[index]? with
  | none => s
  | some (bank, r) =>
    if !k.serves bank 4 || (r.sender.isSome && (k.inbound.take index).any fun e => e.1 == bank && e.2.sender == r.sender) then s
    else (s.setCore core { k with inbound := k.inbound.eraseIdx index }).sendRmw core core bank r

/-- The generation that `swwait` reads: after every queued update of the bank (R161). -/
def State.generation (s : State) (core addr : Nat) : Nat :=
  let q := ((s.coreAt core).rmw.filter fun r => r.1 == bankOf addr).map (·.2)
  ((q.foldl (fun s r => (s.performRmw core r).1) s).syncWord core addr 0).1.gen

/-! ### Issue (R168, R170) -/

/-- The checks of R168: the first failure. -/
def State.atomicCheck (s : State) (f : AtomF) : Except Nat (Nat × Nat) :=
  let p := s.src f.addr
  match s.resolve p with
  | none => .error cSpace
  | some a =>
    let k := s.coreAt a.1
    if a.2 % (if f.wide then 8 else 4) != 0 then .error cAlign
    else if !bfmtValid (k.fmt (bankOf a.2)) then .error cBank
    else if !k.hasWindow (bankOf a.2) then .error cWheel
    else if f.d != 30 && s.fullBy 1 then .error cSched
    else .ok a

/-- The per-core registers of a core (R39). -/
def Core.regs (k : Core) : CoreRegs := { bfmt := k.bfmt, bwheel := k.bwheel, mg := k.mg, vctl := k.vctl }

/-- What a sent atomic keeps for its bundle, beside the bundle itself (R39, R170). -/
def State.newSent (s : State) (id : Nat) : Sent :=
  { id := id, done := false, old := 0, bytes := [], regs := ((s.wg.map (·.cores)).getD []).foldl (fun m c => SMap.set m c (s.coreAt c).regs) [],
    window := (s.wg.map (·.window)).getD [], view := (s.wg.map (·.view)).getD [], mplace := false }

/-- An atomic: its checks, then it is on its way to its bank, sent, or — once performed — lands its return (R33, R168, R170). -/
def atomic (f : AtomF) (i : Instr) (s : State) : Out State :=
  match s.strand.sent with
  | some t => if t.done then (s.putStrand { s.strand with sent := none }).result f.d 1 t.old else s.block
  | none =>
    if s.fenceHolds clsA then s.block
    else match s.atomicCheck f with
      | .error e => s.fault e
      | .ok a =>
        let ret := f.d != 30
        let info := { s.newInfo clsA 0 with arrive := if ret then [] else s.cur.arrive, vctl := (s.coreAt a.1).vctl }
        let s1 := s.bumpId.sendRmw s.cur.core a.1 (bankOf a.2) (.atomic info a.2 i f.wide (s.src f.v) (s.src f.c) ret)
        if ret then .next ((s1.putStrand { s1.strand with sent := some (s.newSent info.id) }).verdict .send) else s1.ok

/-- aadd (R169). -/
def execAadd (f : AtomF) (s : State) : Out State := atomic f (.aadd f) s
/-- aand (R169). -/
def execAand (f : AtomF) (s : State) : Out State := atomic f (.aand f) s
/-- aor (R169). -/
def execAor (f : AtomF) (s : State) : Out State := atomic f (.aor f) s
/-- axor (R169). -/
def execAxor (f : AtomF) (s : State) : Out State := atomic f (.axor f) s
/-- amin: two's complement (R169). -/
def execAmin (f : AtomF) (s : State) : Out State := atomic f (.amin f) s
/-- amax: two's complement (R169). -/
def execAmax (f : AtomF) (s : State) : Out State := atomic f (.amax f) s
/-- aminu: unsigned (R169). -/
def execAminu (f : AtomF) (s : State) : Out State := atomic f (.aminu f) s
/-- amaxu: unsigned (R169). -/
def execAmaxu (f : AtomF) (s : State) : Out State := atomic f (.amaxu f) s
/-- aswp: swap (R169). -/
def execAswp (f : AtomF) (s : State) : Out State := atomic f (.aswp f) s
/-- acas: compare and swap (R169). -/
def execAcas (f : AtomF) (s : State) : Out State := atomic f (.acas f) s
/-- afadd: floating-point add under RNE (R169). -/
def execAfadd (f : AtomF) (s : State) : Out State := atomic f (.afadd f) s

end Sys2Proof.Machine
end

