-- ==== Sys2Proof/Machine/Vector.lean ====
section
/-! DEFINITION. The V slot's arithmetic, moves, conversions, scans and reductions (R205 to R225): each starts a flight whose columns are read and landed by Land. -/

namespace Sys2Proof.Machine

open Sys2Proof

/-- First column and number of columns of a syllable (R21). -/
def vecCols (sl : Slot) (w : VWidth) : Nat × Nat := if sl == .v1 then (8 - w.bits / 128, w.bits / 128) else (0, w.bits / 128)

/-- The flight of a V syllable as it issues: nothing read yet (R30). Its result lands with the columns of the syllable, also those of a narrowing vcvt that hold no destination element: it is held, and retires, to the last of them (R31, R33, R218; log 111, DESIGN CHOICE). -/
def State.newFlight (s : State) (i : Instr) (f : VF) (lat : Nat) : Flight :=
  { t := s.strand.ctime, instr := i, c0 := (vecCols s.cur.slot f.width).1, cols := (vecCols s.cur.slot f.width).2,
    dcols := (vecCols s.cur.slot f.width).2, lat := lat, s := s.src f.va, u := s.src f.vb, a := 0, b := 0, c := 0, em := 0, cm := 0, sc := 0,
    seen := 0, emFixed := false, block := [], record := [], recBad := false, flags := [], fmt := 0, opId := 0 }

/-- Start a flight that holds one result (R33). -/
def State.startFlight (s : State) (f : Flight) : Out State :=
  if 64 < s.strand.heldCount + 1 then s.fault cSched
  else (s.putStrand (s.strand.hold ⟨.vector f, true, s.cur.arrive⟩)).ok

/-- A V syllable of latency `lat` (R31, R33). -/
def vectorOp (s : State) (i : Instr) (f : VF) (lat : Nat) : Out State := s.startFlight (s.newFlight i f lat)

/-- A V syllable on the slot's divider (R35, R212). -/
def vectorDiv (s : State) (i : Instr) (f : VF) (lat : Nat) : Out State :=
  if s.strand.divBusy (s.cur.slot.divUnit true) 4 || s.fullBy 1 then s.fault cSched
  else (s.putStrand (s.strand.useDiv (s.cur.slot.divUnit true))).startFlight (s.newFlight i f lat)

/-- Latency of the integer and the floating-point form (R35). -/
def latIF (f : VF) (i fl : Nat) : Nat := if f.ty.isF then fl else i

/-- vadd (R211). -/
def execVadd (f : VF) (s : State) : Out State := vectorOp s (.vadd f) f (latIF f 2 4)

/-- vsub (R211). -/
def execVsub (f : VF) (s : State) : Out State := vectorOp s (.vsub f) f (latIF f 2 4)

/-- vmul (R211). -/
def execVmul (f : VF) (s : State) : Out State := vectorOp s (.vmul f) f 4

/-- vfma (R211). -/
def execVfma (f : VF) (s : State) : Out State := vectorOp s (.vfma f) f 5

/-- vfms (R211). -/
def execVfms (f : VF) (s : State) : Out State := vectorOp s (.vfms f) f 5

/-- vfnma (R211). -/
def execVfnma (f : VF) (s : State) : Out State := vectorOp s (.vfnma f) f 5

/-- vdiv (R211, R212): latency 14, or 22 for f64 (R35). -/
def execVdiv (f : VF) (s : State) : Out State := vectorDiv s (.vdiv f) f (if f.ty == .f64 then 22 else 14)

/-- vsqrt (R211, R212): latency 14, or 22 for f64 (R35). -/
def execVsqrt (f : VF) (s : State) : Out State := vectorDiv s (.vsqrt f) f (if f.ty == .f64 then 22 else 14)

/-- vmin (R211). -/
def execVmin (f : VF) (s : State) : Out State := vectorOp s (.vmin f) f (latIF f 2 4)

/-- vmax (R211). -/
def execVmax (f : VF) (s : State) : Out State := vectorOp s (.vmax f) f (latIF f 2 4)

/-- vabs (R211). -/
def execVabs (f : VF) (s : State) : Out State := vectorOp s (.vabs f) f 2

/-- vneg (R211). -/
def execVneg (f : VF) (s : State) : Out State := vectorOp s (.vneg f) f 2

/-- vexp2 (R211, R212). -/
def execVexp2 (f : VF) (s : State) : Out State := vectorOp s (.vexp2 f) f 8

/-- vlog2 (R211, R212). -/
def execVlog2 (f : VF) (s : State) : Out State := vectorOp s (.vlog2 f) f 8

/-- vrcp (R211, R212). -/
def execVrcp (f : VF) (s : State) : Out State := vectorOp s (.vrcp f) f 8

/-- vrsqrt (R211, R212). -/
def execVrsqrt (f : VF) (s : State) : Out State := vectorOp s (.vrsqrt f) f 8

/-- vand (R214). -/
def execVand (f : VF) (s : State) : Out State := vectorOp s (.vand f) f 2

/-- vor (R214). -/
def execVor (f : VF) (s : State) : Out State := vectorOp s (.vor f) f 2

/-- vxor (R214). -/
def execVxor (f : VF) (s : State) : Out State := vectorOp s (.vxor f) f 2

/-- vshl (R214). -/
def execVshl (f : VF) (s : State) : Out State := vectorOp s (.vshl f) f 2

/-- vshr (R214). -/
def execVshr (f : VF) (s : State) : Out State := vectorOp s (.vshr f) f 2

/-- vsra (R214). -/
def execVsra (f : VF) (s : State) : Out State := vectorOp s (.vsra f) f 2

/-- vcmp (R215). -/
def execVcmp (f : VF) (s : State) : Out State := vectorOp s (.vcmp f) f 3

/-- vsel (R216). -/
def execVsel (f : VF) (s : State) : Out State := vectorOp s (.vsel f) f 2

/-- vcvt (R217, R218). -/
def execVcvt (f : VF) (s : State) : Out State := vectorOp s (.vcvt f) f 4

/-- vbcst (R216). -/
def execVbcst (f : VF) (s : State) : Out State := vectorOp s (.vbcst f) f 2

/-- vmov (R216). -/
def execVmov (f : VF) (s : State) : Out State := vectorOp s (.vmov f) f 2

/-- vslide (R219). -/
def execVslide (f : VF) (s : State) : Out State := vectorOp s (.vslide f) f 4

/-- vperm (R220). -/
def execVperm (f : VF) (s : State) : Out State := vectorOp s (.vperm f) f 4

/-- vscan (R221, R222). -/
def execVscan (f : VF) (s : State) : Out State := vectorOp s (.vscan f) f 4

/-- vred (R223). -/
def execVred (f : VF) (s : State) : Out State := vectorOp s (.vred f) f (latIF f 2 4)

/-- vpopc (R223). -/
def execVpopc (f : VF) (s : State) : Out State := vectorOp s (.vpopc f) f 2

/-- vdot4 (R224). -/
def execVdot4 (f : VF) (s : State) : Out State := vectorOp s (.vdot4 f) f 5

/-- vclass (R225). -/
def execVclass (f : VF) (s : State) : Out State := vectorOp s (.vclass f) f 4

/-- vadds (R213). -/
def execVadds (f : VF) (s : State) : Out State := vectorOp s (.vadds f) f (latIF f 2 4)

/-- vmuls (R213). -/
def execVmuls (f : VF) (s : State) : Out State := vectorOp s (.vmuls f) f 4

/-- vfmas (R213). -/
def execVfmas (f : VF) (s : State) : Out State := vectorOp s (.vfmas f) f 5

/-- vmins (R213). -/
def execVmins (f : VF) (s : State) : Out State := vectorOp s (.vmins f) f (latIF f 2 4)

/-- vmaxs (R213). -/
def execVmaxs (f : VF) (s : State) : Out State := vectorOp s (.vmaxs f) f (latIF f 2 4)

/-- vminn (R213). -/
def execVminn (f : VF) (s : State) : Out State := vectorOp s (.vminn f) f 2

/-- vmaxn (R213). -/
def execVmaxn (f : VF) (s : State) : Out State := vectorOp s (.vmaxn f) f 2

end Sys2Proof.Machine
end

