-- ==== Sys2Proof/Machine/Fabric.lean ====
section
/-! DEFINITION. Fabric operations at their source and their fates (R257 to R272): issue, sending, acknowledgements, data and replies, masked sums, and ports and peers that are lost. -/

namespace Sys2Proof.Machine

open Sys2Proof

/-! ### Checks at issue (R258, R259, R262) -/

/-- Operations that need a Shenen port in Shenen mode (R258, R259). -/
def FabKind.shenenOnly : FabKind → Bool
  | .amo | .sum => true
  | _ => false

/-- The route to a device carries an operation of a world (R258, R259, R361). -/
def State.carries (s : State) (world dev : Nat) (kind : FabKind) : Bool :=
  match SMap.find s.routes dev with
  | none => false
  | some port =>
    let p := SMap.get s.ports Port.reset port
    (s.linkKey world dev).isSome
      && (if dev < 4608 then port < 16 && (p.shenen || (dev < 1024 && !kind.shenenOnly)) else 16 ≤ port && !kind.shenenOnly)

/-- The route to a device carries an operation of the strand being issued. -/
def State.routeCarries (s : State) (dev : Nat) (kind : FabKind) : Bool := s.carries s.strand.world dev kind

/-- Steps 1 to 3 of R262. -/
def State.peerFault (s : State) (p : Word) (kind : FabKind) : Option Nat :=
  match peerPtr p with
  | none => some cSpace
  | some a => if a.1 == s.device || s.asks ((SMap.find s.routes a.1).isNone || !s.routeCarries a.1 kind) then some cSpace else none

/-- Step 5 of R262: alignment and one page of the window. -/
def peerRangeBad (p : Word) (bytes align : Nat) : Bool :=
  let off := Word.field p 0 37
  off % align != 0 || Config.pageBytes < off % Config.pageBytes + bytes

/-- Fabric operations that a strand has in progress (R262 step 6). -/
def State.fabOf (s : State) (c t : Nat) : Nat := (s.fab.filter fun o => o.info.core == c && o.info.strand == t).length

def State.fabFull (s : State) : Bool := 32 ≤ s.fabOf s.cur.core s.cur.strand

/-- Steps 5 to 7 of R163 on the local side of a fabric operation, after `sideFault` and a ring that blocks: raw bytes, BFMT checked for validity (R262). -/
def State.localFault (s : State) (p : Place) (sync : BitVec 4) : Option Nat :=
  if s.placeBad p then some cBank
  else if s.syncMissing sync then some cSpace
  else none

/-- A fabric operation as it issues. -/
def State.newFab (s : State) (kind : FabKind) (peer : Word) (side : Place) (bytes : Nat) (notify : Bool) (sync : BitVec 4) : FabOp :=
  { info := s.newInfo clsF (s.syncPtr sync), kind := kind, peer := peer, localSide := side, bytes := bytes, notify := notify, data := [],
    wide := false, ret := none, aop := 0, v := 0, c := 0, ident := 0, resendAt := none, poisoned := false, sent := false, bad := [],
    got := 0, put := 0, lost := false, env := none }

def State.queueFab (s : State) (o : FabOp) : State := { s.bumpId with fab := s.fab ++ [o] }

/-- pput and pget: `peer` and `side` pointers, and whether the local side is written (R264). -/
def putGet (s : State) (f : PutF) (kind : FabKind) (peer side : Word) (spaces : List Nat) (writes : Bool) : Out State :=
  let bytes := 64 * (f.cnt.toNat + 1)
  match s.peerFault peer kind with
  | some e => s.fault e
  | none =>
    if !spaceIn spaces side then s.fault cSpace
    else match s.sidePlace side with
      | .error e => s.fault e
      | .ok p =>
        match s.asked (s.sideFault p .none bytes 0) with
        | some e => s.fault e
        | none =>
          if s.sideBlocked p writes then s.block
          else match s.asked (s.localFault p f.sync) with
            | some e => s.fault e
            | none =>
              if peerRangeBad peer bytes 64 then s.fault cAlign
              else if s.fabFull then s.fault cSched
              else
                let q := s.withSlot p writes
                ((s.queueFab (s.newFab kind peer q bytes f.notify f.sync)).takeSide q writes).ok

/-- pput: write lines to a peer (R264). -/
def execPput (f : PutF) (s : State) : Out State := putGet s f .put (s.src f.y) (s.src f.x) [1, 2, 5] false

/-- pget: read lines from a peer (R264). -/
def execPget (f : PutF) (s : State) : Out State := putGet s f .get (s.src f.x) (s.src f.y) [1, 2, 5, 7] true

/-- pputv: write the first columns of a vector register to a peer (R264). -/
def execPputv (f : PutvF) (s : State) : Out State :=
  let cols := 2 * 2 ^ f.width.toNat
  let peer := s.src f.x
  match s.peerFault peer .putv with
  | some e => s.fault e
  | none =>
    if s.syncMissing f.sync then s.fault cSpace
    else if peerRangeBad peer (16 * cols) (16 * cols) then s.fault cAlign
    else if s.fabFull then s.fault cSched
    else
      let o := s.newFab .putv peer .none (16 * cols) f.notify f.sync
      let s1 := s.queueFab o
      let fl : Flight :=
        { t := s.strand.ctime, instr := .pputv f, c0 := 0, cols := cols, dcols := 0, lat := 0, s := 0, u := 0, a := 0, b := 0, c := 0,
          em := 0, cm := 0, sc := 0, seen := 0, emFixed := false, block := [], record := [], recBad := false, flags := [], fmt := 0,
          opId := o.info.id }
      (s1.putStrand (s1.strand.hold ⟨.vector fl, false, []⟩)).ok

/-- pamo: an atomic at a peer (R264, R266, R267). -/
def execPamo (f : PamoF) (s : State) : Out State :=
  let peer := s.src f.x
  let w := if f.wide then 8 else 4
  let q := f.q.toNat
  match s.peerFault peer .amo with
  | some e => s.fault e
  | none =>
    let r := s.core.ring q
    if f.ret && (!r.configured || ringSizeCode r.desc == 0) then s.fault cRing
    else if f.ret && s.noPermit s.cur.core q then s.block
    else if f.ret && !bfmtValid (s.core.fmt (ringBank r.desc)) then s.fault cBank
    else if s.syncMissing f.sync then s.fault cSpace
    else if peerRangeBad peer w w then s.fault cAlign
    else if s.fabFull then s.fault cSched
    else
      let side := if f.ret then s.withSlot (.ring s.cur.core q 0) true else .none
      let o := { s.newFab .amo peer side 8 false f.sync with
        wide := f.wide, ret := if f.ret then some q else none, aop := f.aop, v := s.src f.y, c := s.src (f.y + 1) }
      let s1 := s.queueFab o
      (if f.ret then s1.takeSide side true else s1).ok

/-- csum: a masked sum over a group (R271, R272). The FabOp's peer is the descriptor's pointer. Its route is that of the group, which stands in the descriptor; a fault there is imprecise, so steps 1 to 3 of R262 are looked at when the descriptor is read (log 23, DEDUCED). -/
def execCsum (f : CopyF) (s : State) : Out State :=
  let x := s.src f.x
  let y := s.src f.y
  let bytes := 64 * (f.cnt.toNat + 1)
  if Word.space x != 1 || Word.space y != 1 then s.fault cSpace
  else match s.sidePlace x, s.sidePlace y with
    | .error e, _ => s.fault e
    | _, .error e => s.fault e
    | .ok d, .ok p =>
      if rangeBad d 64 || rangeBad p bytes then s.fault cAlign
      else if s.placeBad d then s.fault cBank
      else match s.localFault p f.sync with
        | some e => s.fault e
        | none =>
          if s.fabFull then s.fault cSched
          else (s.queueFab (s.newFab .sum x p bytes false f.sync)).ok

/-! ### Sending (R165, R269, R271, R272) -/

def FabOp.device (o : FabOp) : Nat := Word.field o.peer 43 13

/-- The local side as a copy's side (R264). -/
def FabOp.asCopy (o : FabOp) : CopyOp :=
  { info := o.info, kind := .copy, src := o.localSide, dst := o.localSide, len := o.bytes, dlen := o.bytes, sfmt := 0, dfmt := 0, arg := 0, read := none,
    got := o.got, put := o.put, ahead := [], vctl := (o.env.map (·.1)).getD 0, srcWheels := (o.env.map (·.2)).getD [], dstWheels := (o.env.map (·.2)).getD [] }

/-- A csum descriptor (R271). -/
structure SumDesc where
  group : Nat
  width : Nat
  seq : Nat
  bad : Bool
  deriving DecidableEq, Repr

def SumDesc.ofBytes (b : List Byte) : SumDesc :=
  { group := leNat (b.take 2), width := (b.getD 2 0).toNat, seq := leNat ((b.drop 8).take 8),
    bad := 62 < (b.getD 2 0).toNat || b.getD 3 0 != 0 || 64 ≤ leNat (b.take 2)
      || ((b.drop 4).take 4 ++ (b.drop 16)).any (· != 0) }

/-- PRF(K, s, e) (R272). -/
def prf (k : BitVec 256) (s e : Nat) : Nat :=
  (Config.aes256 k ((BitVec.ofNat 64 s) ++ (BitVec.ofNat 64 e))).toNat % 2 ^ 64

/-- The pairwise keys of a group's member on this device, one for each member: with each other device, from the secret of their binding (R271, R361). -/
def State.groupKeys (s : State) (world group : Nat) (g : Group) : List (BitVec 256) :=
  g.devices.map fun d => match s.linkKey world d with
    | some k => groupKey k group
    | none => 0

/-- The mask of member `i` for element `e`, by the pairwise keys with the members (R272). -/
def sumMask (keys : List (BitVec 256)) (i s e : Nat) : Int :=
  keys.zipIdx.foldl (fun m k => if i < k.2 then m + prf k.1 s e else if k.2 < i then m - prf k.1 s e else m) 0

/-- Element value for a masked sum (R272). -/
def sumElem (w : Word) (F : Nat) : Int := toIntRange .rne (-(2 ^ 63 : Int)) (2 ^ 63 - 1) ((fmtF64.decode w.toNat).shift F)

/-- What a member sends (R272). -/
def sumSent (keys : List (BitVec 256)) (d : SumDesc) (i : Nat) (bs : List Byte) : List Byte :=
  (List.range (bs.length / 8)).flatMap fun e =>
    let v := sumElem (word (leNat ((bs.drop (8 * e)).take 8))) d.width
    leBytes 8 ((v + sumMask keys i d.seq e) % (2 ^ 64 : Int)).toNat

/-- Change a fabric operation. -/
def State.modFab (s : State) (id : Nat) (f : FabOp → FabOp) : State :=
  { s with fab := s.fab.map fun o => if o.info.id == id then f o else o }

def State.dropFab (s : State) (id : Nat) : State := { s with fab := s.fab.filter fun o => o.info.id != id }

def State.findFab (s : State) (id : Nat) : Option FabOp := s.fab.find? fun o => o.info.id == id

/-- Write lines at a fabric operation's local side from the first that is not written yet, poisoned where `bad` numbers them (R264, R270). -/
def State.writeFab (s : State) (o : FabOp) (bytes : List Byte) (bad : List Nat) : State :=
  let out : CopyOut := ⟨List.replicate o.put 0 ++ bytes, bad.map (o.put / 64 + ·), [], false, []⟩
  s.writeDest o.asCopy out (o.put / 64) (Nat.min (bytes.length / 64) ((o.bytes - o.put) / 64))

/-- The last lines at a fabric operation's local side, with its count, slot and retirement (R264, R270; log 40, DEDUCED). -/
def State.finishFab (s : State) (o : FabOp) (bytes : List Byte) (writes : Bool) (bad : List Nat) : State :=
  let s1 := if writes then s.writeFab o bytes bad else s
  let s2 := (s1.dropFab o.info.id).countFor o.info o.bytes (!bad.isEmpty || o.poisoned)
  let s3 := if writes then (match o.localSide with
    | .ring c q sl => s2.completeSlot c q sl
    | _ => s2) else s2
  s3.arriveOp o.info

/-- The return slot of a pamo, written whole (R266, R270). -/
def State.finishAmo (s : State) (o : FabOp) (old : Word) (bad : Bool) : State :=
  let s1 := match o.localSide with
    | .ring c q sl =>
      let d := ((s.coreAt c).ring q).desc
      (s.modCore c fun k => k.writeRun o.info.world (runSlot d sl) (fun _ => bad) 0 (ringSlot d / 64)
        (if bad then List.replicate (ringSlot d) 0 else leBytes 8 old.toNat ++ List.replicate (ringSlot d - 8) 0)).completeSlot c q sl
    | _ => s
  ((s1.dropFab o.info.id).countFor o.info 8 bad).arriveOp o.info

/-- Canonical NaNs (R111, R270). -/
def nanBytes (n : Nat) : List Byte := (List.range (n / 8)).flatMap fun _ => leBytes 8 fmtF64.nanCode

/-- The ring slot of a local side is popped and not yet read by the matrix unit: a write into it waits (R243). -/
def State.sidePending (s : State) (o : FabOp) : Bool := s.destPending o.asCopy

/-- A checkpoint learns that one of its puts has failed (R270, R375). -/
def State.ckFailed (s : State) (id : Nat) : State :=
  { s with cks := s.cks.map fun c => if c.puts.contains id then { c with failed := true } else c }

/-- A fabric operation as it starts, with the VCTL and the wheels that it finds; one that has started keeps its own (R39). -/
def State.fabStarted (s : State) (o : FabOp) : FabOp := { o with env := o.env.or (some (s.vctlOf o.localSide, s.wheelsOf o.localSide)) }

/-- The banks of a local side have R positions for the port engines (R39, R140). -/
def State.fabServed (s : State) (o : FabOp) : Bool := s.sideServed 768 (((s.fabStarted o).env.map (·.2)).getD []) o.localSide

/-- The fate of an operation that failed in flight (R263, R270), without its report (log 70, DEDUCED); the identifier of a pamo that is given up is not used again (log 106, DESIGN CHOICE). Lines not yet written are written poisoned, and a put that has not read its ring slot gives the slot back (R152). A write that the matrix unit, or a bank without R positions, holds back is left for later (R140, R243). -/
def State.failFab (s : State) (o : FabOp) : State :=
  match o.kind with
  | .put =>
    let s1 := (s.ckFailed o.info.id).finishFab { o with poisoned := true } [] false []
    match o.localSide with
    | .ring c q _ => if o.got < o.bytes then s1.giveBack c q else s1
    | _ => s1
  | .putv => s.finishFab { o with poisoned := true } [] false []
  | .get =>
    if s.sidePending o || !s.fabServed o then s.modFab o.info.id fun e => { e with lost := true }
    else s.finishFab o (List.replicate (o.bytes - o.put) 0) true (List.range ((o.bytes - o.put) / 64))
  | .amo => if s.sidePending o || !s.fabServed o then s.modFab o.info.id fun e => { e with lost := true } else s.finishAmo o 0 true
  | .sum => if !s.fabServed o then s.modFab o.info.id fun e => { e with lost := true } else s.finishFab o (nanBytes o.bytes) true []

/-- Operations of a strand that were issued before this one and are not done. -/
def State.fabBefore (s : State) (o : FabOp) : List FabOp :=
  (s.fab.takeWhile fun e => e.info.id != o.info.id).filter fun e => e.info.core == o.info.core && e.info.strand == o.info.strand

/-- An earlier request of the strand to the same device has not been answered for good: since it may still be put off by RETRY, none may pass it (R268, R269; log 40, DEDUCED). -/
def State.fabBehind (s : State) (o : FabOp) : Bool := (s.fabBefore o).any fun e => e.device == o.device && e.kind != .sum && o.kind != .sum

/-- Lines of the own device that an operation reads or writes, and those that it writes (R166, R264). -/
def State.fabSources (s : State) (o : FabOp) : List (Nat × Nat × Nat) := s.placeLines o.localSide o.bytes
def State.fabDests (s : State) (o : FabOp) : List (Nat × Nat × Nat) :=
  match o.kind with
  | .get | .amo | .sum => s.fabSources o
  | _ => []

/-- An earlier unfinished operation of the strand writes where this one reads or writes (R166, R264). -/
def State.fabHeld (s : State) (o : FabOp) : Bool :=
  let mine := s.fabSources o
  (s.fabBefore o).any fun e => (s.fabDests e).any mine.contains

/-- Identifiers from `a` to `b`, modulo 2^16 (log 71, DEDUCED). -/
def identDist (a b : Nat) : Nat := (b + 65536 - a) % 65536

/-- The identifier of the next pamo request to a device (R267; log 71, DEDUCED). -/
def State.nextIdent (s : State) (dev : Nat) : Nat := SMap.get s.amoIdent 0 dev

/-- A pamo request that would leave the 256 identifiers from the oldest unacknowledged one waits in the port engine (R267; log 71, DEDUCED). -/
def State.amoWaits (s : State) (o : FabOp) : Bool :=
  o.kind == .amo && s.fab.any fun e =>
    e.kind == .amo && e.sent && e.device == o.device && 256 ≤ identDist e.ident (s.nextIdent o.device)

/-- A request goes out: over the die bridge where the port sits on the other die, and on the port to a device (R102, R257; log 86, DESIGN CHOICE). -/
def State.sendTo (s : State) (o : FabOp) (dev : Nat) : State :=
  (match SMap.find s.routes dev with
   | some p => s.crossBridge o.info.world (dieOfCore o.info.core) (dieOfPort p)
   | none => s).countFrame o.info.world dev

/-- The group can be summed: the switch is reached through a Shenen port in Shenen mode, every member lies in the load/store domain, and the pairwise keys with the other members are agreed (R258, R259, R271, R361; log 23, DEDUCED). -/
def State.groupUsable (s : State) (world : Nat) (g : Group) : Bool :=
  (match SMap.find s.routes g.switch with
   | some p => g.switch < 4608 && p < 16 && (SMap.get s.ports Port.reset p).shenen
   | none => false)
    && g.own < g.devices.length
    && g.devices.zipIdx.all fun x => x.1 < 4608 && (x.2 == g.own || (s.linkKey world x.1).isSome)

/-- The port to a device is up. -/
def State.routeUp (s : State) (dev : Nat) : Bool :=
  match SMap.find s.routes dev with
  | some p => (SMap.get s.ports Port.reset p).up
  | none => false

/-- The fate of a csum whose descriptor is bad: UE, whose FADDR the manual does not give (R271, R329; log 8, DESIGN CHOICE, log 23, DEDUCED). -/
def State.badSum (s : State) (o : FabOp) : State :=
  let f := s.free
  (f.2.failFab o).reportOp o.info (imprecise cUe 0 f.1)

/-- A put reads its local side, one access at a time (R165, R311); with the last its ring slot's permit returns (R152). -/
def State.fabChunk (s : State) (o : FabOp) : State :=
  let n := Nat.min ((o.bytes - o.got) / 64) (s.accessLines o.localSide (o.got / 64))
  let r := s.readSource o.asCopy (o.got / 64) n
  let s1 := (r.state.reportFlags o.info.core o.info.strand r.flags).modFab o.info.id fun e =>
    { e with data := e.data ++ r.bytes, bad := e.bad ++ r.bad, poisoned := e.poisoned || !r.bad.isEmpty, got := o.got + 64 * n }
  match o.localSide with
  | .ring c q _ => if o.got + 64 * n == o.bytes then s1.giveBack c q else s1
  | _ => s1

/-- The port engine reads an operation's local side and sends its request (R165, R264, R269, R271). Poisoned lines of a csum's data take part as the zeros that they read as, and the operation counts with POIS (R272; log 107, DESIGN CHOICE). A bad csum descriptor, or one of a group that cannot be summed, ends the operation as a failure in flight, with UE (log 23, DEDUCED). -/
def State.fabSend (s : State) (o : FabOp) : State :=
  match o.kind with
  | .put => if o.got < o.bytes then s.fabChunk o else (s.modFab o.info.id fun e => { e with sent := true }).sendTo o o.device
  | .sum =>
    let w := s.worldAt o.info.world
    match s.resolveFor o.info o.peer with
    | none => s
    | some d =>
      let b := s.readSpad d.1 o.info.world d.2 64 (((s.fabStarted o).env.map (·.1)).getD 0)
      let desc := SumDesc.ofBytes b.bytes
      let r := b.state.readSource o.asCopy 0 (o.bytes / 64)
      let s1 := (r.state.reportFlags o.info.core o.info.strand b.flags).reportFlags o.info.core o.info.strand r.flags
      match SMap.find w.groups desc.group with
      | some g =>
        if desc.bad || !b.flags.isEmpty || !s.groupUsable o.info.world g then s1.badSum o
        else if !s.routeUp g.switch then s
        else (s1.modFab o.info.id fun e =>
          { e with data := sumSent (s.groupKeys o.info.world desc.group g) desc g.own r.bytes, ident := desc.width, v := word desc.group,
                   poisoned := !r.bad.isEmpty, sent := true }).sendTo o g.switch
      | none => s1.badSum o
  | .putv => if o.data.isEmpty then s else (s.modFab o.info.id fun e => { e with sent := true }).sendTo o o.device
  | .get => (s.modFab o.info.id fun e => { e with sent := true }).sendTo o o.device
  | .amo =>
    let n := s.nextIdent o.device
    ({ s.modFab o.info.id fun e => { e with ident := n, sent := true } with
      amoIdent := SMap.set s.amoIdent o.device ((n + 1) % 65536) }).sendTo o o.device

end Sys2Proof.Machine
end

