-- ==== Sys2Proof/Machine/Dram.lean ====
section
/-! DEFINITION. Play-out of the command queues and the seal's side of it (R54, R55, R62 to R65, R68 to R77, R90 to R99): commands played, grains landed, lines judged and committed, the refresh clock and the row-open limit. -/

namespace Sys2Proof.Machine

open Sys2Proof

/-! ### Places -/

/-- Physical line address of a grain's line (R90). -/
def plaOf (key sid bg bank row col : Nat) : Nat := key * 2 ^ 23 + sid * 2 ^ 21 + bg * 2 ^ 19 + bank * 2 ^ 17 + row * 8 + col / 2

/-- Byte address of a grain in data memory (R90). -/
def grainAddr (key sid bg bank row col : Nat) : Nat := plaOf key sid bg bank row col * 128 + col % 2 * 64

def Cmd.bankNo (c : Cmd) : Nat := Sys2Proof.Machine.bankNo c.sid c.bg c.bank
def Cmd.pla (c : Cmd) (key line : Nat) : Nat := plaOf key c.sid c.bg c.bank c.row 0 + c.col / 2 + line

/-- Number of footprint grains: reads cover whole lines, writes name them (R72, R76). -/
def Cmd.foot (c : Cmd) : Nat := (footprint c.col c.n).2

/-- Lines of the footprint. -/
def Cmd.lines (c : Cmd) : Nat := c.foot / 2

/-- The landed grains of line `j`: first one and how many (R72). -/
def Cmd.grainsOf (c : Cmd) (j : Nat) : Nat × Nat :=
  let lo := 2 * j - c.col % 2
  let hi := Nat.min c.n (2 * (j + 1) - c.col % 2)
  (lo, hi - lo)

def Cmd.transposes (c : Cmd) : Bool :=
  match c.instr with
  | .mrdt _ => true
  | _ => false

/-- The payload of an `mrdt`, which lands whole (R75). -/
def Cmd.lumped (c : Cmd) : Bool :=
  c.transposes && (match c.target with
    | .scale _ _ _ => false
    | _ => true)

/-- Timing profile of a command's workgroup (R57). -/
def State.profileOf (s : State) (i : OpInfo) : Config.Profile := Config.profile (((s.wgAt i.wg).map (·.mprof)).getD 0x47)

/-- The channel, core and strand that command a PC (R53). -/
def State.commander (s : State) (key : Nat) : Option (Chan × Nat × Nat) :=
  match (s.pcAt key).owner.bind s.wgAt with
  | none => none
  | some w =>
    match w.window.find? (fun c => c.pc == some (key / 64, key % 64)) with
    | none => none
    | some c => (w.coreOf c.rank).map fun k => (c, k, c.strand)

/-- Data-window VA of a bank's row 0 (R329); the manual gives none for a SID that the window does not map (log 8, DESIGN CHOICE). -/
def Chan.bankVa (c : Chan) (b : Nat) (free : Word) : Word :=
  match c.sids.find? (fun p => p.2 == bankSid b) with
  | some p => word (c.lchan * 2 ^ 30 + p.1 * 2 ^ 28 + bankBg b * 2 ^ 26 + b % 4 * 2 ^ 24)
  | none => free

/-- Report a forced action to the strand that commands the PC (R64). -/
def State.reportForced (s : State) (key b code detail : Nat) : State :=
  match s.commander key with
  | none => s
  | some c =>
    let p := s.free
    p.2.report c.2.1 c.2.2 (imprecise code detail (c.1.bankVa b p.1))

/-! ### Banks as played (R62 to R65) -/

def Pc.openBank (p : Pc) (b row t tRAS : Nat) : Pc :=
  { p with
    played := SMap.set p.played b (row, t)
    rowOrder := p.rowOrder.filter (fun r => r.1 != b) ++ [(b, row)]
    forced := p.forced.filter (· != b)
    overdue := p.overdue.filter (· != b)
    closeOk := SMap.set p.closeOk b (t + tRAS) }

def Pc.closeBank (p : Pc) (b t : Nat) : Pc :=
  if (SMap.find p.played b).isSome then
    { p with played := SMap.erase p.played b, rowOrder := p.rowOrder.filter (fun r => r.1 != b), overdue := p.overdue.filter (· != b), lastP := SMap.set p.lastP b t }
  else p

def Pc.delayClose (p : Pc) (b t : Nat) : Pc := { p with closeOk := SMap.set p.closeOk b (Nat.max (SMap.get p.closeOk 0 b) t) }

/-- A refresh lowers a bank's debt, to −8 at the least (R63). -/
def Pc.refreshed (p : Pc) (b : Nat) : Pc := { p with debt := SMap.set p.debt b (max (SMap.get p.debt 0 b - 1) (-8)) }

/-- A forced close plays its P at tick `t`, and holds the PC for tRP (R62, R64, R65). -/
def Pc.forceClose (p : Pc) (prof : Config.Profile) (b t : Nat) : Pc :=
  { p.closeBank b t with forced := b :: p.forced.filter (· != b), closing := p.closing.filter (· != b), ready := Nat.max p.ready (t + prof.tRP) }

/-- A forced refresh plays its F at tick `t`, and holds the PC for tRFCpb (R62, R64). -/
def Pc.forceRefresh (p : Pc) (prof : Config.Profile) (b t : Nat) : Pc :=
  { p.refreshed b with
    refreshing := p.refreshing.filter (· != b), ready := Nat.max p.ready (t + prof.tRFCpb), refreshOk := Nat.max p.refreshOk (t + prof.tPBR2PBR) }

/-- The bank is open as played. -/
def Pc.isOpen (p : Pc) (b : Nat) : Bool := (SMap.find p.played b).isSome

/-- The minima allow a forced close of the bank at tick `t` (R62). -/
def Pc.closesAt (p : Pc) (b t : Nat) : Bool := SMap.get p.closeOk 0 b ≤ t

/-- The minima allow a forced refresh of a closed bank at tick `t` (R62). -/
def Pc.refreshesAt (p : Pc) (prof : Config.Profile) (b t : Nat) : Bool :=
  !p.isOpen b && p.refreshOk ≤ t && (match SMap.find p.lastP b with
    | some q => q + prof.tRP ≤ t
    | none => true)

/-- A bank is to be closed by force, if it is open. -/
def Pc.toClose (p : Pc) (b : Nat) : Pc := if p.isOpen b && !p.closing.contains b then { p with closing := p.closing ++ [b] } else p

/-- A bank is to be refreshed by force, after a forced close where it is open (R64). -/
def Pc.toRefresh (p : Pc) (b : Nat) : Pc :=
  if p.refreshing.contains b then p else { p.toClose b with refreshing := p.refreshing ++ [b] }

/-- Grant a PC: banks closed, the grant point is tick 0 of the nominal timeline and predecessor of the first command (R54; log 36, DEDUCED). -/
def Pc.grant (p : Pc) (wg world now : Nat) : Pc :=
  let t := Nat.max now p.ready
  { p with owner := some wg, world := world, nominal := 0, openRow := [], events := [], queue := [], lastPlay := t, ready := t,
           played := [], rowOrder := [], forced := [], reads := [], writes := [], closing := [], refreshing := [], overdue := [] }

/-- Release a grant whose commands have all played: rows are closed and the base die takes over refresh (R55; log 36, DEDUCED). -/
def Pc.release (p : Pc) (now : Nat) : Pc :=
  let last := p.played.foldl (fun t b => Nat.max t (SMap.get p.closeOk 0 b.1 + Config.profileG.tRP)) (Nat.max now p.ready)
  { p with owner := none, nominal := 0, openRow := [], events := [], played := [], rowOrder := [], forced := [], closing := [], refreshing := [], overdue := [], ready := last,
           debt := p.debt.map fun b => (b.1, min b.2 0) }

/-! ### Landing (R72, R73, R75, R98) -/

/-- A record as it lands: bytes 0 to 16 and 18 from memory, the rest 0; `mrdt` exchanges ρ and γ (R73, R75; log 35, DEDUCED). -/
def landRecord (swap : Bool) (b : List Byte) : List Byte :=
  [b.getD 0 0] ++ (if swap then recGammaBytes b ++ recRhoBytes b else recRhoBytes b ++ recGammaBytes b) ++ [0, b.getD 18 0]
    ++ List.replicate 13 0

/-- The 64-byte lines of a transposed payload, or the bytes of a transposed half-tile by destination row (R75). -/
def transposePayload (bits : Nat) (bs : List Byte) : List Byte :=
  if bits == 16 then
    -- 16 source rows of 32 elements become 32 rows of 16 elements
    let el := unpackElems 16 bs
    packElems 16 ((List.range 512).map fun k => el.getD (k % 16 * 32 + k / 16) 0)
  else packElems bits (transpose32 0 (unpackElems bits bs))

/-- Write bytes at a landing target from a byte of it on, inside one line. -/
def Core.landLine (k : Core) (world : Nat) (place : Place) (b : Nat) (bs : List Byte) (poison : Bool) : Core :=
  match place with
  | .spad _ bank off => k.writeLine world ((bank * 65536 + off + b) / 64) ((off + b) % 64) bs poison
  | .ring _ q sl => k.writeLine world (ringByte (k.ring q).desc sl b / 64) (b % 64) bs poison
  | _ => k

/-- Land one grain of a read at its place (R72, R73; log 35, DEDUCED). -/
def Core.landGrain (k : Core) (c : Cmd) (g : Nat) (bs : List Byte) (poison : Bool) : Core :=
  match c.target with
  | .scale _ bank off =>
    let i := bank * 128 + off / 32 + 2 * g
    (k.tileRec i (landRecord c.transposes (bs.take 32)) poison).tileRec (i + 1) (landRecord c.transposes (bs.drop 32)) poison
  | p => k.landLine c.info.world p (64 * g) bs poison

/-- The scale record of the tile that a command lands in, where its bank was scaled when it was issued (R39, R122, R148). -/
def Core.landRecordOf (k : Core) (c : Cmd) : Option Nat :=
  if !bfmtScaled c.fmt then none
  else match c.target with
  | .spad _ bank off => some (bank * 128 + off / tileBytes c.fmt)
  | .ring _ q sl => some (ringRecord (k.ring q).desc sl)
  | _ => none

/-- The generation of a record that has been written counts on, without a record write: a tile-granular write of the payload (R123, R125). A record that was never written keeps reading as zero (R136; log 92, DEDUCED). -/
def Core.countGen (k : Core) (i : Nat) : Core :=
  if (k.rec_ i).written then { k with scale := Memory.write k.scale (i * 32 + 17) (BitVec.ofNat 8 (k.prevGen i + 1)) } else k

/-- Land the whole transposed payload, or half-tile, of an `mrdt`, as a tile-granular write (R75, R123, R125). -/
def Core.landLump (k : Core) (c : Cmd) (bs : List Byte) (poison : Bool) : Core :=
  let bits := mrdtBits (bfmtElem c.fmt)
  let t := transposePayload bits bs
  let step := if bits == 16 then 32 else 64
  let k1 := (List.range (t.length / step)).foldl
    (fun k r => k.landLine c.info.world c.target (64 * r) ((t.drop (step * r)).take step) poison) k
  match k.landRecordOf c with
  | some i => k1.countGen i
  | none => k1

/-- Core that a command lands in. -/
def Cmd.targetCore (c : Cmd) : Nat :=
  match c.target with
  | .spad k _ _ => k
  | .ring k _ _ => k
  | .scale k _ _ => k
  | _ => c.info.core

/-- Space-1 or space-2 pointer to the line of a landed, or written, grain (R329); none is given for a scale record (log 8, DESIGN CHOICE). -/
def State.landPtr (s : State) (c : Cmd) (g : Nat) (free : Word) : Word :=
  let k := s.coreAt c.targetCore
  let line := match c.target with
    | .spad _ bank off => some ((bank * 65536 + off) / 64 + g)
    | .ring _ q sl => some (ringByte (k.ring q).desc sl (64 * g) / 64)
    | _ => none
  match line with
  | some l => s.linePtrFor c.info.core c.targetCore l
  | none => free

/-- DETAIL of a VERIFY report: the landing target of the failing line's first landed grain (R329); the manual gives no line number for a record (log 8, DESIGN CHOICE). -/
def State.verifyDetail (s : State) (c : Cmd) (g : Nat) (free : Word) : Nat :=
  let rank := (s.coreAt c.targetCore).rank
  match c.target with
  | .ring _ q _ => 2 ^ 31 + rank * 2 ^ 18 + q
  | .spad _ bank off => rank * 2 ^ 18 + bank * 2 ^ 14 + (off / 64 + (if c.lumped then 0 else g)) % 1024 * 16
  | .scale _ bank _ => rank * 2 ^ 18 + bank * 2 ^ 14 + free.toNat % 1024 * 16
  | _ => 0

/-! ### Play-out (R62, R65) -/

/-- Whether a withdrawn PC can still play a command is open (R83): a free value decides. -/
def State.withdrawnBad (s : State) (key : Nat) (c : Cmd) : Bool × State :=
  if s.goneSlices.contains (key / 64, key % 64, c.sid) then
    let p := s.free
    (p.1.getLsbD 0, p.2)
  else (false, s)

/-- Read the `n` grains of a command from data memory. -/
def State.grains (s : State) (key : Nat) (c : Cmd) : List Byte :=
  (List.range c.n).flatMap fun g => Memory.readN s.dram (grainAddr key c.sid c.bg c.bank c.row (c.col + g)) 64

/-- A line of a write whose source was bad is committed as a poisoned one (R76). -/
def Cmd.poisons (c : Cmd) (j : Nat) : Bool := c.poison.contains (2 * j) || c.poison.contains (2 * j + 1)

/-- The stored node, at a level of its stack's version tree, above a line, or its version block at level 0 (R95). -/
def nodeAbove (pla l : Nat) : Nat × Nat × Nat := (pla / 2 ^ 29, l, pla % 2 ^ 29 / 64 / 8 ^ l)

/-- A node is the version block of a line or stands above it (R95). -/
def inChain (pla : Nat) (x : Nat × Nat × Nat) : Bool := x == nodeAbove pla x.2.1

/-- Bring line `j` of a write to data memory, with its poison. Its tag, its version block and the nodes above it hold new values from then on, and are trusted (R76, R99; log 4, DEDUCED; log 73, DEDUCED). -/
def State.putLineOf (s : State) (key : Nat) (c : Cmd) (j : Nat) : State :=
  let pla := c.pla key j
  { s with
    dram := Memory.writeN s.dram (pla * 128) ((c.data.drop (128 * j)).take 128)
    dramErrs := s.dramErrs.filter fun e => e.1 != pla
    badLines := s.badLines.filter (· != pla)
    badTags := s.badTags.filter (· != pla)
    badNodes := s.badNodes.filter fun x => !inChain pla x
    failedNodes := s.failedNodes.filter fun x => !inChain pla x
    poisonLines := s.poisonLines.filter (· != pla) ++ (if c.poisons j then [pla] else []) }

/-- Bring the lines of a write to data memory, but for those named (R76, R94). -/
def State.putGrains (s : State) (key : Nat) (c : Cmd) (discarded : List Nat) : State :=
  ((List.range c.lines).filter fun j => !discarded.contains j).foldl (fun (s : State) j => s.putLineOf key c j) s

/-! ### Versions and the tree (R92 to R96) -/

/-- The slice of a line. -/
def sliceOfPla (pla : Nat) : Nat × Nat := (pla / 2 ^ 23, pla / 2 ^ 21 % 4)

/-- Advance a line's version; none where the major would be carried over (R92 to R94). -/
def State.advance (s : State) (pla : Nat) : Option State :=
  let m := SMap.get s.minors 0 pla
  let block := pla / 64
  if m != 127 then some { s with minors := SMap.set s.minors pla (m + 1) }
  else
    let major := SMap.get s.majors 0 block
    if major == BitVec.allOnes 64 then none
    else some { s with majors := SMap.set s.majors block (major + 1), minors := s.minors.filter fun x => x.1 / 64 != block }

/-- Versions after the writes of a PC that have played and not committed. -/
def State.afterPending (s : State) (key : Nat) : State :=
  (s.pcAt key).writes.foldl (fun (s : State) d =>
    (List.range d.cmd.lines).foldl (fun (s : State) j => if j < d.judged then s else (s.advance (d.cmd.pla key j)).getD s) s) s

/-- Lines of a write that will be discarded, because their major cannot be carried over (R94; log 67, DEDUCED). -/
def State.exhausted (s : State) (key : Nat) (c : Cmd) : List Nat :=
  let s1 := s.afterPending key
  (List.range c.lines).filter fun j => (s1.advance (c.pla key j)).isNone

/-- MACs of the stack's data lines: 3.5 GiB (R48). -/
def macBytes : Nat := 14 * 2 ^ 28
/-- Version blocks: 448 MiB, after the MACs (R48; log 56, DEDUCED). -/
def versionBytes : Nat := 448 * 2 ^ 20
/-- First byte of the remainder: the tree levels above the blocks take the 64 MiB before it (R48; log 56, DEDUCED). -/
def remainderAt : Nat := 2 ^ 32
/-- First byte of the move reserve, the last 2 GiB (R48, R84). -/
def reserveAt : Nat := 3 * 2 ^ 31

/-- Levels of the tree above the version blocks, with their nodes, as stored in order (R95). -/
def treeLevels : List (Nat × Nat) := [(1, 917504), (2, 114688), (3, 14336), (4, 1792), (5, 224), (6, 28), (7, 4)]

/-- The line's ciphertext has been changed, or has an uncorrectable cell error, so its tag does not match (R93, R97, R104; log 73, DEDUCED). -/
def State.lineChanged (s : State) (pla : Nat) : Bool := s.badLines.contains pla || s.dramErrs.contains (pla, true)

/-- Nodes stored before those of a level (R95). -/
def nodesBefore (l : Nat) : Nat := ((treeLevels.filter fun x => x.1 < l).map (·.2)).foldl (· + ·) 0

/-- Addresses, in the logical system slices of all stacks, of a line's tag and of its version block and the nodes above it (R48, R93, R95; log 56, DEDUCED). -/
def metaAddrs (pla : Nat) : List Nat :=
  let base := pla / 2 ^ 29 * 2 ^ 33
  (base + pla % 2 ^ 29 * 8) :: (base + macBytes + pla % 2 ^ 29 / 64 * 64)
    :: (List.range 7).map fun l => base + macBytes + versionBytes + (nodesBefore (l + 1) + pla % 2 ^ 29 / 64 / 8 ^ (l + 1)) * 64

/-- What the check of a line rests on and has been changed, or has an uncorrectable cell error: 0 its tag, l + 1 the node of level l above it (R93, R95, R104). -/
def State.wrongAbove (s : State) (pla : Nat) : List Nat :=
  let cells := if s.dramErrs.isEmpty then [] else (metaAddrs pla).map fun a => s.dramErrs.contains (s.sysPla a, true)
  (List.range 9).filter fun l => cells.getD l false || (if l == 0 then s.badTags.contains pla else s.badNodes.contains (nodeAbove pla (l - 1)))

/-- The stored tag of the line, its version block or a node above it is wrong. -/
def State.lineUntrusted (s : State) (pla : Nat) : Bool := !(s.wrongAbove pla).isEmpty

/-- The check of a line has failed at its tag (0), or at a node above it: that is not trusted any more until it is written anew (R96). -/
def State.failCheck (s : State) (pla l : Nat) : State :=
  if l == 0 then { s with badLines := s.badLines ++ [pla] } else { s with failedNodes := s.failedNodes ++ [nodeAbove pla (l - 1)] }

/-- The check of a node above the line has failed (R96). -/
def State.belowFailed (s : State) (pla : Nat) : Bool := s.failedNodes.any (inChain pla)

/-- The verdict on a line: whether it fails. A changed tag, version block or node fails it only where the check reaches it: what the metadata cache holds is trusted, and which tags and nodes it holds is open. Where a check has failed at a node, every later check below that node fails (R96, R97; log 73, DEDUCED). -/
def State.judgeLine (s : State) (pla : Nat) : Bool × State :=
  if s.lineChanged pla || s.belowFailed pla then (true, s)
  else match s.wrongAbove pla with
  | [] => (false, s)
  | l :: ls =>
    let f := s.free
    if f.1.getLsbD 0 then (true, f.2.failCheck pla ((l :: ls).getD (f.1.toNat / 2 % (ls.length + 1)) l)) else (false, f.2)

/-- The lines of a list that fail. -/
def State.judgeLines (s : State) (plas : List Nat) : List Nat × State :=
  plas.foldl (fun (r : List Nat × State) pla =>
    let v := r.2.judgeLine pla
    (if v.1 then r.1 ++ [pla] else r.1, v.2)) ([], s)

/-- A node or version block lies within one slice. -/
def nodeOfSlice (key sid : Nat) (x : Nat × Nat × Nat) : Bool := x.1 == key / 64 && x.2.1 ≤ 5 && x.2.2 / 8 ^ (5 - x.2.1) == key % 64 * 4 + sid

/-- Every line of a slice is written anew, with its tag and versions: what was wrong with them is gone (R94, R101). -/
def State.soundSlice (s : State) (key sid : Nat) : State :=
  { s with
    dramErrs := s.dramErrs.filter fun e => sliceOfPla e.1 != (key, sid)
    badNodes := s.badNodes.filter fun x => !nodeOfSlice key sid x
    failedNodes := s.failedNodes.filter fun x => !nodeOfSlice key sid x
    badTags := s.badTags.filter fun l => sliceOfPla l != (key, sid)
    badLines := s.badLines.filter fun l => sliceOfPla l != (key, sid) }

/-- A line failed its verification: an event in category 1 (R98, R343, R345). -/
def State.verifyEvent (s : State) (world pla : Nat) : State :=
  s.errorEvent { cat := 1, code := cVerify, world := world, corrected := false, injected := false, loc := word pla }

/-! ### Check-and-scrub by refresh (R71, R342) -/

/-- The world that a physical slice is mapped to; 0 for none. -/
def State.worldOfSlice (s : State) (key sid : Nat) : Nat :=
  ((s.worlds.find? fun w => w.2.slices.any fun x => x.2 == (key / 64, key % 64, sid)).map (·.1)).getD 0

/-- The world that owns a line: of a data slice, or of the page frame that holds a line of a system channel; 0 for none. -/
def State.worldOfLine (s : State) (pla : Nat) : Nat :=
  match s.sysAddr pla with
  | some a => ((SMap.find s.frames (a / Config.pageBytes)).map (·.1)).getD 0
  | none => s.worldOfSlice (sliceOfPla pla).1 (sliceOfPla pla).2

/-- An error that a check of main memory found: counted in category 0 or 1, no fault raised (R71, R343, R345). -/
def State.dramError (s : State) (e : Nat × Bool) : State :=
  s.errorEvent { cat := if e.2 then 1 else 0, code := 0xFF, world := s.worldOfLine e.1, corrected := !e.2, injected := false, loc := word e.1 }

/-- The next row of a refreshed bank in the patrol order is checked; single errors are corrected (R71; log 79, DESIGN CHOICE). -/
def State.patrolBank (s : State) (key b : Nat) : State :=
  let p := s.pcAt key
  let r := SMap.get p.patrol 0 b
  let row := plaOf key (bankSid b) (bankBg b) (b % 4) r 0 / 8
  let s1 := (s.setPc key { p with patrol := SMap.set p.patrol b ((r + 1) % 16384) })
  (s.dramErrs.filter fun e => e.1 / 8 == row).foldl State.dramError
    { s1 with dramErrs := s.dramErrs.filter fun e => e.1 / 8 != row || e.2 }

/-- Every bank of a PC is patrolled (log 79, DESIGN CHOICE). -/
def State.patrolPc (s : State) (key : Nat) : State := (List.range 64).foldl (fun (s : State) b => s.patrolBank key b) s

/-- Play a command at tick `t` (R62, R65, R69 to R71, R76; log 67, DEDUCED). -/
def State.play (s : State) (key t : Nat) (c : Cmd) : State :=
  let prof := s.profileOf c.info
  let p := { s.pcAt key with queue := (s.pcAt key).queue.drop 1, lastPlay := t }
  let b := c.bankNo
  let forced := p.forced.contains b
  let last := t + 4 * (c.foot - 1)
  let done (p : Pc) : State := (s.setPc key p).arriveOp c.info
  match c.instr with
  | .mact _ => done (p.openBank b c.row t prof.tRAS)
  | .mpre _ => done (p.closeBank b t)
  | .mprea _ => done ((List.range 64).foldl (fun p b => p.closeBank b t) p)
  | .mref _ => (done { p.refreshed b with refreshOk := Nat.max p.refreshOk (t + prof.tPBR2PBR) }).patrolBank key b
  | .mrefa _ => (done { (List.range 64).foldl Pc.refreshed p with refreshOk := Nat.max p.refreshOk (t + prof.tRFCab) }).patrolPc key
  | .mwr _ =>
    let w := s.withdrawnBad key c
    let s1 := w.2.setPc key p
    if forced || w.1 then
      let s2 := if w.1 then s1.reportOp c.info (imprecise cUe 0 c.va) else s1
      s2.arriveOp c.info
    else
      let gone := s1.exhausted key c
      let p1 := { p.delayClose b (last + prof.tWL + prof.tBURST + prof.tWR) with
        writes := p.writes ++ [{ cmd := c, tick := t, world := c.info.world, bad := false, data := [], landed := c.n, judged := 0, fails := gone, pois := [] }] }
      (s1.setPc key p1).putGrains key c gone
  | .mrd _ | .mrdt _ =>
    let w := s.withdrawnBad key c
    let v := (if w.1 then w.2.reportOp c.info (imprecise cUe 0 c.va) else w.2).judgeLines ((List.range c.lines).map (c.pla key))
    let s1 := v.2
    let d : Drain :=
      { cmd := c, tick := t, world := c.info.world, bad := forced || w.1, data := s.grains key c, landed := 0, judged := 0,
        fails := (List.range c.lines).filter fun j => v.1.contains (c.pla key j)
        pois := (List.range c.lines).filter fun j => s.poisonLines.contains (c.pla key j) }
    let p1 := { p.delayClose b (last + prof.tRTP) with reads := p.reads ++ [d] }
    s1.setPc key p1
  | _ => done p

/-- A command or its data crosses the die bridge in a frame of its own, where the PC and the core lie on different dies (R102; log 86, DESIGN CHOICE). -/
def State.dataFrame (s : State) (key : Nat) (c : Cmd) : State := s.crossBridge c.info.world (dieOfCore c.targetCore) (dieOfStack (key / 64))

/-- The profile in force on a PC. -/
def State.pcProfile (s : State) (key : Nat) : Config.Profile :=
  Config.profile ((((s.pcAt key).owner.bind s.wgAt).map (·.mprof)).getD 0x47)

/-! ### Deadlines (R63, R64) -/

/-- The base die plays a forced close of a bank, where the minima allow it now; a bank that has closed meanwhile needs none (R62, R64). -/
def State.forcedClose (s : State) (key b : Nat) : State :=
  let p := s.pcAt key
  if !p.isOpen b then s.setPc key { p with closing := p.closing.filter (· != b) }
  else if p.closesAt b s.tick then s.setPc key (p.forceClose (s.pcProfile key) b s.tick)
  else s

/-- The base die plays a forced refresh of a bank, where the minima allow it now: REFDEBT is raised, and the row in patrol order checked (R62, R64, R71; log 79, DESIGN CHOICE). -/
def State.forcedRefresh (s : State) (key b : Nat) : State :=
  let p := s.pcAt key
  if p.refreshesAt (s.pcProfile key) b s.tick then
    ((s.setPc key (p.forceRefresh (s.pcProfile key) b s.tick)).reportForced key b cRefdebt 0).patrolBank key b
  else s

/-- The forced actions of a PC that play now (R62, R64). -/
def State.forcedActions (s : State) (key : Nat) : State :=
  let s1 := (s.pcAt key).closing.foldl (fun (s : State) b => s.forcedClose key b) s
  (s1.pcAt key).refreshing.foldl (fun (s : State) b => s.forcedRefresh key b) s1

/-- REFRESH_CLOCK: at each multiple of 6,240 ticks every debt of the PC rises by one, and a bank whose debt reaches 9 is to be refreshed by force; the base die refreshes a PC that nobody owns, with the check of R71 (R55, R63, R64). A debt of 9 whose refresh is still held off stays at 9, the most that a debt can be (R63; log 36, DEDUCED). -/
def execRefreshClock (stack pc : Nat) (s : State) : Out State :=
  let key := pcKey stack pc
  let p := s.pcAt key
  if s.tick < (p.refreshes + 1) * Config.tREFI then .next s
  else
    let top : Int := if p.owner.isNone then 0 else 9
    let debt := (List.range 64).foldl (fun (m : SMap Int) b => SMap.set m b (min (SMap.get m 0 b + 1) top)) p.debt
    let p1 := { p with debt := debt, refreshes := p.refreshes + 1 }
    let s1 := s.setPc key (((List.range 64).filter fun b => 9 ≤ SMap.get debt 0 b).foldl Pc.toRefresh p1)
    .next (if p.owner.isNone then s1.patrolPc key else s1)

/-- A row of the bank has been open for 56,160 ticks, and that has not been reported (R64). -/
def Pc.openTooLong (p : Pc) (b tick : Nat) : Bool :=
  match SMap.find p.played b with
  | none => false
  | some r => r.2 + Config.tRASMAX ≤ tick && !p.overdue.contains b

/-- ROW_OPEN_LIMIT: a row open for 56,160 ticks is closed by force as soon as its minima allow, and TIMING raised with code 30 (R62, R64). -/
def execRowOpenLimit (stack pc bank : Nat) (s : State) : Out State :=
  let key := pcKey stack pc
  let p := s.pcAt key
  if p.openTooLong bank s.tick then
    .next ((s.setPc key { p.toClose bank with overdue := bank :: p.overdue }).reportForced key bank cTiming 30)
  else .next s

/-- The state that an event leaves. -/
def State.andThen (s : State) (event : State → Out State) : State :=
  match event s with
  | .next t => t
  | _ => s

/-- The base die acts on the deadlines of a PC that have come: the refresh clock, rows open too long, and forced actions (R63, R64). -/
def State.pcDeadlines (s : State) (key : Nat) : State :=
  let s1 := s.andThen (execRefreshClock (key / 64) (key % 64))
  ((s1.pcAt key).played.foldl (fun (s : State) b => s.andThen (execRowOpenLimit (key / 64) (key % 64) b.1)) s1).forcedActions key

/-! ### Commands play (R62) -/

/-- Tick at which a PC's next command plays, if it reaches the sequencer at tick `arrive` (R62). -/
def Pc.playTick (p : Pc) (c : Cmd) (arrive : Nat) : Nat := Nat.max (Nat.max (p.lastPlay + c.delta) arrive) p.ready

/-- COMMAND_PLAY: the sequencer plays the next command of a PC when its tick has come; `arrive`, no earlier than the command's issue, is when it reaches the sequencer. What the base die must do at that tick comes first, and may hold the PC (R62, R64, R393; log 6, DESIGN CHOICE). -/
def execCommandPlay (stack pc arrive : Nat) (s : State) : Out State :=
  let key := pcKey stack pc
  let s1 := s.pcDeadlines key
  let p := s1.pcAt key
  match p.queue with
  | [] => .next s1
  | c :: _ =>
    if arrive < c.issued || s1.tick != p.playTick c arrive then .next s1
    else .next ((s1.play key s1.tick c).dataFrame key c)

/-- Tick at which a read's next grain, or its transposed payload, is written (R72, R75). -/
def Drain.landTick (d : Drain) (prof : Config.Profile) : Nat :=
  if d.cmd.lumped then d.tick + 4 * (d.cmd.foot - 1) + prof.tRL + 20 else d.tick + 4 * (d.cmd.col % 2 + d.landed) + prof.tRL + 16

/-- A landing waits: its slot is popped and not yet read by the matrix unit (R243). For its C position it waits in the write buffer, from which reads are served, so that wait does not show (R144). -/
def State.landBlocked (s : State) (c : Cmd) : Bool :=
  match c.target with
  | .ring k q sl => (s.coreAt k).slotPending q sl
  | _ => false

/-- The drain, of those that satisfy `ok`, with the least tick: its position. -/
def firstDrain (tick : Drain → Nat) (ok : Drain → Bool) (ds : List Drain) : Option Nat :=
  (ds.zipIdx.foldl (fun m d => if ok d.1 then (match m with
    | none => some (tick d.1, d.2)
    | some b => if tick d.1 < b.1 then some (tick d.1, d.2) else some b) else m) none).map (·.2)

/-- The line of a landed grain was committed as poisoned (R76). -/
def Drain.grainPoisoned (d : Drain) (g : Nat) : Bool := d.pois.contains ((d.cmd.col % 2 + g) / 2)

/-- Position of the PC's read that lands next at the present tick (R72, R144). -/
def State.nextLanding (s : State) (key : Nat) : Option Nat :=
  let tickOf (d : Drain) : Nat := d.landTick (s.profileOf d.cmd.info)
  firstDrain tickOf (fun d => d.landed < d.cmd.n && !s.landBlocked d.cmd && tickOf d ≤ s.tick) (s.pcAt key).reads

/-- GRAIN_LANDING: the next landing of a PC's played reads, at its tick (R72, R73, R75, R76, R144). Of a transposed payload with a line that was committed as poisoned, the whole is poisoned and POISON raised once (log 80, DESIGN CHOICE). -/
def execGrainLanding (stack pc : Nat) (s : State) : Out State :=
  let key := pcKey stack pc
  let p := s.pcAt key
  match s.nextLanding key with
  | none => .next s
  | some i =>
    match p.reads[i]? with
    | none => .next s
    | some d =>
        let c := d.cmd
        let zeros (n : Nat) : List Byte := List.replicate n 0
        if c.lumped then
          let pz := d.bad || !d.pois.isEmpty
          let s1 := ((s.dataFrame key c).modCore c.targetCore fun k => k.landLump c (if pz then zeros (64 * c.n) else d.data) pz).setPc key
            { p with reads := p.reads.set i { d with landed := c.n } }
          .next (if pz && !d.bad then s1.reportOp c.info (imprecise cPoison 0 (s1.landPtr c 0 0)) else s1)
        else
          let g := d.landed
          let pz := d.bad || d.grainPoisoned g
          let bs := if pz then zeros 64 else (d.data.drop (64 * g)).take 64
          let s1 := ((s.dataFrame key c).modCore c.targetCore fun k => k.landGrain c g bs pz).setPc key { p with reads := p.reads.set i { d with landed := g + 1 } }
          let f := s1.free
          .next (if pz && !d.bad then f.2.reportOp c.info (imprecise cPoison 0 (s1.landPtr c g f.1)) else s1)

/-! ### Verdicts and commits (R74, R76, R77, R92 to R99) -/

/-- Tick of the last grain of a drain's next line. -/
def Drain.lineTick (d : Drain) : Nat := d.tick + 4 * (2 * d.judged + 1)

/-- The Lintel's next line of a PC, in play-out order: a read (false) or a write (true), and its position (R77, R97, R99). -/
def Pc.nextLine (p : Pc) : Option (Bool × Nat) :=
  let r := firstDrain Drain.lineTick (fun _ => true) p.reads
  let w := firstDrain Drain.lineTick (fun _ => true) p.writes
  match r, w with
  | none, none => none
  | some i, none => some (false, i)
  | none, some i => some (true, i)
  | some i, some j =>
    match p.reads[i]?, p.writes[j]? with
    | some a, some b => if b.lineTick < a.lineTick then some (true, j) else some (false, i)
    | _, _ => none

/-- Add counted grains of a metered region to its meter, from the cluster that landed them (R367, R368). -/
def State.meterGrains (s : State) (c : Cmd) (n : Nat) : State :=
  match c.meter with
  | none => s
  | some m =>
    let s1 := s.modWorld c.info.world fun w =>
      { w with meters := SMap.set w.meters m (SMap.get w.meters 0 m + word n),
               recent := (s.ns, c.info.core / 12, m, n) :: w.recent.filter fun r => s.ns < r.1 + 10000 }
    s1.modWg c.info.wg fun g => { g with meterGrains := g.meterGrains + n }

/-- Poison what a failing line landed (R98). Overwriting a scale record that the line landed, or the payload of an `mrdt`, is a tile-granular write of its own, so the generation counts on once more with each failing line (R123; log 84, DESIGN CHOICE). -/
def Core.poisonLine (k : Core) (c : Cmd) (j : Nat) : Core :=
  if c.lumped then k.landLump c (List.replicate (64 * c.n) 0) true
  else
    let g := c.grainsOf j
    (List.range g.2).foldl (fun k i => k.landGrain c (g.1 + i) (List.replicate 64 0) true) k

/-- A read of a PC is complete: its ring slot is given and its syllable retires (R68, R74). -/
def State.finishRead (s : State) (c : Cmd) : State :=
  let s1 := match c.target with
    | .ring k q sl => s.completeSlot k q sl
    | _ => s
  s1.arriveOp c.info

/-- LINE_VERDICT: the Lintel judges the next line of a PC's reads (R74, R97, R98; log 6, DESIGN CHOICE; log 67, DEDUCED). -/
def execLineVerdict (stack pc : Nat) (s : State) : Out State :=
  let key := pcKey stack pc
  let p := s.pcAt key
  match p.nextLine with
  | some (false, i) =>
    match p.reads[i]? with
    | none => .next s
    | some d =>
      let c := d.cmd
      let g := c.grainsOf d.judged
      if d.landed < g.1 + g.2 then .next s
      else
        let pla := c.pla key d.judged
        let fails := !d.bad && d.fails.contains d.judged
        let pz := d.bad || fails || d.pois.contains d.judged
        let f := s.free
        let s1 := if fails then
            let s1 := (f.2.modCore c.targetCore fun k => k.poisonLine c d.judged).verifyEvent d.world pla
            s1.reportOp c.info (imprecise cVerify (s.verifyDetail c g.1 f.1) (word (pla * 128)))
          else s
        let s2 := s1.countFor c.info (64 * g.2) pz
        let s3 := if pz then s2 else s2.meterGrains c g.2
        if d.judged + 1 == c.lines then
          .next ((s3.setPc key { p with reads := p.reads.eraseIdx i }).finishRead c)
        else .next (s3.setPc key { p with reads := p.reads.set i { d with judged := d.judged + 1 } })
  | _ => .next s

/-- LINE_COMMIT: the next line of a PC's writes is committed and counted (R76, R94, R99; log 28, DEDUCED; log 67, DEDUCED). A line that is discarded raises UE with DETAIL 0 and the command's address (log 78, DESIGN CHOICE). -/
def execLineCommit (stack pc : Nat) (s : State) : Out State :=
  let key := pcKey stack pc
  let p := s.pcAt key
  match p.nextLine with
  | some (true, i) =>
    match p.writes[i]? with
    | none => .next s
    | some d =>
      let c := d.cmd
      let prof := s.profileOf c.info
      if s.tick < d.lineTick + prof.tWL + prof.tBURST then .next s
      else
        let pla := c.pla key d.judged
        let s1 :=
          if d.fails.contains d.judged then s.reportOp c.info (imprecise cUe 0 c.va)
          else
            let s2 := ((s.advance pla).getD s).countFor c.info 128 (c.poisons d.judged)
            match c.late.find? fun g => g / 2 == d.judged with
            | some g => s2.reportOp c.info (imprecise cPoison 0 (s2.landPtr c g 0))
            | none => s2
        if d.judged + 1 == c.lines then .next ((s1.setPc key { p with writes := p.writes.eraseIdx i }).arriveOp c.info)
        else .next (s1.setPc key { p with writes := p.writes.set i { d with judged := d.judged + 1 } })
  | _ => .next s

/-! ### What a PC does by the clock -/

/-- Grains that are still to land. -/
def Pc.grainsLeft (p : Pc) : Nat := (p.reads.map fun d => d.cmd.n - d.landed).foldl (· + ·) 0

/-- What a PC does by the clock at the present tick: landings, the refresh clock, rows open too long, and forced actions (R63, R64, R72, R144). -/
def State.pcDue (s : State) (key : Nat) : State :=
  let stack := key / 64
  let pc := key % 64
  let s1 := (List.range (s.pcAt key).grainsLeft).foldl (fun (s : State) _ => s.andThen (execGrainLanding stack pc)) s
  s1.pcDeadlines key

end Sys2Proof.Machine
end

