-- ==== Sys2Proof/Machine/SysChan.lean ====
section
/-! DEFINITION. What the system channels of a stack hold (R48, R84, R95), what becomes of a stored line that is lost or tampered with (R93 to R98, R104), and the frames of the system windows (R325, R359). -/

namespace Sys2Proof.Machine

open Sys2Proof

/-! ### Lines of the system channels (R48, R84, R95; log 56, DEDUCED) -/

/-- Level and index of the n-th stored node of a tree (R95). -/
def treeNode : List (Nat × Nat) → Nat → Nat × Nat
  | [], n => (8, n)
  | (l, m) :: ls, n => if n < m then (l, n) else treeNode ls (n - m)

/-- The stored 128-byte line at an offset of a stack's system channels is lost or changed: the tags, version blocks or nodes that it holds will not check, nor will the lines of the remainder (R84, R93, R96, R104; log 73, DEDUCED). -/
def State.breakSystem (s : State) (stack off : Nat) : State :=
  let off := off / 128 * 128
  if off < macBytes then
    { s with badTags := s.badTags ++ ((List.range 16).map fun i => stack * 2 ^ 29 + off / 8 + i).filter fun l => !s.badTags.contains l }
  else if off < remainderAt then
    let node (a : Nat) : Nat × Nat × Nat :=
      if a < macBytes + versionBytes then (stack, 0, (a - macBytes) / 64)
      else (stack, treeNode treeLevels ((a - macBytes - versionBytes) / 64))
    { s with badNodes := s.badNodes ++ ([node off, node (off + 64)].filter fun n => !s.badNodes.contains n) }
  else
    let u := (stack * 2 ^ 33 + off) / 64
    { s with sysBad := s.sysBad ++ [u, u + 1].filter fun x => !s.sysBad.contains x }

/-- The line at an offset of a stack's system channels cannot be read and is moved all the same: a line of the remainder as a poisoned one, and one of tags, versions or nodes as it is (R84). -/
def State.loseSystem (s : State) (stack off : Nat) : State :=
  if off < remainderAt then s.breakSystem stack off else s.putSys (stack * 2 ^ 33 + off / 128 * 128) (List.replicate 128 0) true

/-! ### System slices (R84; log 56, DEDUCED) -/

/-- A physical slice has left service. -/
def State.gone (s : State) (stack pc sid : Nat) : Bool := s.goneSlices.contains (stack, pc, sid)

/-- Frames in which a page of some world stands, by any translation that may still be used (R325). -/
def State.framesInUse (s : State) : List Nat :=
  let on (m : SMap Page) : List Nat := m.map (·.2.frame)
  (s.worlds.flatMap (fun (w : Nat × World) => on w.2.pages ++ on w.2.live ++ (if s.pendingViews w.1 == 0 then [] else on w.2.fabView))
    ++ s.wgs.flatMap fun (g : Workgroup) => on g.view).eraseDups

/-- A frame that satisfies `p` is mapped somewhere. -/
def State.frameMapped (s : State) (p : Nat → Bool) : Bool := s.framesInUse.any p

/-- One of `n` data slices of a stack, from number `first` on, by pseudo-channel × 4 + SID, is in service. -/
def State.dataLeft (s : State) (stack first n : Nat) : Bool := (List.range n).any fun k => !s.gone stack ((first + k) / 4) ((first + k) % 4)

/-- A logical system slice holds something: the tags of 16 data slices, the version blocks of 128, what is left of those with the tree nodes, or pages in use. The move reserve holds nothing (R48, R84). -/
def State.systemUsed (s : State) (l : Nat) : Bool :=
  let i := l % 32
  !s.sysOff.contains l &&
    (if i < 14 then s.dataLeft (l / 32) (16 * i) 16
     else if i == 14 then s.dataLeft (l / 32) 0 128
     else if i == 15 then true
     else i < 24 && s.frameMapped fun f => f / 128 == l)

/-- A used logical system slice still lies on one of the named places. -/
def State.systemOn (s : State) (stack pc : Nat) (sids : List Nat) : Bool :=
  sids.any fun i => (s.systemHolder stack pc i).any s.systemUsed

/-- A physical place is under a notice. -/
def State.noticed (s : State) (stack pc sid : Nat) : Bool := s.notices.any fun n => n.stack == stack && n.pc == pc && n.sids.getLsbD sid

/-- Physical places of a stack's system channels. -/
def systemPlaces : List (Nat × Nat) := (List.range 32).map fun i => (56 + i / 4, i % 4)

/-- A place where a system slice may be moved: in service, under no notice, and held by nothing in use: freed metadata space or the reserve (R84). -/
def State.systemFree (s : State) (stack : Nat) (p : Nat × Nat) : Bool :=
  systemPlaces.contains p && !s.gone stack p.1 p.2 && !s.noticed stack p.1 p.2 && !(s.systemHolder stack p.1 p.2).any s.systemUsed

/-- Frames of the other stacks' remainders in which no page stands (R84 step 3). -/
def State.roomElsewhere (s : State) (stack : Nat) : Nat :=
  let slices := ((List.range 256).filter fun l => l / 32 != stack && 16 ≤ l % 32 && l % 32 < 24
    && !s.sysOff.contains l && !s.noticed (l / 32) (s.systemPlace l).1 (s.systemPlace l).2).length
  128 * slices - (s.framesInUse.filter fun f => f / 4096 != stack).length

/-- The pages of a slice of the stack's remainder can all be moved to the remainders of other stacks, which frees its place (R84 step 3). -/
def State.canEmpty (s : State) (stack : Nat) : Bool :=
  (List.range 8).any fun i =>
    let l := stack * 32 + 16 + i
    s.systemUsed l && (s.framesInUse.filter fun f => f / 128 == l).length ≤ s.roomElsewhere stack

/-- Used system slices of a stack are under notice, no free place is left for them, and no move of pages makes one (R84 step 4). -/
def State.systemShort (s : State) (stack : Nat) : Bool :=
  (systemPlaces.any fun p => s.noticed stack p.1 p.2 && s.systemOn stack p.1 [p.2]) && !(systemPlaces.any (s.systemFree stack)) && !s.canEmpty stack

/-- Lines of a physical slice that cannot be read; their errors stay behind when it is left. -/
def State.unreadable (s : State) (key sid : Nat) : List Nat :=
  (s.dramErrs.filter fun e => e.2 && sliceOfPla e.1 == (key, sid)).map fun e => e.1 % 2 ^ 21

/-! ### Tampering (R93, R98, R104) -/

/-- The logical system slice, numbered stack × 32 + slice, and offset of a line on a system channel (R84; log 73, DEDUCED). -/
def State.systemLine (s : State) (pla : Nat) : Option (Nat × Nat) :=
  let slice := sliceOfPla pla
  (s.systemHolder (slice.1 / 64) (slice.1 % 64) slice.2).map fun l => (l / 32, l % 32 * 2 ^ 28 + pla % 2 ^ 21 * 128)

/-- Put free bytes into a data line: what its changed ciphertext decrypts to is open (R98; log 8, DESIGN CHOICE). -/
def State.garble (s : State) (pla : Nat) : State :=
  { s with
    dram := Memory.writeN s.dram (pla * 128) ((List.range 16).flatMap fun i => leBytes 8 (Config.freeWord (s.freeCount + i)).toNat)
    freeCount := s.freeCount + 16 }

/-- The stored line of main memory or its tag is changed from outside: a data line's next read fails and decrypts to anything until then (R93, R98, R104); a line of a system channel breaks what rests on it (R96; log 73, DEDUCED). -/
def State.tamper (s : State) (pla : Nat) : State :=
  if 56 ≤ pla / 2 ^ 23 % 64 then
    match s.systemLine pla with
    | some a => s.breakSystem a.1 a.2
    | none => s
  else
    let s1 := s.garble pla
    if s1.badLines.contains pla then s1 else { s1 with badLines := s1.badLines ++ [pla] }

/-- A stored line of main memory takes a correctable or an uncorrectable error (R71, R342). -/
def State.dramFault (s : State) (pla : Nat) (double : Bool) : State :=
  { s with dramErrs := (pla, double || s.dramErrs.any fun e => e.1 == pla) :: s.dramErrs.filter fun e => e.1 != pla }

/-! ### Frames of system memory (R48, R325, R359; log 14, DESIGN CHOICE) -/

/-- A frame that may hold a page: in the remainder of a stack, outside its move reserve, and not given up (log 14, DESIGN CHOICE). -/
def State.frameUsable (s : State) (f : Nat) : Bool :=
  let off := f % 4096 * Config.pageBytes
  f < 8 * 4096 && remainderAt ≤ off && off < reserveAt && !s.sysOff.contains (f / 128)

/-- Another world may still reach the frame, or the world by a translation that it has replaced, so it is in no pool (R325; log 14, DESIGN CHOICE). -/
def State.frameHeld (s : State) (world f : Nat) : Bool :=
  let on (m : SMap Page) : Bool := m.any fun x => x.2.frame == f
  let mine := on (s.worldAt world).pages
  s.worlds.any (fun (w : Nat × World) =>
      (w.1 != world && on w.2.pages) || ((w.1 != world || !mine) && (on w.2.live || (s.pendingViews w.1 != 0 && on w.2.fabView))))
    || s.wgs.any fun (g : Workgroup) => (g.world != world || !mine) && on g.view

/-- The frame of a copy that has translated it and goes on (R325). -/
def State.frameCopied (s : State) (f : Nat) : Bool :=
  let at_ (p : Place) : Bool := match p with
    | .sys a => a / Config.pageBytes == f
    | _ => false
  s.cores.any fun k => k.2.copies.any fun o => at_ o.src || at_ o.dst

/-- Generation of the keys that a page's key-generation bit selects (R364). -/
def World.pageGen (w : World) (page : Nat) : Nat :=
  match w.rotating with
  | some r => if w.rotPages.contains page then r.1 else w.keyGen
  | none => w.keyGen

/-- A frame comes under the keys of a page: what other keys wrote into it, or was written while the world had none, can no longer be decrypted, and its lines read as poisoned ones (R359, R364; log 88, DEDUCED). -/
def State.ownFrame (s : State) (world page f : Nat) : State :=
  let me := (world, (s.worldAt world).pageGen page)
  let s1 := { s with frames := SMap.set s.frames f me }
  match SMap.find s.frames f with
  | none => s1
  | some o =>
    if o == me && me.2 != 0 then s
    else
      let u := f * 32768
      { s1 with
        sysmem := Memory.clear s1.sysmem (f * Config.pageBytes) Config.pageBytes
        sysPoison := s1.sysPoison.filter (fun x => x < u || u + 32768 ≤ x) ++ (List.range 32768).map (u + ·) }

/-- A page-table entry of a world is written: a frame or none (R195, R325; log 14, DESIGN CHOICE). A page that had no translation has this one at once; a replaced one stays in force until XINV (R324). -/
def State.mapPage (s : State) (world page : Nat) (frame : Option Nat) (poisoned : Bool) : State :=
  if poisoned then s.poisonEntry world page
  else match frame with
    | none => s.modWorld world fun w => { w with pages := SMap.erase w.pages page }
    | some f =>
      if !s.frameUsable f || s.frameHeld world f then s
      else (s.ownFrame world page f).modWorld world fun w =>
        let e : Page := { frame := f, poisoned := false, found := false }
        { w with pages := SMap.set w.pages page e, live := if (SMap.find w.live page).isSome then w.live else SMap.set w.live page e }

/-- The contents of a frame, read under its keys and written to another: a unit that fails its verification is logged, and moves as a poisoned one (R84, R137). -/
def State.copyFrameTo (s : State) (world old new : Nat) : State :=
  let from_ := old * Config.pageBytes
  let to_ := new * Config.pageBytes
  let outNew (u : Nat) : Bool := u / 32768 != new
  let bad := (s.sysPoison.filter fun u => u / 32768 == old) ++ s.unitsFailing from_ Config.pageBytes
  let s1 := (s.sysVerify world from_ Config.pageBytes).mendFrame new
  { s1 with
    sysmem := (s1.sysmem.filter fun c => from_ ≤ c.1 && c.1 < from_ + Config.pageBytes).foldl
      (fun (m : Memory) c => Memory.write m (c.1 - from_ + to_) c.2) (Memory.clear s1.sysmem to_ Config.pageBytes)
    sysBad := s1.sysBad.filter outNew
    sysPoison := s1.sysPoison.filter outNew ++ bad.eraseDups.map fun u => u - from_ / 64 + to_ / 64 }

/-- Device firmware moves a page of the remainder to another frame, its contents with it. Its translation moves at once for every user, since what the page holds stays the same; it waits for copies that have translated it (R84 step 3, R324 to R326; log 56, DEDUCED). -/
def State.movePage (s : State) (world page frame : Nat) : State :=
  match SMap.find (s.worldAt world).live page with
  | none => s
  | some p =>
    if !s.frameUsable frame || s.frameMapped (· == frame) || s.frameCopied p.frame || s.frameCopied frame then s
    else
      let s1 := (s.ownFrame world page frame).copyFrameTo world p.frame frame
      let moved (m : SMap Page) : SMap Page := m.map fun x => if x.1 == page && x.2.frame == p.frame then (x.1, { x.2 with frame := frame }) else x
      { s1.modWorld world (fun w => { w with pages := moved w.pages, live := moved w.live, fabView := moved w.fabView }) with
        wgs := s1.wgs.map fun (g : Workgroup) => if g.world == world then { g with view := moved g.view } else g
        launches := s1.launches.map fun (l : Launch) =>
          if l.world == world then { l with codeFrames := l.codeFrames.map fun x => if x == p.frame then frame else x } else l }

end Sys2Proof.Machine
end

