-- ==== Sys2Proof/Machine/FabricEv.lean ====
section
/-! DEFINITION. Events of the fabric (R257, R261, R263 to R272, R102, R103, R361): requests of peers to this device's windows, replies to its own, lost ports and peers, and the die bridge. -/

namespace Sys2Proof.Machine

open Sys2Proof

/-! ### At the source -/

/-- A fabric operation goes on: it reads its local side and sends its request, if no fence, no down port, no bank without R positions, no earlier operation of the strand and no limit on unacknowledged atomics holds it (R140, R166, R267, R269, R306, R320; log 70, DEDUCED); one that has failed ends when the matrix unit has read its slot (R243). -/
def State.fabRead (s : State) (id : Nat) : State :=
  match s.findFab id with
  | none => s
  | some o =>
    let down := o.kind != .sum && !s.routeUp o.device
    let e := s.fabStarted o
    if o.lost then s.failFab o
    else if o.sent || down || s.fabBehind o || s.fabHeld o || s.amoWaits o || !s.unfenced o.info || !s.fabServed o then s
    else (s.modFab id fun _ => e).fabSend e

/-- A frame crosses the die bridge between a device's port and a die (R102, R257; log 86, DESIGN CHOICE). -/
def State.portCross (s : State) (world dev die : Nat) : State :=
  match SMap.find s.routes dev with
  | some p => s.crossBridge world (dieOfPort p) die
  | none => s

/-- A reply comes in on a port, whose run of failures it ends, and goes on to the core (R102, R103, R257). -/
def State.portOk (s : State) (o : FabOp) : State := (s.frameOk o.device).portCross o.info.world o.device (dieOfCore o.info.core)

/-- What ends a request, or puts it off: the operation done with `ok`, refused, lost, or to be resent 10 µs later (R263, R268, R270). -/
def State.replyTo (s : State) (o : FabOp) (reply : Reply) (ok : State → State) : State :=
  match reply with
  | .done => ok (s.portOk o)
  | .refused code => ((s.portOk o).failFab o).reportOp o.info (imprecise code 0 o.peer)
  | .lost => (s.failFab o).reportOp o.info (imprecise cUe 0 o.peer)
  | .retry => (s.portOk o).modFab o.info.id fun e => { e with resendAt := some (s.ns + 10000) }

/-- An operation that awaits a reply: sent, and not waiting to be resent. -/
def State.awaiting (s : State) (id : Nat) (kinds : List FabKind) : Option FabOp :=
  match s.findFab id with
  | some o => if o.sent && !o.lost && o.resendAt.isNone && kinds.contains o.kind then some o else none
  | none => none

/-- PUT_ACKNOWLEDGEMENT (R264, R265; log 40, DEDUCED). -/
def execPutAcknowledgement (id : Nat) (reply : Reply) (s : State) : Out State :=
  match s.awaiting id [.put, .putv] with
  | none => .next s
  | some o => .next (s.replyTo o reply fun s => s.finishFab o [] false [])

/-- Lines of a get arrive: they are written, and with the last the operation is counted and retires (R264). -/
def State.getData (s : State) (o : FabOp) (data : Payload) : State :=
  if o.put + data.bytes.length < o.bytes then
    (s.writeFab o data.bytes data.bad).modFab o.info.id fun e =>
      { e with put := o.put + data.bytes.length / 64 * 64, poisoned := e.poisoned || !data.bad.isEmpty }
  else s.finishFab o data.bytes true data.bad

/-- GET_DATA_ARRIVAL (R140, R264). -/
def execGetDataArrival (id : Nat) (reply : Reply) (data : Payload) (s : State) : Out State :=
  match s.awaiting id [.get] with
  | none => .next s
  | some o => if s.sidePending o || !s.fabServed o then .next s else .next (s.replyTo o reply fun s => s.getData o data)

/-- The source acknowledges a reply that the target holds for it, in a frame of its world (R102, R267). -/
def State.acknowledge (s : State) (o : FabOp) (reply : Reply) : State :=
  match reply with
  | .done | .refused _ => s.countFrame o.info.world o.device
  | .lost | .retry => s

/-- PAMO_REPLY (R266, R267). -/
def execPamoReply (id : Nat) (reply : Reply) (old : Word) (poison : Bool) (s : State) : Out State :=
  match s.awaiting id [.amo] with
  | none => .next s
  | some o =>
    let v := if o.wide then old else word (old.toNat % 2 ^ 32)
    if s.sidePending o || !s.fabServed o then .next s
    else .next ((s.replyTo o reply fun s => s.finishAmo o v poison).acknowledge o reply)

/-- The summed elements of a csum (R272); the descriptor's F is kept in `ident`. -/
def sumBytes (F : Nat) (total : List Word) : List Byte :=
  total.flatMap fun t => leBytes 8 (fmtF64.encode .rne false ((FVal.ofInt t.toInt).shift (-(F : Int))))

/-- The group of a csum: the one that it was sent for, or that its descriptor names (R271). -/
def State.groupOf (s : State) (o : FabOp) : Option Group :=
  let n := if o.sent then o.v.toNat else match s.resolveFor o.info o.peer with
    | some d => (SumDesc.ofBytes (s.readSpad d.1 o.info.world d.2 64 0).bytes).group
    | none => 64
  SMap.find (s.worldAt o.info.world).groups n

/-- The reduction switch of a csum's group (R271). -/
def State.switchOf (s : State) (o : FabOp) : Option Nat := (s.groupOf o).map (·.switch)

/-- CSUM_RESULT (R103, R272). -/
def execCsumResult (id : Nat) (total : List Word) (s : State) : Out State :=
  match s.awaiting id [.sum] with
  | none => .next s
  | some o =>
    if !s.fabServed o then .next s
    else
      let s1 := match s.switchOf o with
        | some d => (s.frameOk d).portCross o.info.world d (dieOfCore o.info.core)
        | none => s
      .next (s1.finishFab o (sumBytes o.ident total) true [])

/-- RETRY_RESEND: a request answered with RETRY is sent again (R268). -/
def execRetryResend (id : Nat) (s : State) : Out State :=
  match s.findFab id with
  | none => .next s
  | some o =>
    match o.resendAt with
    | none => .next s
    | some t => if s.ns < t then .next s else .next ((s.modFab id fun e => { e with resendAt := none }).sendTo o o.device)

/-! ### Ports and peers (R102, R103, R257, R270) -/

/-- Fail the operations of a list with UE (R270). FADDR is the operation's first pointer: the peer's, or a csum's space-1 pointer to its descriptor, since a csum has no peer pointer (R329; log 102, DEDUCED). -/
def State.failAll : List FabOp → State → State
  | [], s => s
  | o :: os, s => State.failAll os ((s.failFab o).reportOp o.info (imprecise cUe 0 o.peer))

/-- An error event of a port (R343, R345). -/
def portEvent (port : Nat) : ErrEvent :=
  { cat := 7, code := 0xFF, world := 0, corrected := false, injected := false, loc := word (5 * 2 ^ 60 + port) }

/-- The operations outstanding on a port: a csum goes to its group's switch (R270, R271). -/
def State.onPort (s : State) (port : Nat) : List FabOp :=
  s.fab.filter fun o => !o.lost && (match o.kind with
    | .sum => (s.switchOf o).bind (SMap.find s.routes) == some port
    | _ => SMap.find s.routes o.device == some port)

/-- Take a port down: what is outstanding on it fails (R103, R270; log 41, DEDUCED; log 70, DEDUCED). -/
def State.portDown (s : State) (port : Nat) : State :=
  let s1 := { s with ports := SMap.set s.ports port { SMap.get s.ports Port.reset port with up := false } }
  State.failAll (s.onPort port) (s1.errorEvent (portEvent port))

/-- A frame on a port fails authentication and is discarded, to be retransmitted; the eighth in a row takes the port down (R103). Numbers from 20 are the die bridge, which repairs itself (R257; log 41, DEDUCED). -/
def State.badFrame (s : State) (port : Nat) : State :=
  let s1 := s.errorEvent (portEvent port)
  if 20 ≤ port then s1
  else
    let p := SMap.get s1.ports Port.reset port
    let s2 := { s1 with ports := SMap.set s1.ports port { p with fails := p.fails + 1 } }
    if 8 ≤ p.fails + 1 && p.up then s2.portDown port else s2

/-- FRAME_AUTH_FAILURE (R103). -/
def execFrameAuthFailure (port : Nat) (s : State) : Out State := .next (s.badFrame port)

/-- Whether an operation depends on a device: its target, or a member of its group (R270, R272). -/
def State.uses (s : State) (dev : Nat) (o : FabOp) : Bool :=
  match o.kind with
  | .sum => (s.groupOf o).any fun g => g.devices.contains dev || g.switch == dev
  | _ => o.device == dev

/-- PEER_LOST: device firmware declares a peer lost (R270). -/
def execPeerLost (device : Nat) (s : State) : Out State := .next (State.failAll (s.fab.filter fun o => !o.lost && s.uses device o) s)

/-- LINK_REKEY: the keys of the links on a port are replaced; no effect that a program sees (R102). -/
def execLinkRekey (port : Nat) (s : State) : Out State :=
  .next { s with
    ports := SMap.set s.ports port { SMap.get s.ports Port.reset port with frames := 0 }
    linkKeys := s.linkKeys.map fun k => if SMap.find s.routes k.device == some port then { k with rekeys := k.rekeys + 1, frames := 0 } else k }

/-- A link trains: each end offers Shenen, and a port whose partner declines runs in base mode (R259). The identifiers and the table of the pamo requests are not touched (log 106, DESIGN CHOICE). -/
def State.linkTraining (s : State) (port : Nat) (accepts : Bool) : State :=
  if 20 ≤ port then s
  else { s with ports := SMap.set s.ports port { SMap.get s.ports Port.reset port with up := true, shenen := accepts, fails := 0 } }

/-- A record whose bytes the manual does not give (log 8, DESIGN CHOICE). -/
def State.freeRecord (s : State) (n : Nat) : List Byte × State :=
  ((List.range (n / 8)).flatMap fun i => leBytes 8 (Config.freeWord (s.freeCount + i)).toNat, { s with freeCount := s.freeCount + n / 8 })

/-- BRIDGE_FAILURE: the package stops, and the failure is reported to the host driver (R257). -/
def execBridgeFailure (s : State) : Out State :=
  let r := s.freeRecord 32
  .next { r.2 with stopped := true, pfEvents := r.2.pfEvents ++ [r.1] }

/-- BRIDGE_LANE_REPAIR: a spare lane takes over (R257). -/
def execBridgeLaneRepair (s : State) : Out State := .next { s with lanes := s.lanes + 1 }

/-- Signatures that the HSS tree holds (R358). -/
def hssTree : Nat := 2 ^ 30

/-- One signature, if the tree is not exhausted (R358). -/
def State.sign (s : State) : Bool × State :=
  if s.hssLeaves < hssTree then (true, { s with hssLeaves := s.hssLeaves + 1 }) else (false, s)

/-- The pairs of a world's peer-binding table: device and remote world of the entries whose other bits are zero; empty where the table does not translate (R361). -/
def State.peerTable (s : State) (world : Nat) : List (Nat × Nat) :=
  match s.sysRead world (s.worldAt world).pwpeer.toNat 2048 with
  | none => []
  | some b =>
    ((List.range 256).map fun i => word (leNat ((b.drop (8 * i)).take 8))).filterMap fun e =>
      if Word.field e 13 3 == 0 && Word.field e 20 44 == 0 then some (Word.field e 0 13, Word.field e 16 4) else none

/-- Lines of the peer-binding table that fail are logged as it is read (R98, R104). -/
def State.peerChecked (s : State) (world : Nat) : State := s.sysChecked world (s.worldAt world).pwpeer.toNat 2048

/-- PEER_BINDING: for a pair that the world's table names, two package controllers agree a key from a new shared secret, or not; each binding makes one signature, and its exchange is the device's own, in a frame of world 0 (R102, R358, R361). -/
def execPeerBinding (world device remote : Nat) (ok : Bool) (s : State) : Out State :=
  if !(s.peerTable world).contains (device, remote) then .next s
  else
    let p := (s.peerChecked world).sign
    let s1 := p.2.countFrame 0 device
    let others := s1.linkKeys.filter fun k => !(k.world == world && k.device == device)
    .next { s1 with drbg := s.drbg + 1, linkKeys := if ok && p.1 then ⟨world, device, remote, s.drbg + 1, 0, 0⟩ :: others else others }

/-! ### At the target (R260, R261, R263, R265 to R268) -/

/-- An answer to a peer: 0 done, 1 RETRY, 2 + code for a refusal, with data and the numbers of its poisoned lines (R263, R264, R268). It goes out in a frame of the request's world, and the request was one that authenticated (R102, R103). -/
def State.answer (s : State) (r : PeerReq) (code : Nat) (data : List Byte) (bad : List Nat) : State :=
  { (s.frameOk r.src).countFrame r.world r.src with sentReplies := s.sentReplies ++ [(r.src, code, data, bad)] }

/-- Logical system slice of a frame, and its stack (R84; log 14, DESIGN CHOICE). -/
def sliceOfFrame (frame : Nat) : Nat := frame / 128

/-- A page lies in a system slice that is under notice and has not moved (R82, R268). -/
def State.retiring (s : State) (frame : Nat) : Bool :=
  let l := sliceOfFrame frame
  let p := s.systemPlace l
  s.notices.any fun n => n.stack == l / 32 && n.pc == p.1 && n.sids.getLsbD p.2

/-- The part of a request's range that lies in one page: the frame, its address in system memory, and its first byte and length within the request. -/
structure PeerPart where
  frame : Nat
  addr : Nat
  first : Nat
  len : Nat
  deriving DecidableEq, Repr

/-- The parts of `bytes` bytes at an address, page by page: address, first byte and length of each. -/
def peerRuns (va bytes : Nat) : List (Nat × Nat × Nat) :=
  (List.range (1 + (va % Config.pageBytes + (bytes - 1)) / Config.pageBytes)).map fun i =>
    let first := if i == 0 then 0 else i * Config.pageBytes - va % Config.pageBytes
    (va + first, first, Nat.min (bytes - first) (Config.pageBytes - (va + first) % Config.pageBytes))

/-- Step 4 of R263 for one page, which must not hold measured code where it is written (R281). -/
def State.peerPart (s : State) (r : PeerReq) (bit : Nat) (x : Nat × Nat × Nat) : Except Nat PeerPart :=
  match SMap.find (s.fabPages r.world) (pageOf x.1) with
  | none => .error cXlate
  | some p =>
    if p.poisoned then .error cXpoison
    else if bit != 0 && s.codeAt r.world (pageOf x.1) p.frame then .error cPriv
    else .ok ⟨p.frame, p.frame * Config.pageBytes + x.1 % Config.pageBytes, x.2.1, x.2.2⟩

/-- The parts of a list, if each passes. -/
def allParts (f : Nat × Nat × Nat → Except Nat PeerPart) : List (Nat × Nat × Nat) → Except Nat (List PeerPart)
  | [] => .ok []
  | x :: xs => match f x, allParts f xs with
    | .error e, _ => .error e
    | .ok _, .error e => .error e
    | .ok p, .ok ps => .ok (p :: ps)

/-- The checks of R263 on `bytes` bytes: the places of the range, page by page (log 114, DEDUCED), or the code refused with; `bit` is the permission. The peer set 0xFF allows every device whose request arrives (R261; log 96, DESIGN CHOICE). -/
def State.targetCheck (s : State) (r : PeerReq) (bytes bit : Nat) : Except Nat (List PeerPart) :=
  let w := s.worldAt r.world
  match SMap.find w.exports r.window with
  | none => .error cXlate
  | some e =>
    let va := e.base + r.offset
    if e.pages == 0 || e.base % Config.pageBytes != 0 || e.base / 2 ^ 52 != 1 || e.pages * Config.pageBytes < r.offset + bytes then .error cXlate
    else if !e.perm.getLsbD bit then .error cPriv
    else if e.peers != 0xFF && !(SMap.get w.peerSets [] e.peers).contains r.src then .error cPriv
    else if va % 2 ^ 52 / 2 ^ 39 != 0 then .error cXlate
    else allParts (s.peerPart r bit) (peerRuns va bytes)

/-- A walk that finds a poisoned entry records its event (R347; log 40, DEDUCED). -/
def State.foundPoison (s : State) (r : PeerReq) (bytes code : Nat) : State :=
  if code != cXpoison then s
  else match SMap.find (s.worldAt r.world).exports r.window with
  | none => s
  | some e =>
    match (peerRuns (e.base + r.offset) bytes).find? fun x => (SMap.find (s.fabPages r.world) (pageOf x.1)).any (·.poisoned) with
    | some x => s.walked r.world x.1
    | none => s

/-- A request is protected under the key that its world has agreed with its source (R260, R361). -/
def State.authentic (s : State) (r : PeerReq) : Bool := (s.linkKey r.world r.src).isSome

/-- A request under no such key fails authentication on the port that carries it, and is discarded (R103, R260). -/
def State.discardFrame (s : State) (r : PeerReq) : State :=
  match SMap.find s.routes r.src with
  | some p => s.badFrame p
  | none => s

/-- A request and its reply cross the die bridge where the port and the stack that they name lie on different dies (R102, R257; log 86, DESIGN CHOICE). -/
def State.peerCross (s : State) (r : PeerReq) (ps : List PeerPart) : State :=
  match ps with
  | [] => s
  | p :: _ => (s.portCross r.world r.src (dieOfStack (p.addr / 2 ^ 33))).portCross r.world r.src (dieOfStack (p.addr / 2 ^ 33))

/-- Refuse a request (R263). -/
def State.refusePeer (s : State) (r : PeerReq) (bytes code : Nat) : State := (s.foundPoison r bytes code).answer r (2 + code) [] []

/-- The bound sync word's core and address, if the bound workgroup is running (R261, R265). -/
def State.boundWord (s : State) (world : Nat) (e : Export) : Option (Nat × Nat) :=
  match s.wgs.find? fun w => w.world == world && w.queue == e.bqueue && w.seq % 2 ^ 32 == e.bseq && w.index == e.bwg with
  | none => none
  | some w =>
    if !e.bvalid || w.state == .sealed || w.cores.length ≤ e.rank then none
    else (w.coreOf e.rank).map fun c => (c, e.bank * 65536 + e.boff * 16)

/-- Count a notifying put at the window's bound word, with POIS where its lines were poisoned, or as missed (R155, R265). -/
def State.notify (s : State) (r : PeerReq) (bytes : Nat) (poisoned : Bool) : State :=
  match SMap.find (s.worldAt r.world).exports r.window with
  | none => s
  | some e =>
    match s.boundWord r.world e with
    | some (c, a) => s.modCore c fun k => k.queueCount a bytes poisoned false
    | none =>
      s.modWorld r.world fun w => { w with exports := SMap.set w.exports r.window { e with missed := (e.missed + 1) % 2 ^ 64 } }

/-- Write what a put carries into one of its parts: lines that were read poisoned stay so (R137, R264). -/
def State.putPart (s : State) (data : Payload) (p : PeerPart) : State :=
  (data.bad.filter fun i => p.first ≤ 64 * i && 64 * i < p.first + p.len).foldl
    (fun (s : State) i => s.putSys (p.addr + (64 * i - p.first)) ((data.bytes.drop (64 * i)).take 64) true)
    (s.putSys p.addr ((data.bytes.drop p.first).take p.len) false)

/-- PUT_REQUEST: a peer writes a window (R263, R265, R268). -/
def execPutRequest (r : PeerReq) (notify : Bool) (data : Payload) (s : State) : Out State :=
  if !s.authentic r then .next (s.discardFrame r)
  else match s.targetCheck r data.bytes.length 1 with
  | .error e => .next (s.refusePeer r data.bytes.length e)
  | .ok ps =>
    if ps.any fun p => s.retiring p.frame then .next (s.answer r 1 [] [])
    else
      let s1 := ps.foldl (fun (s : State) p => s.putPart data p) (s.peerCross r ps)
      .next ((if notify then s1.notify r data.bytes.length (!data.bad.isEmpty) else s1).answer r 0 [] [])

/-- The lines of a part that read as poisoned, numbered within the request (R98, R137, R264). -/
def State.badLinesOf (s : State) (p : PeerPart) : List Nat :=
  ((List.range ((p.len + 63) / 64)).filter fun i => s.unitBad ((p.addr + 64 * i) / 64)).map fun i => p.first / 64 + i

/-- GET_REQUEST: a peer reads a window; poisoned lines are answered as such. A page that is being moved is read where it then stands (R84, R263, R264, R268). -/
def execGetRequest (r : PeerReq) (lines : Nat) (s : State) : Out State :=
  if !s.authentic r then .next (s.discardFrame r)
  else match s.targetCheck r (64 * lines) 0 with
  | .error e => .next (s.refusePeer r (64 * lines) e)
  | .ok ps =>
    .next ((ps.foldl (fun (s : State) p => s.sysVerify r.world p.addr p.len) (s.peerCross r ps)).answer r 0
      (ps.flatMap fun p => s.readSys p.addr p.len) (ps.flatMap s.badLinesOf))

/-- The scratchpad atomic that an aop code selects (R266). -/
def aopInstr (aop : BitVec 4) : Instr :=
  let f : AtomF := ⟨0, 0, 0, 0, false⟩
  match aop.toNat with
  | 0 => .aadd f
  | 1 => .aand f
  | 2 => .aor f
  | 3 => .axor f
  | 4 => .amin f
  | 5 => .amax f
  | 6 => .aminu f
  | 7 => .amaxu f
  | 8 => .aswp f
  | 9 => .acas f
  | _ => .afadd f

/-- Perform a peer's atomic: the old value, or poison where the line fails its verification. A line that verifies and is poisoned is treated alike: it is not written, and the reply carries poison (R266; log 105, DESIGN CHOICE). -/
def State.peerAtomic (s : State) (world addr : Nat) (aop : BitVec 4) (wide : Bool) (v c : Word) : State × Word × Bool :=
  let n := if wide then 8 else 4
  if s.unitBad (addr / 64) then (s.sysVerify world addr n, 0, true)
  else
    let old := leNat (Memory.readN s.sysmem addr n)
    let new := atomicNew (aopInstr aop) (8 * n) old (v.toNat % 2 ^ (8 * n)) (c.toNat % 2 ^ (8 * n))
    ({ s with sysmem := Memory.writeN s.sysmem addr (leBytes n new) }, word old, false)

/-- What an entry of the dedupe table answers (R267). -/
def State.answerHeld (s : State) (r : PeerReq) (d : Dedupe) : State :=
  if d.code == 0 then s.answer r 0 (leBytes 8 d.old.toNat ++ [if d.poison then 1 else 0]) [] else s.answer r d.code [] []

/-- A reply is recorded until the source acknowledges it, and sent (R267). -/
def State.recordReply (s : State) (r : PeerReq) (d : Dedupe) : State :=
  { s with dedupe := SMap.set s.dedupe r.src (SMap.get s.dedupe [] r.src ++ [d]) }.answerHeld r d

/-- PAMO_REQUEST: a peer's atomic, performed exactly once by its identifier (R263, R266 to R268). A refusal is a reply, held like the others; an offset that is not aligned is refused with ALIGN, of which R263 says nothing (log 71, DEDUCED; log 97, DESIGN CHOICE). The table and the identifiers stay as they are when a port or a peer is lost, or a link trains anew (log 106, DESIGN CHOICE). -/
def execPamoRequest (r : PeerReq) (ident : Nat) (aop : BitVec 4) (wide : Bool) (v c : Word) (s : State) : Out State :=
  if !s.authentic r then .next (s.discardFrame r)
  else match (SMap.get s.dedupe [] r.src).find? fun d => d.ident == ident with
  | some d => .next (s.answerHeld r d)
  | none =>
    if 256 ≤ identDist (SMap.get s.amoBase 0 r.src) ident then
      .next (match SMap.find s.routes r.src with
        | some p => (s.frameOk r.src).portDown p
        | none => s)
    else if (SMap.get s.amoAcked [] r.src).contains ident then .next (s.frameOk r.src)
    else
      let w := if wide then 8 else 4
      let refuse (e : Nat) (s : State) : State := s.recordReply r ⟨ident, 2 + e, 0, false⟩
      if r.offset % w != 0 then .next (refuse cAlign s)
      else match s.targetCheck r w 2 with
        | .error e => .next (refuse e (s.foundPoison r w e))
        | .ok [] => .next s
        | .ok (p :: ps) =>
          if s.retiring p.frame then .next (s.answer r 1 [] [])
          else
            let a := (s.peerCross r (p :: ps)).peerAtomic r.world p.addr aop wide v c
            .next (a.1.recordReply r ⟨ident, 0, a.2.1, a.2.2⟩)

/-- The oldest unacknowledged identifier passes those that have been acknowledged (R267). -/
def passAcked : Nat → Nat → List Nat → Nat × List Nat
  | 0, base, acked => (base, acked)
  | fuel + 1, base, acked =>
    if acked.contains base then passAcked fuel ((base + 1) % 65536) (acked.filter (· != base)) else (base, acked)

/-- REPLY_ACKNOWLEDGEMENT: the source has the reply, which leaves the table; the 256 identifiers that may be used begin at the oldest one whose reply is not acknowledged (R267; log 71, DEDUCED). -/
def execReplyAcknowledgement (src ident : Nat) (s : State) : Out State :=
  let table := SMap.get s.dedupe [] src
  let s := s.frameOk src
  if !(table.any fun d => d.ident == ident) then .next s
  else
    let p := passAcked 256 (SMap.get s.amoBase 0 src) (ident :: SMap.get s.amoAcked [] src)
    .next { s with
      dedupe := SMap.set s.dedupe src (table.filter fun d => d.ident != ident)
      amoBase := SMap.set s.amoBase src p.1
      amoAcked := SMap.set s.amoAcked src p.2 }

end Sys2Proof.Machine
end

