-- ==== Sys2Proof/Machine/Trust.lean ====
section
/-! DEFINITION. Scrubbing, key rotation, meters and signed statements (R358, R362 to R369). -/

namespace Sys2Proof.Machine

open Sys2Proof

/-! ### scrub (R362) -/

/-- The alignment rules of R362. -/
def scrubBad (space off len : Nat) : Bool :=
  if space == 4 then off % 32 != 0 || len % 32 != 0 || len < 32 || 4096 < off + len
  else if space == 3 then off % 8192 != 0 || len % 8192 != 0 || len < 8192 || 65536 < off + len
  else off % 64 != 0 || len % 64 != 0 || len < 64 || 65536 < off + len

/-- Zero the tiles of an accumulator scrub: elements and checksums +0, CKV 1, W unchanged (R362). -/
def Core.scrubTiles (k : Core) (first n : Nat) : Core :=
  (List.range n).foldl (fun (k : Core) i => k.setAcc (first + i) { k.acc (first + i) with el := [], rs := [], cs := [], ckv := true }) k

/-- scrub of a scratchpad or scale-store range: queued in the copy port (R362). -/
def State.scrubQueued (s : State) (p : Word) (len : Nat) (sync : BitVec 4) : Out State :=
  match s.sidePlace p with
  | .error e => s.fault e
  | .ok side =>
    let off := match side with
      | .spad _ _ o => o
      | .scale _ _ o => o
      | _ => 0
    if scrubBad (Word.space p) off len then s.fault cAlign
    else if s.syncMissing sync then s.fault cSpace
    else if 32 ≤ s.copiesOf s.cur.core s.cur.strand then s.fault cSched
    else (s.queueCopy .scrub .none side 0 len 0 sync).ok

/-- scrub, in a bank of whatever format (R362; log 18, DEDUCED). -/
def execScrub (a len : R5) (sync : BitVec 4) (s : State) : Out State :=
  let p := s.src a
  let n := (s.src len).toNat
  if Word.space p == 3 then
    match localPtr p with
    | some (.acc tile off) =>
      let first := tile * 8192 + off
      if scrubBad 3 first n then s.fault cAlign
      else if (List.range (n / 8192)).any fun i => s.core.engaged (tile + i) then s.fault cSched
      else if s.syncMissing sync then s.fault cSpace
      else if s.fenceHolds clsV then s.block
      else State.retire ((s.putCore (s.core.scrubTiles tile (n / 8192))).countFor (s.newInfo clsV (s.syncPtr sync)) n false)
    | _ => s.fault cSpace
  else if spaceIn [1, 2, 4] p then s.scrubQueued p n sync
  else s.fault cSpace

/-! ### krot (R363, R364) -/

/-- krot: a rotation starts in the background (R363; log 45, DEDUCED). -/
def execKrot (a : R5) (sync : BitVec 4) (s : State) : Out State :=
  let w := Word.field (s.src a) 0 4
  if s.strand.world != 0 && w != s.strand.world then s.fault cPriv
  else if (s.worldAt w).rotating.isSome then s.fault cSched
  else if s.syncMissing sync then s.fault cSpace
  else
    let i := s.newInfo clsNone (s.syncPtr sync)
    State.ok { s.bumpId.modWorld w fun x => { x with rotating := some (s.drbg + 1, i.sync, i) } with drbg := s.drbg + 1 }

/-- Physical slices of a world, as pseudo-channel and SID. -/
def World.sliceKeys (w : World) : List (Nat × Nat) := w.slices.map fun x => (pcKey x.2.1 x.2.2.1, x.2.2.2)

/-- The world's rotation has not reached a data slice yet: its key-generation bit names the old keys (R364). -/
def World.unrotated (w : World) (k : Nat × Nat) : Bool := !w.rotSlices.contains (k.1 * 4 + k.2)

/-- A slice is granted to a running workgroup, so its base die does not rotate it (R364). -/
def State.sliceGranted (s : State) (k : Nat × Nat) : Bool := (s.pcAt k.1).owner.isSome

/-- Lines of a slice that fail verification under the old keys are committed as poisoned and logged in category 1 (R364). -/
def State.rotateBad (s : State) (world : Nat) (k : Nat × Nat) : State :=
  let base := plaOf k.1 k.2 0 0 0 0
  let v := s.judgeLines ((List.range (2 ^ 21)).map (base + ·))
  let s1 := v.1.foldl (fun s l => s.verifyEvent world l) v.2
  let s2 := s1.soundSlice k.1 k.2
  { s2 with poisonLines := s2.poisonLines ++ v.1.filter fun l => !s2.poisonLines.contains l }

/-- Every block of a slice is rebased (R94, R364; log 7, DESIGN CHOICE). -/
def State.rebaseSlice (s : State) (k : Nat × Nat) : State :=
  { s with
    majors := s.majors.map fun m => if sliceOfPla (m.1 * 64) == k then (m.1, m.2 + 1) else m
    minors := s.minors.filter fun m => sliceOfPla m.1 != k }

/-- The base die rotates a data slice of a world, and its bit names the new keys (R364). -/
def State.rotateSliceNow (s : State) (world : Nat) (k : Nat × Nat) : State :=
  ((s.rotateBad world k).rebaseSlice k).modWorld world fun w => { w with rotSlices := (k.1 * 4 + k.2) :: w.rotSlices }

/-- Units of a frame that fail verification are committed as poisoned and logged in category 1 (R364). -/
def State.rotateFrameBad (s : State) (world frame : Nat) : State :=
  let a := frame * Config.pageBytes
  (s.unitsFailing a Config.pageBytes).foldl (fun (s : State) u => s.putSys (u * 64) (List.replicate 64 0) true)
    ((s.sysVerify world a Config.pageBytes).mendFrame frame)

/-- A system page of a world is rotated, at any time (R364). -/
def State.rotatePageNow (s : State) (world gen page : Nat) : State :=
  match SMap.find (s.worldAt world).pages page with
  | none => s
  | some p =>
    let s1 := s.rotateFrameBad world p.frame
    { s1.modWorld world (fun w => { w with rotPages := page :: w.rotPages }) with frames := SMap.set s1.frames p.frame (world, gen) }

/-- One slice of a rotation in progress: not while it is granted, and once (R364). -/
def State.rotateSlice (s : State) (world key : Nat) : State :=
  let w := s.worldAt world
  let k := (key / 4, key % 4)
  if w.rotating.isSome && w.sliceKeys.contains k && w.unrotated k && !s.sliceGranted k then s.rotateSliceNow world k else s

/-- One page of a rotation in progress (R364). -/
def State.rotatePage (s : State) (world page : Nat) : State :=
  let w := s.worldAt world
  match w.rotating with
  | some r => if w.rotPages.contains page then s else s.rotatePageNow world r.1 page
  | none => s

/-- KROT_COMPLETE: the slices and pages that are left are rotated, the old keys erased and 64 bytes counted (R364). It waits for a slice that is granted and not rotated, and while the issuing workgroup is sealed (log 45, DEDUCED). -/
def execKrotComplete (world : Nat) (s : State) : Out State :=
  let w := s.worldAt world
  match w.rotating with
  | none => .next s
  | some (gen, _, i) =>
    let away : Bool := match s.wgAt i.wg with
      | some g => g.state == .sealed
      | none => false
    let left := w.sliceKeys.filter w.unrotated
    if left.any s.sliceGranted || away then .next s
    else
      let s1 := left.foldl (fun (s : State) k => s.rotateSliceNow world k) s
      let s2 := ((w.pages.map (·.1)).filter fun p => !w.rotPages.contains p).foldl (fun (s : State) p => s.rotatePageNow world gen p) s1
      let s3 := s2.modWorld world fun w => { w with rotating := none, keyGen := gen, rotSlices := [], rotPages := [] }
      .next ((s3.countFor i 64 false).arriveOp i)

/-! ### metr (R368) -/

/-- Grains of a meter that other clusters counted in the last 10 µs (R368; log 9, DESIGN CHOICE). -/
def State.lateGrains (s : State) (w : World) (cluster m : Nat) : Nat :=
  ((w.recent.filter fun r => s.ns < r.1 + 10000 && r.2.1 != cluster && r.2.2.1 == m).map (·.2.2.2)).foldl (· + ·) 0

/-- metr: a value between what the cluster must have seen and the meter (R368; log 9, DESIGN CHOICE). -/
def execMetr (d a : R5) (s : State) : Out State :=
  let wi := s.strand.world
  let w := s.worldAt wi
  let m := Word.field (s.src a) 0 4
  let cluster := s.cur.core / 12
  let top := (SMap.get w.meters 0 m).toNat
  let seen := SMap.get (SMap.get w.mirror [] cluster) 0 m
  let low := Nat.min top (Nat.max seen.toNat (top - s.lateGrains w cluster m))
  let f := s.free
  if s.fullBy 1 then s.fault cSched
  else
  let v := word (low + f.1.toNat % (top - low + 1))
  (f.2.modWorld wi fun x => { x with mirror := SMap.set x.mirror cluster (SMap.set (SMap.get x.mirror [] cluster) m v) }).result d 1 v

/-! ### mets (R369) -/

/-- Own-scratchpad address of a pointer. -/
def ownAddr (p : Word) : Option Nat :=
  match spadPtr p with
  | some ⟨none, a⟩ => some a
  | _ => none

/-- mets: the nonce is read at issue; the statement is signed in the background; the bank may have any format (R369; log 18, DEDUCED). -/
def execMets (a : R5) (sync : BitVec 4) (s : State) : Out State :=
  let w := s.worldAt s.strand.world
  match ownAddr (s.src a) with
  | none => s.fault cSpace
  | some addr =>
    if addr % 4096 != 0 then s.fault cAlign
    else if s.syncMissing sync then s.fault cSpace
    else if 4 ≤ (w.mets.filter fun m => m.1.core == s.cur.core && m.1.strand == s.cur.strand).length then s.fault cSched
    else if s.fenceHolds clsC then s.block
    else
      let i := s.newInfo clsNone (s.syncPtr sync)
      let r := s.readSpad s.cur.core s.strand.world (addr + 248) 16 s.core.vctl
      State.ok (((r.state.reportFlags s.cur.core s.cur.strand r.flags).bumpId).modWorld s.strand.world fun x =>
        { x with mets := x.mets ++ [(i, addr, r.bytes)] })

/-- Statement flags (R369). -/
abbrev flFrozen : Nat := 1
abbrev flMigrated : Nat := 2
abbrev flReplacement : Nat := 4
abbrev flEscrow : Nat := 8
abbrev flResumed : Nat := 16

/-- SHA-256 over the sixteen meters' policy hashes (R369). -/
def World.regionsHash (w : World) : BitVec 256 :=
  sha256 ((List.range 16).flatMap fun m =>
    match w.bindings.find? fun b => b.meter == m with
    | some b => hashBytes b.digest
    | none => List.replicate 32 0)

/-- The sixteen meters, 8 bytes each. -/
def World.meterBytes (w : World) : List Byte := (List.range 16).flatMap fun m => leBytes 8 (SMap.get w.meters 0 m).toNat

/-- Bytes 0 to 271 of a statement (R369). -/
def World.statementHead (w : World) (world flags : Nat) (nonce : List Byte) (time : Nat) : List Byte :=
  leBytes 2 1 ++ leBytes 1 world ++ leBytes 1 flags ++ leBytes 4 0 ++ hashBytes Config.deviceIdentity ++ hashBytes w.regionsHash
    ++ w.meterBytes ++ leBytes 8 w.chainIndex ++ leBytes 8 w.chainSerial ++ hashBytes w.lastStatement ++ nonce ++ leBytes 8 time

/-- A statement of 4,096 bytes: signed with the next leaf, or unsigned with sig length 0 where the tree is exhausted; the bytes of a signature that was not made are free (R358, R369; log 8, DESIGN CHOICE). -/
def World.statement (w : World) (world flags : Nat) (nonce : List Byte) (time leaf : Nat) (signed : Bool) (free : List Byte) : List Byte :=
  let head := w.statementHead world flags nonce time ++ leBytes 4 (if signed then 3284 else 0) ++ leBytes 4 0
  head ++ (if signed then (List.range 3284).map (Config.signature (sha256 head) leaf) else free.take 3284) ++ List.replicate 532 0

/-- Sign the next statement of a world: its bytes, and the state, which keeps it (R358, R369). -/
def State.signStatement (s : State) (world flags : Nat) (nonce : List Byte) : List Byte × State :=
  let w := s.worldAt world
  let f := s.freeRecord 3288
  let g := f.2.sign
  let st := w.statement world (flags ||| w.nextFlags) nonce s.ns s.hssLeaves g.1 f.1
  (st, g.2.modWorld world fun x =>
    { x with chainSerial := x.chainSerial + 1, lastStatement := sha256 (st.take 3564), nextFlags := 0, lastSigned := some s.ns, lastBytes := st })

/-- The world's next statement must still wait: it is signed no earlier than 1 s after the one before it (R369). -/
def State.statementEarly (s : State) (world : Nat) : Bool :=
  match (s.worldAt world).lastSigned with
  | some t => s.ns < t + 1000000000
  | none => false

/-- METER_STATEMENT_SIGNED: the oldest request of the world is answered, no earlier than 1 s after its previous statement (R369). -/
def execMeterStatementSigned (world : Nat) (s : State) : Out State :=
  let w := s.worldAt world
  match w.mets with
  | [] => .next s
  | (i, addr, nonce) :: rest =>
    if s.statementEarly world then .next s
    else
      let p := s.signStatement world (if w.metersFrozen then flFrozen else 0) nonce
      let s1 := (p.2.modWorld world fun x => { x with mets := rest }).modCore i.core fun k => k.writeSpad world addr p.1
      .next ((s1.countFor i 4096 false).arriveOp i)

end Sys2Proof.Machine
end

