-- ==== Sys2Proof/Machine/Wg.lean ====
section
/-! DEFINITION. The end of a workgroup: finishing strands, freeing cores, releasing grants and what the launch and the world keep of it (R55, R204, R290, R298, R334, R346). -/

namespace Sys2Proof.Machine

open Sys2Proof

/-- Physical cores of a cluster (R134): core number = cluster × 12 + core. -/
def clusterOf (core : Nat) : Nat := core / 12

/-- The lockstep pair of a core (R341), as the window counting names it (R346). -/
def pairKey (core : Nat) : Nat := 3 + 8 * (core / 12 * 16 + core % 12 / 2)

/-- A core that its workgroup has left: the cells keep their bytes (R136). -/
def Core.freed (k : Core) : Core :=
  { k with wg := none, rank := 0, rings := [], mq := [], copies := [], rmw := [], remote := [], lq := [], inbound := [], ibuf := [],
           runner := none, lastRan := 3, lastW := false, decision := true, strands := [] }

/-- The pseudo-channels of a workgroup are released (R55). -/
def State.releasePcs (s : State) (wg : Nat) : State :=
  { s with pcs := s.pcs.map fun p => if p.2.owner == some wg then (p.1, p.2.release s.tick) else p }

/-- The cores of a workgroup are freed; a lasting lockstep pair is fenced (R298, R346). -/
def State.freeCores (s : State) (w : Workgroup) : State :=
  let bad := if (s.worldAt w.world).prot then w.cores.filter fun c => s.lasting.contains (pairKey c) else []
  { (bad.foldl (fun (s : State) c => s.settled (pairKey c)) s) with
    cores := s.cores.map fun k => if k.2.wg == some w.id then (k.1, k.2.freed) else k
    fenced := s.fenced ++ bad.flatMap fun c => [c, c + 1] }

/-- What the launch and the world keep of a workgroup that ended (R291, R298, R303). -/
def State.noteEnd (s : State) (w : Workgroup) (completed : Bool) : State :=
  (s.modLaunch w.launch fun l =>
      { l with done := l.done + (if completed then 1 else 0), ended := l.ended + 1, grains := l.grains + w.meterGrains }).modWorld w.world fun x =>
    { x with finishedAt := s.ns :: x.finishedAt.filter fun t => s.ns < t + 1000000 }

/-- WORKGROUP_COMPLETE, and the last step of a termination: grants are released and cores freed (R298, R334). -/
def State.endWg (s : State) (w : Workgroup) (completed : Bool) : State :=
  let s1 := (((s.releasePcs w.id).freeCores w).noteEnd w completed)
  { s1 with wgs := s1.wgs.filter fun x => x.id != w.id }

/-- Every present strand of the workgroup is finished. -/
def State.allFinished (s : State) (w : Workgroup) : Bool := (s.strandsOf w).all fun p => p.2.2.status == .finished || p.2.2.status == .absent

/-- Operations that a finishing strand and a drain wait for: all but key rotations, which may themselves wait for the strand's grants (R204, R364). -/
def State.drainIds (s : State) : List OpInfo :=
  let rot := s.worlds.filterMap fun w => w.2.rotating.map fun r => r.2.2.id
  (s.infos.map (·.2)).filter fun i => !rot.contains i.id

/-- Every engine operation of the strand has retired. -/
def State.retiredAll (s : State) (c t : Nat) : Bool := !s.drainIds.any fun i => i.core == c && i.strand == t

/-- A seal of the workgroup has passed STOP (R351). -/
def State.draining (s : State) (wg : Nat) : Bool := s.seals.any fun q => q.wg == wg && !q.isUnseal && q.stage != .notice && q.stage != .stop

/-- A finished strand's FCOUNT goes to the launch's record (R291). -/
def State.markFinished (s : State) (w : Workgroup) (c t : Nat) : State :=
  let st := s.strandAt c t
  (s.setStrandAt c t { st with status := .finished, arrived := false, released := false }).modLaunch w.launch fun l =>
    { l with faults := l.faults + st.fcount.toNat }

/-- The workgroup ends when its last strand has finished; one that is being sealed waits for the seal to judge (R298, R334, R386). -/
def State.completeIf (s : State) (wg : Nat) : State :=
  match s.wgAt wg with
  | none => s
  | some w =>
    if !s.allFinished w then s
    else match w.state with
      | .running => s.endWg w true
      | .draining _ _ => s.endWg w false
      | _ => s

/-- STRAND_FINISH: after `end` every result has landed and every engine operation has retired; a strand of a terminated workgroup finishes when its operations have drained (R204, R334). -/
def execStrandFinish (core strand : Nat) (s : State) : Out State :=
  let st := s.strandAt core strand
  match (s.coreAt core).wg.bind s.wgAt with
  | none => .next s
  | some w =>
    let may : Bool := match st.status with
      | .ended => st.held.isEmpty && st.reports.isEmpty && !s.draining w.id
      | .stopped => st.storeIds.isEmpty
      | _ => false
    if may && s.retiredAll core strand then .next ((s.markFinished w core strand).completeIf w.id) else .next s

/-- Play out what is left in a PC's queue, each command as early as R62 lets it play (R55; log 81, DEDUCED). -/
def State.playOut (s : State) (key : Nat) : Nat → State
  | 0 => s
  | fuel + 1 =>
    let p := s.pcAt key
    match p.queue with
    | [] => s
    | c :: _ => (s.play key (Nat.max (Nat.max (p.lastPlay + c.delta) s.tick) p.ready) c).playOut key fuel

/-- The writes of a PC that have played are committed, and its reads land nowhere, since their workgroup is gone (log 81, DEDUCED). -/
def State.settlePc (s : State) (key : Nat) : State :=
  let s1 := s.afterPending key
  s1.setPc key { s1.pcAt key with reads := [], writes := [] }

/-- End a workgroup at once, whatever it has in flight; the queued commands of its pseudo-channels are played out (R55, R355; log 81, DEDUCED). -/
def State.dropWg (s : State) (w : Workgroup) : State :=
  let mine := (s.pcs.filter fun p => p.2.owner == some w.id).map (·.1)
  let s0 := mine.foldl (fun (s : State) key => (s.playOut key (s.pcAt key).queue.length).settlePc key) s
  let s1 := { s0 with
    fab := s0.fab.filter (fun o => o.info.wg != w.id)
    cks := s0.cks.filter (fun o => o.info.wg != w.id)
    seals := (s0.seals.filter (fun (o : SealReq) => o.info.wg != w.id)).map fun (o : SealReq) => if o.wg == w.id && !o.isUnseal then { o with endedBy := some 0 } else o }
  s1.endWg w false

/-! ### Channel windows (R51, R53) -/

/-- The window entry of a logical channel under the world's slice map (R50, R51, R366). -/
def World.chan (w : World) (lchan rank strand : Nat) : Chan :=
  let slots := (List.range 4).filterMap fun k => (SMap.find w.slices (lchan * 4 + k)).map fun x => (k, x)
  { lchan := lchan, rank := rank, strand := strand, pc := slots.head?.map (fun x => (x.2.1, x.2.2.1)), sids := slots.map fun x => (x.1, x.2.2.2),
    metered := slots.filterMap fun x => (w.bindings.find? fun b => b.slices.contains (lchan, x.1)).map fun b => (x.1, b.meter) }

/-- A channel is grantable: its PC is held by no workgroup and not busy with a fill, and no other workgroup that is sealed, or being sealed, holds the channel (R53, R101). -/
def State.grantable (s : State) (world own : Nat) (ch : Chan) : Bool :=
  match ch.pc with
  | none => true
  | some p =>
    let key := pcKey p.1 p.2
    (s.pcAt key).owner.isNone && !(s.filling.any fun f => f.2.1 == key)
      && !(s.wgs.any fun g => g.id != own && g.world == world && (g.state == .sealed || g.state == .sealing) && g.window.any fun c => c.lchan == ch.lchan)

/-- Make the grants of a window (R54). -/
def State.grantAll (s : State) (wg world : Nat) (chans : List Chan) : State :=
  chans.foldl (fun (s : State) ch => match ch.pc with
    | none => s
    | some p => let key := pcKey p.1 p.2; s.setPc key ((s.pcAt key).grant wg world s.tick)) s

/-! ### Clusters (R134, R274, R302) -/

/-- A cluster is in the partition of a world (R302, R356). -/
def World.hasCluster (w : World) (c : Nat) : Bool := c < 64 && w.pwpart.getLsbD c

/-- Clusters that hold workgroups of a launch. -/
def State.clustersOf (s : State) (l : Launch) : List Nat :=
  ((s.wgs.filter fun w => w.launch == l.id && !w.cores.isEmpty).map (·.cluster)).eraseDups

/-- A physical core may take a workgroup: free, not fenced, not resynchronising (R275, R341, R346). -/
def State.coreFree (s : State) (c : Nat) : Bool := (s.coreAt c).wg.isNone && !s.fenced.contains c && !s.resync.contains c

/-- The free ranks that a cluster offers: cores, or the even cores of free pairs in protected mode (R274, R295; log 48, DESIGN CHOICE). -/
def State.freeRanks (s : State) (w : World) (cluster : Nat) : List Nat :=
  if w.prot then ((List.range 6).map (cluster * 12 + 2 * ·)).filter fun c => s.coreFree c && s.coreFree (c + 1)
  else ((List.range 12).map (cluster * 12 + ·)).filter s.coreFree

end Sys2Proof.Machine
end

