-- ==== Sys2Proof/Machine/Seal.lean ====
section
/-! DEFINITION. Sealing and unsealing of workgroups (R79, R80, R350 to R354, R386). -/

namespace Sys2Proof.Machine

open Sys2Proof

/-! ### The request block (R350) -/

structure SealBlock where
  world : Nat
  queue : Nat
  wg : Nat
  flags : Nat
  seq : Nat
  area : Word
  cluster : Nat
  grace : Nat
  deriving DecidableEq, Repr

def SealBlock.ofBytes (b : List Byte) : SealBlock :=
  let f (o n : Nat) : Nat := leNat ((b.drop o).take n)
  ⟨f 0 1, f 1 1, f 2 2, f 4 4, f 8 8, word (f 16 8), f 24 2, f 26 2⟩

/-- NOTICE, bit 0. -/
def SealReq.notice (q : SealReq) : Bool := q.flags % 2 == 1
/-- TERMINATE, bit 1. -/
def SealReq.terminates (q : SealReq) : Bool := q.flags / 2 % 2 == 1

def SealReq.names (q : SealReq) (w : Workgroup) : Bool :=
  w.world == q.world && w.queue == q.queue && w.seq == q.seq && w.index == q.wgIndex && 1 ≤ q.world && q.world ≤ 15

/-- Bound of an image of `c` cores (R350). -/
def imageBound (c : Nat) : Nat := 65536 + c * 1216 * 1024

/-- The save area: a system-window address, 2 MiB aligned, whose pages translate up to the bound (R350). -/
def State.areaOk (s : State) (world : Nat) (area : Word) (c : Nat) : Bool :=
  Word.space area == 0 && area.toNat % Config.pageBytes == 0
    && (List.range ((imageBound c + Config.pageBytes - 1) / Config.pageBytes)).all fun i =>
      (sysPlace (s.worldAt world).live (area.toNat + i * Config.pageBytes)).isSome

/-- The request ends: status and byte count are written, 64 bytes counted (R350). A request of the package controller's own has no block. -/
def State.sealEnd (s : State) (q : SealReq) (status bytes : Nat) : State :=
  let i := q.info
  let s1 := if q.silent then s
    else s.modCore i.core fun k => (k.writeSpad i.world (q.block + 28) (leBytes 2 status)).writeSpad i.world (q.block + 32) (leBytes 8 bytes)
  let s2 := { s1 with seals := s1.seals.filter fun e => e.info.id != i.id }
  (s2.countFor i 64 false).arriveOp i

def State.modSeal (s : State) (id : Nat) (f : SealReq → SealReq) : State :=
  { s with seals := s.seals.map fun q => if q.info.id == id then f q else q }

def State.findSeal (s : State) (id : Nat) (stage : Stage) : Option SealReq := s.seals.find? fun q => q.info.id == id && q.stage == stage

/-! ### Issue (R350, R352) -/

/-- A strand to be notified: an open region takes class 6 (R351). -/
def Strand.takesNotice (st : Strand) : Bool :=
  (st.status == .running || st.status == .halted) && (Region.find st.regions (impreciseClass cNotice)).isSome

/-- NOTICE is delivered to every strand whose open regions take it (R351). -/
def State.giveNotice (s : State) (w : Workgroup) : State :=
  (s.strandsOf w).foldl (fun (s : State) p =>
    if p.2.2.takesNotice then
      (s.modStrandAt p.1 p.2.1 fun st => { st with notified := true }).report p.1 p.2.1 (imprecise cNotice 0 0)
    else s.modStrandAt p.1 p.2.1 fun st => { st with notified := false }) s

/-- Sum of FCOUNT over the strands of an image that had not finished. -/
def Image.faults (m : Image) : Nat :=
  m.cores.foldl (fun n (k : Core) => k.strands.foldl (fun n (p : Nat × Strand) => if p.2.status == .finished then n else n + p.2.fcount.toNat) n) 0

/-- A sealed workgroup is discarded (R352). -/
def State.discard (s : State) (w : Workgroup) : State :=
  let lost := ((s.images.find? fun m => m.wg.id == w.id).map Image.faults).getD 0
  let s1 := { s with
    images := s.images.map fun (m : Image) => if m.wg.id == w.id then { m with discarded := true } else m
    wgs := s.wgs.filter fun (x : Workgroup) => x.id != w.id }
  (s1.modLaunch w.launch fun l => { l with killed := true, faults := l.faults + lost }).noteEnd w false

/-- What a seal request does when the package controller takes it up (log 44, DEDUCED). -/
def State.startSeal (s : State) (q : SealReq) : State :=
  match s.wgs.find? q.names with
  | none => s.sealEnd q 1 0
  | some w =>
    match w.state with
    | .sealed => if q.terminates then (s.discard w).sealEnd q 0 0 else s.sealEnd q 1 0
    | .running =>
      if !q.terminates && !q.silent && !s.areaOk q.world q.area w.cores.length then s.sealEnd q 3 0
      else
        let q1 := { q with wg := w.id, stage := if q.notice then .notice else .stop, since := s.ns }
        let s1 := { s.modWg w.id (fun w => { w with state := .sealing }) with seals := s.seals ++ [q1] }
        if q.notice then s1.giveNotice w else s1
    | _ => s.sealEnd q 1 0

/-- An image that an unseal names (R350). -/
def State.imageOf (s : State) (q : SealReq) : Option Image := s.images.find? fun m => q.names m.wg && !m.discarded

/-- A request names a cluster that is not in the world's partition (R350). -/
def State.strayCluster (s : State) (q : SealReq) : Bool := q.cluster != 0xFFFF && !(s.worldAt q.world).hasCluster q.cluster

/-- What an unseal request does when the package controller takes it up (log 44, DEDUCED). -/
def State.startUnseal (s : State) (q : SealReq) : State :=
  if q.terminates then s.sealEnd q 7 0
  else match s.imageOf q with
    | none => s.sealEnd q 1 0
    | some m =>
      if s.strayCluster q then s.sealEnd q 2 0
      else if !q.silent && !s.areaOk q.world q.area m.cores.length then s.sealEnd q 3 0
      else { s with seals := s.seals ++ [{ q with stage := .verify }] }

/-- The checks of R350 at issue; the block is read then (log 44, DEDUCED; log 74, DEDUCED). -/
def sealIssue (s : State) (a : R5) (sync : BitVec 4) (isUnseal : Bool) : Out State :=
  if s.strand.world != 0 then s.fault cPriv
  else match ownAddr (s.src a) with
    | none => s.fault cSpace
    | some addr =>
      if addr % 64 != 0 then s.fault cAlign
      else
        let r := s.readSpad s.cur.core s.strand.world addr 64 s.core.vctl
        let b := SealBlock.ofBytes r.bytes
        let q : SealReq :=
          { info := s.newInfo clsNone (s.syncPtr sync), isUnseal := isUnseal, block := addr, world := b.world, queue := b.queue, seq := b.seq,
            wgIndex := b.wg, flags := b.flags, area := b.area, cluster := b.cluster, grace := b.grace, wg := 0, endedBy := none,
            stage := .verify, since := s.ns, bytes := 0, rows := [], silent := false }
        let s1 := (r.state.reportFlags s.cur.core s.cur.strand r.flags).bumpId
        (if isUnseal then s1.startUnseal q else s1.startSeal q).ok

/-- seal (R350 to R352). -/
def execSeal (a : R5) (sync : BitVec 4) (s : State) : Out State := sealIssue s a sync false

/-- unseal (R350, R353). -/
def execUnseal (a : R5) (sync : BitVec 4) (s : State) : Out State := sealIssue s a sync true

/-! ### The states of a seal (R351, R352, R386) -/

/-- A workgroup that ended while it was being sealed: status 6 with the fault code (R354). -/
def State.sealLost (s : State) (q : SealReq) (code : Nat) : State := s.sealEnd q (6 + 256 * (code % 256)) 0

/-- All strands have finished: the workgroup completes and is not sealed (R386). -/
def State.sealFinished (s : State) (q : SealReq) (w : Workgroup) : State := (s.endWg w true).sealEnd q 1 0

/-- Every notified strand has arrived at a phase since, which takes its mark, or finished (R351). -/
def State.noticeMet (s : State) (w : Workgroup) : Bool :=
  (s.strandsOf w).all fun p => !p.2.2.notified || p.2.2.status == .finished

/-- SEAL_NOTICE_END (R351, R354, R386). -/
def execSealNoticeEnd (id : Nat) (s : State) : Out State :=
  match s.findSeal id .notice with
  | none => .next s
  | some q =>
    match q.endedBy, s.wgAt q.wg with
    | some code, _ => .next (s.sealLost q code)
    | none, none => .next (s.sealLost q 0)
    | none, some w =>
      if s.noticeMet w || q.since + q.grace * 1000 ≤ s.ns then
        if s.allFinished w then .next (s.sealFinished q w) else .next (s.modSeal id fun q => { q with stage := .stop })
      else .next s

/-- SEAL_STOPPED: every strand has stopped at a bundle boundary; only a sent atomic keeps one from it (R330, R351, R386). Stores that a strand has issued go on in the drain (R230, R351; log 26, DEDUCED). -/
def execSealStopped (id : Nat) (s : State) : Out State :=
  match s.findSeal id .stop with
  | none => .next s
  | some q =>
    match q.endedBy, s.wgAt q.wg with
    | some code, _ => .next (s.sealLost q code)
    | none, none => .next (s.sealLost q 0)
    | none, some w =>
      if (s.strandsOf w).any fun p => p.2.2.sent.isSome then .next s
      else if !q.notice && s.allFinished w then .next (s.sealFinished q w)
      else
        let s1 := s.modSeal id fun q => { q with stage := .drain }
        .next (if q.terminates then s1.abandonWg q.wg else s1)

/-- Nothing of the workgroup is in flight (R351). -/
def State.drained (s : State) (w : Workgroup) : Bool :=
  (s.drainIds.all fun i => i.wg != w.id) && ((s.strandsOf w).all fun p => p.2.2.storeIds.isEmpty)
    && w.cores.all fun c => (s.coreAt c).rmw.isEmpty && (s.coreAt c).inbound.isEmpty

/-- The strands of a workgroup finish where they stand, and it is terminated (R334, R352). -/
def State.killWg (s : State) (w : Workgroup) : State :=
  let s1 := (s.strandsOf w).foldl (fun (s : State) p => if p.2.2.status == .finished then s else s.markFinished w p.1 p.2.1) s
  let s2 := { s1 with fab := s1.fab.filter fun o => o.info.wg != w.id }
  (s2.modLaunch w.launch fun l => { l with killed := true }).endWg w false

/-- SEAL_DRAIN_COMPLETE: the workgroup is terminated, or its rows are recorded and its grants released (R55, R79, R351, R352). -/
def execSealDrainComplete (id : Nat) (s : State) : Out State :=
  match s.findSeal id .drain with
  | none => .next s
  | some q =>
    match q.endedBy, s.wgAt q.wg with
    | some code, _ => .next (s.sealLost q code)
    | none, none => .next (s.sealLost q 0)
    | none, some w =>
      if !s.drained w then .next s
      else if q.terminates then .next ((s.killWg w).sealEnd q 0 0)
      else
        let rows := w.window.filterMap fun ch => ch.pc.map fun p => (ch.lchan, (s.pcAt (pcKey p.1 p.2)).rowOrder)
        .next ((s.releasePcs w.id).modSeal id fun q => { q with stage := .save, rows := rows })

/-- Bytes of an image: ciphertext, which is free (R350, R351; log 8, DESIGN CHOICE). -/
def Image.data (m : Image) : List Byte := (List.range m.bytes).map fun i => (Config.freeWord (m.seed + i)).setWidth 8

/-- Write bytes at a system-window address of a world, page by page. -/
def State.sysWriteRun (s : State) (world va : Nat) (bs : List Byte) : State :=
  (List.range (bs.length / Config.pageBytes + 1)).foldl (fun (s : State) i =>
    s.sysWrite world (va + i * Config.pageBytes) ((bs.drop (i * Config.pageBytes)).take Config.pageBytes)) s

/-- Read bytes at a system-window address of a world, page by page; none where a page does not translate. -/
def State.sysReadRun (s : State) (world va n : Nat) : Option (List Byte) :=
  ((List.range ((n + Config.pageBytes - 1) / Config.pageBytes)).mapM fun i =>
    s.sysRead world (va + i * Config.pageBytes) (Nat.min Config.pageBytes (n - i * Config.pageBytes))).map List.flatten

/-- The image of a workgroup as it stands when the save ends: what has been reported to it meanwhile is in it (R351, R354). -/
def State.imageFor (s : State) (q : SealReq) (w : Workgroup) (n : Nat) : Image :=
  { area := q.area, wg := w, cores := w.cores.map s.coreAt, rows := q.rows, bytes := n, seed := s.freeCount + 1, discarded := false }

/-- SEAL_IMAGE_COMMITTED: the image is in the area, the cores are freed, and the workgroup is sealed (R351, R354). -/
def execSealImageCommitted (id : Nat) (s : State) : Out State :=
  match s.findSeal id .save with
  | none => .next s
  | some q =>
    match q.endedBy, s.wgAt q.wg with
    | some code, _ => .next (s.sealLost q code)
    | none, none => .next (s.sealLost q 0)
    | none, some w =>
      let n := Config.imageBytes s.freeCount % (imageBound w.cores.length + 1)
      let m := s.imageFor q w n
      let s1 := { s with freeCount := s.freeCount + 1 + n, images := (s.images.filter fun (x : Image) => x.wg.id != w.id) ++ [m] }
      let s2 := ((s1.sysWriteRun w.world q.area.toNat m.data).freeCores w).modWg w.id fun w => { w with state := .sealed, cores := [] }
      .next (s2.sealEnd q 0 n)

/-! ### Unsealing (R80, R353) -/

/-- The cluster and the ranks on which a workgroup of `c` cores may be placed: of the cluster that the request names, or of the lowest one that R295 lets the launch use (R295, R350, R353). -/
def State.unsealRanks (s : State) (q : SealReq) (launch c : Nat) : Option (Nat × List Nat) :=
  let w := s.worldAt q.world
  let room (k : Nat) : Bool := decide (c ≤ (s.freeRanks w k).length)
  let within (k : Nat) : Bool := match s.launchOf launch with
    | some l => (s.clustersOf l).contains k || decide ((s.clustersOf l).length + 1 ≤ l.cmax)
    | none => true
  let chosen := if q.cluster != 0xFFFF then (if room q.cluster then some q.cluster else none)
    else (List.range 64).find? fun k => w.hasCluster k && (w.marked.map (·.1)) != some k && room k && within k
  chosen.map fun k => (k, (s.freeRanks w k).take c)

/-- The new physical core of an old one. -/
def coreMap (old new : List Nat) (c : Nat) : Nat := (new[old.idxOf c]?).getD c

/-- A saved core on its new physical core: instruction buffer empty, no latch held, the physical cycle count goes on (R353). -/
def Core.restored (k : Core) (phys : Core) (map : Nat → Nat) : Core :=
  { k with
    cycle := phys.cycle, due := phys.due, mFree := 0, lq := [], ibuf := [], runner := none, decision := true
    rings := k.rings.map fun (r : Nat × Ring) => (r.1, { r.2 with queue := r.2.queue.map fun (a : Arrival) => { a with core := map a.core } })
    strands := k.strands.map fun (t : Nat × Strand) => (t.1, { t.2 with fresh := 0 }) }

/-- Put the saved cores in place; operations of the workgroup that are not ended follow (R353). -/
def State.placeCores (s : State) (m : Image) (new : List Nat) : State :=
  let map := coreMap m.wg.cores new
  let s1 := (new.zip m.cores).foldl (fun (s : State) p => s.setCore p.1 (p.2.restored (s.coreAt p.1) map)) s
  s1.mapInfo fun i => if i.wg == m.wg.id then { i with core := map i.core } else i

/-- Re-activate recorded rows, six ticks apart, which keeps tRRD and tFAW; the restore point comes tRC after the last (R57, R80; log 52, DEDUCED). -/
def Pc.reopen (p : Pc) (prof : Config.Profile) (rows : List (Nat × Nat)) : Pc :=
  let t0 := p.ready
  let p1 := (rows.zipIdx).foldl (fun (p : Pc) r => p.openBank r.1.1 r.1.2 (t0 + 6 * r.2) prof.tRAS) p
  let point := if rows.isEmpty then t0 else t0 + 6 * (rows.length - 1) + prof.tRC
  { p1 with openRow := rows.foldl (fun m r => SMap.set m r.1 r.2) [], lastPlay := point, ready := point }

/-- Rows are restored on every channel of the window (R80; log 52, DEDUCED). -/
def State.reopenAll (s : State) (m : Image) (chans : List Chan) : State :=
  chans.foldl (fun (s : State) ch => match ch.pc with
    | none => s
    | some p =>
      let key := pcKey p.1 p.2
      s.setPc key ((s.pcAt key).reopen (Config.profile m.wg.mprof) (SMap.get m.rows [] ch.lchan))) s

/-- The world may run its workgroups here: no migration holds it, and its function is in RUN (R355, R370, R371; log 58, DEDUCED). -/
def State.runnable (s : State) (world : Nat) : Bool := (s.worldAt world).migration == .none && (s.worldAt world).tdisp == .run

/-- The image in the area is what was written there; one that the package controller keeps for a migration is in no area (R351, R370). -/
def State.imageGood (s : State) (q : SealReq) (m : Image) : Bool := q.silent || s.sysReadRun q.world q.area.toNat m.bytes == some m.data

/-- UNSEAL_PLACEMENT: the image is verified; when every channel is grantable and the world may run, the workgroup is placed, on a cluster that is still in the world's partition, and the grants are made (R53, R80, R350, R353, R371; log 52, DEDUCED). -/
def execUnsealPlacement (id : Nat) (s : State) : Out State :=
  match s.findSeal id .verify with
  | none => .next s
  | some q =>
    match s.imageOf q with
    | none => .next (s.sealEnd q 1 0)
    | some m =>
      if !s.imageGood q m then .next ((s.sysChecked q.world q.area.toNat m.bytes).sealEnd q 4 m.bytes)
      else
        let chans := m.wg.window.map fun ch => (s.worldAt q.world).chan ch.lchan ch.rank ch.strand
        if !s.runnable q.world || !chans.all (s.grantable q.world m.wg.id) then .next s
        else if s.strayCluster q then .next (s.sealEnd q 2 m.bytes)
        else match s.unsealRanks q m.wg.launch m.cores.length with
          | none => .next (if q.silent then s else s.sealEnd q 5 m.bytes)
          | some (k, new) =>
            let remap := ((s.wgAt m.wg.id).map (·.remap)).getD m.wg.remap
            let w : Workgroup := { m.wg with cluster := k, cores := new, state := .running, window := chans, remap := remap }
            let s1 := { s with
              wgs := s.wgs.map fun (x : Workgroup) => if x.id == w.id then w else x
              images := s.images.filter fun (x : Image) => x.wg.id != w.id }
            let s2 := (((s1.placeCores m new).grantAll w.id w.world chans).reopenAll m chans).freshView w.id
            .next (s2.modSeal id fun q => { q with wg := w.id, stage := .restore, bytes := m.bytes })

/-- A saved debug event is posted with flag bit 0 (R353, R354; log 25, DEDUCED). -/
def State.postDebug (s : State) (w : Workgroup) (c t : Nat) : State :=
  let st := s.strandAt c t
  match st.debugUnposted with
  | none => s
  | some (imm, pc, ctime) =>
    (s.setStrandAt c t { st with debugUnposted := none }).modWorld w.world fun x =>
      { x with debugQueue := x.debugQueue ++ [debugEvent w (s.coreAt c) t imm true pc ctime] }

/-- The saved reports of a strand whose `end` has issued are delivered at once (R204, R353). -/
def State.deliverEnded (s : State) (c t : Nat) : State :=
  (s.strandAt c t).reports.foldl (fun (s : State) f =>
    let st := s.strandAt c t
    match st.status, st.reports with
    | .ended, _ :: rest => (s.setStrandAt c t { st with reports := rest }).deliver c t f st.ctime
    | _, _ => s) s

/-- RESTORE_POINT: past the restore point of every PC the workgroup goes on (R80, R353; log 25, DEDUCED). -/
def execRestorePoint (wg : Nat) (s : State) : Out State :=
  match s.seals.find? fun q => q.isUnseal && q.wg == wg && q.stage == .restore with
  | none => .next s
  | some q =>
    match s.wgAt wg with
    | none => .next (s.sealEnd q 0 q.bytes)
    | some w =>
      let due := w.window.all fun ch => match ch.pc with
        | none => true
        | some p => decide ((s.pcAt (pcKey p.1 p.2)).ready ≤ s.tick)
      if !due then .next s
      else
        let s1 := s.sealEnd q 0 q.bytes
        let s2 := (s1.strandsOf w).foldl (fun (s : State) p => (s.postDebug w p.1 p.2.1).deliverEnded p.1 p.2.1) s1
        .next (s2.completeIf wg)

end Sys2Proof.Machine
end

