-- ==== Sys2Proof/Machine/Capacity.lean ====
section
/-! DEFINITION. Capacity changes of main memory (R81 to R86), the rows that repair and the notice of a bank without spare rows (R346), and the fill of a slice (R101). -/

namespace Sys2Proof.Machine

open Sys2Proof

/-! ### Memory event records (R85) -/

/-- Kinds of R81. -/
abbrev kRepair : Nat := 1
abbrev kNotice : Nat := 2
abbrev kMapOut : Nat := 3
abbrev kRetire : Nat := 4
abbrev kWithdrawn : Nat := 5

structure MemEvent where
  kind : Nat
  stack : Nat
  pc : Nat
  sids : Nat
  slices : Nat
  flags : Nat
  notice : Nat
  deriving DecidableEq, Repr

/-- A record, as a queue receives it (R85; log 62, DESIGN CHOICE). -/
def MemEvent.bytes (e : MemEvent) (seq world time : Nat) : List Byte :=
  leBytes 8 seq ++ leBytes 1 e.kind ++ leBytes 1 e.stack ++ leBytes 1 e.pc ++ leBytes 1 e.sids ++ leBytes 2 e.slices ++ leBytes 1 world
    ++ leBytes 1 e.flags ++ leBytes 8 time ++ leBytes 4 e.notice ++ leBytes 4 0

/-- Post a memory event to the physical function and to each affected world (R85; log 62, DESIGN CHOICE). -/
def State.memEvent (s : State) (e : MemEvent) (worlds : List Nat) : State :=
  let seq := s.eventSeq + 1
  let s1 := { s with
    eventSeq := seq, mcapEvents := s.mcapEvents + 1
    pfEvents := s.pfEvents ++ [e.bytes seq 0 s.ns] }
  worlds.foldl (fun (s : State) w => s.modWorld w fun x => { x with events := x.events ++ [e.bytes seq w s1.ns] }) s1

/-! ### Mappings -/

/-- The slices that a mask of SIDs names on a PC. -/
def maskSids (sids : BitVec 4) : List Nat := (List.range 4).filter sids.getLsbD

/-- Worlds with a slice mapped on a PC under one of the SIDs. -/
def State.worldsOn (s : State) (stack pc : Nat) (sids : List Nat) : List Nat :=
  (s.worlds.filter fun (w : Nat × World) => w.2.slices.any fun x => x.2.1 == stack && x.2.2.1 == pc && sids.contains x.2.2.2).map (·.1)

/-- A slice mapped there is bound to a meter (R366). -/
def State.meteredOn (s : State) (stack pc : Nat) (sids : List Nat) : Bool :=
  s.worlds.any fun (w : Nat × World) => w.2.slices.any fun x =>
    x.2.1 == stack && x.2.2.1 == pc && sids.contains x.2.2.2 && w.2.bindings.any fun b => b.slices.contains (x.1 / 4, x.1 % 4)

/-- The window of a workgroup names a logical channel: CHMAP.REMAP is set (R82, R83). -/
def State.setRemap (s : State) (world lchan : Nat) : State :=
  { s with wgs := s.wgs.map fun (w : Workgroup) => if w.world == world && w.window.any (fun c => c.lchan == lchan) then { w with remap := true } else w }

/-! ### Announcements (R81, R82) -/

/-- A line cannot be read any more: a data line fails from now on, and what rests on a line of a system channel breaks (R84, R98). -/
def State.loseLine (s : State) (pla : Nat) : State :=
  match s.systemLine pla with
  | some a => s.loseSystem a.1 a.2
  | none => if s.badLines.contains pla then s else { s with badLines := s.badLines ++ [pla] }

/-- The lines of a row that cannot be read any more are lost, and no cell of the spare row is bad (R81, R98). -/
def State.freshRow (s : State) (row : Nat) : State :=
  let s1 := (s.dramErrs.filter fun e => e.2 && e.1 / 8 == row).foldl (fun (s : State) e => s.loseLine e.1) s
  { s1 with dramErrs := s1.dramErrs.filter fun e => e.1 / 8 != row }

/-- A row of a bank is mapped to a spare row: its window ends, and it is recorded (R81, R346). -/
def State.repairRow (s : State) (key bank row : Nat) : State :=
  let pla := plaOf key (bankSid bank) (bankBg bank) (bank % 4) row 0
  { (s.freshRow (pla / 8)).settled (1 + pla / 8 * 8) with repaired := s.repaired ++ [(key * 64 + bank, row)] }

/-- A bank has a spare row left (R346). -/
def State.spareRowLeft (s : State) (key bank : Nat) : Bool := (s.repaired.filter fun r => r.1 == key * 64 + bank).length ≤ Config.spareRows

/-- A notice comes into force (log 55, DEDUCED). -/
def State.addNotice (s : State) (stack pc : Nat) (sids : BitVec 4) (endNs : Nat) : State :=
  { s with notices := s.notices ++ [{ stack := stack, pc := pc, sids := sids, endNs := endNs }] }

/-- Bit 0 of a record's flags: contents of a world must be moved; an event that names only system slices, whose contents the base die itself moves, sets it no more than one that names empty slices (R85; log 62, DESIGN CHOICE). -/
def moveFlag (worlds : List Nat) : Nat := if worlds.isEmpty then 0 else 1

/-- Slices are given notice: it comes into force and is announced (R82, R85). -/
def State.giveSliceNotice (s : State) (stack pc : Nat) (sids : BitVec 4) (noticeUs : Nat) : State :=
  let ws := s.worldsOn stack pc (maskSids sids)
  (s.addNotice stack pc sids (s.ns + noticeUs * 1000)).memEvent
    { kind := kNotice, stack := stack, pc := pc, sids := sids.toNat, slices := (maskSids sids).length, flags := moveFlag ws, notice := noticeUs } ws

/-- WITHDRAWAL_NOTICE: slices are to leave service after the notice period, which is at least 100 ms, or zero for a system slice that cannot wait (R82, R84, R85). -/
def execWithdrawalNotice (stack pc : Nat) (sids : BitVec 4) (noticeUs : Nat) (s : State) : Out State :=
  if noticeUs < 100000 && !(noticeUs == 0 && 56 ≤ pc) then .next s
  else .next (s.giveSliceNotice stack pc sids noticeUs)

/-- A lasting row whose bank has no spare row left: its slice is given notice, and its mark goes, as with a repair (R82, R346). -/
def State.rowUnspared (s : State) (stack pc bank row : Nat) : State :=
  let pla := plaOf (pcKey stack pc) (bankSid bank) (bankBg bank) (bank % 4) row 0
  (s.settled (1 + pla / 8 * 8)).giveSliceNotice stack pc (BitVec.ofNat 4 (2 ^ bankSid bank)) (100000 + Config.noticeMore)

/-- ROW_REPAIR: a faulty row is mapped to a spare row of its bank while no workgroup owns the PC; addresses, contents and timing stay. With no spare row left the slice is given notice (R81, R346). -/
def execRowRepair (stack pc bank row : Nat) (s : State) : Out State :=
  let key := pcKey stack pc
  if (s.pcAt key).owner.isSome then .next s
  else if !s.spareRowLeft key bank then .next (s.rowUnspared stack pc bank row)
  else
    let s1 := s.repairRow key bank row
    .next (s1.memEvent { kind := kRepair, stack := stack, pc := pc, sids := 2 ^ bankSid bank, slices := 1, flags := 0, notice := 0 }
      (s1.worldsOn stack pc [bankSid bank]))

/-- The rows that training finds faulty, by pseudo-channel × 64 + bank and row: repaired, or their slice given notice (R346, R383). -/
def State.repairRows (s : State) (rows : List (Nat × Nat)) : State :=
  rows.foldl (fun (s : State) r =>
    let key := r.1 / 64
    if s.spareRowLeft key (r.1 % 64) then s.repairRow key (r.1 % 64) r.2 else s.rowUnspared (key / 64) (key % 64) (r.1 % 64) r.2) s

/-- LAYER_MAP_OUT: the die's SID is to leave service on every PC of the stack: 56 data slices and 8 system slices; the manual gives the record no notice period (R81, R85; log 55, DEDUCED). -/
def execLayerMapOut (stack sid : Nat) (s : State) : Out State :=
  let ws := (s.worlds.filter fun (w : Nat × World) => w.2.slices.any fun x => x.2.1 == stack && x.2.2.2 == sid % 4).map (·.1)
  let s0 := { s with lasting := s.lasting.filter fun x => !(x % 8 == 4 && x / 32 == stack * 4 + sid % 4) }
  let s1 := (List.range 64).foldl (fun (s : State) pc => s.addNotice stack pc (BitVec.ofNat 4 (2 ^ (sid % 4))) s.ns) s0
  .next (s1.memEvent { kind := kMapOut, stack := stack, pc := 0xFF, sids := 2 ^ (sid % 4), slices := 64, flags := moveFlag ws, notice := 0 } ws)

/-- CHANNEL_RETIREMENT: the PC is to leave service with all four SIDs (R81, R85; log 55, DEDUCED). -/
def execChannelRetirement (stack pc : Nat) (s : State) : Out State :=
  let ws := s.worldsOn stack pc [0, 1, 2, 3]
  .next ((s.addNotice stack pc 0xF s.ns).memEvent
    { kind := kRetire, stack := stack, pc := pc, sids := 0xF, slices := 4, flags := moveFlag ws, notice := 0 } ws)

/-! ### Withdrawal (R83) -/

/-- A window entry loses a SID slot; without any it has no PC (R67, R83). -/
def Chan.dropSlot (c : Chan) (slot : Nat) : Chan :=
  let left := SMap.erase c.sids slot
  { c with sids := left, metered := SMap.erase c.metered slot, pc := if left.isEmpty then none else c.pc }

/-- A logical channel's SID slot loses its mapping (R83). -/
def State.unmapSlice (s : State) (world key : Nat) : State :=
  let lchan := key / 4
  let s1 := s.modWorld world fun w => { w with slices := SMap.erase w.slices key }
  ({ s1 with
    wgs := s1.wgs.map fun (w : Workgroup) =>
      if w.world == world then
        { w with window := w.window.map fun (c : Chan) => if c.lchan == lchan then c.dropSlot (key % 4) else c }
      else w }).setRemap world lchan

/-- Every mapping that is left on the named slices is lost (R83). -/
def State.loseMappings (s : State) (stack pc : Nat) (sids : List Nat) : State :=
  s.worlds.foldl (fun (s : State) (w : Nat × World) => (w.2.slices.filter fun x => x.2.1 == stack && x.2.2.1 == pc && sids.contains x.2.2.2).foldl
    (fun (s : State) x => s.unmapSlice w.1 x.1) s) s

/-- The data slice that device firmware withdraws next to free metadata: the highest PC, then the highest SID, in service (R84 step 4). -/
def State.forcedSlice (s : State) (stack : Nat) : Option (Nat × Nat) :=
  (((List.range 224).reverse.map fun i => (i / 4, i % 4)).find? fun x => !s.gone stack x.1 x.2)

/-- WITHDRAWN: at the end of the notice period, or to free metadata that system slices need, slices leave service. Metered slices and used system slices have been moved before; a fill of such a slice ends with it; the logical system slices that were not in use go with their places (R83, R84, R366). -/
def execWithdrawn (stack pc : Nat) (sids : BitVec 4) (s : State) : Out State :=
  let ids := maskSids sids
  let due := ids.all fun i => s.notices.any fun n => n.stack == stack && n.pc == pc && n.sids.getLsbD i && n.endNs ≤ s.ns
  let forced := s.systemShort stack && ids.length == 1 && s.forcedSlice stack == (ids.head?.map fun i => (pc, i))
  if !(due || forced) || s.meteredOn stack pc ids || (56 ≤ pc && s.systemOn stack pc ids) then .next s
  else
    let ws := s.worldsOn stack pc ids
    let gone := (ids.map fun i => (stack, pc, i)).filter fun g => !s.goneSlices.contains g
    let s1 := { s.loseMappings stack pc ids with
      goneSlices := s.goneSlices ++ gone
      filling := s.filling.filter fun f => !(f.2.1 == pcKey stack pc && ids.contains f.2.2)
      sysOff := s.sysOff ++ (if 56 ≤ pc then ids.filterMap (s.systemHolder stack pc) else [])
      notices := (s.notices.map fun (n : Notice) => if n.stack == stack && n.pc == pc then { n with sids := n.sids &&& ~~~sids } else n).filter fun n => n.sids != 0 }
    .next (s1.memEvent { kind := kWithdrawn, stack := stack, pc := pc, sids := sids.toNat, slices := ids.length, flags := if ws.isEmpty && !forced then 0 else 2, notice := 0 } ws)

/-! ### Moves (R82, R84) -/

/-- The largest major that a slice has held (R101). -/
def State.topMajor (s : State) (key sid : Nat) : Word :=
  (s.majors.filter fun m => sliceOfPla (m.1 * 64) == (key, sid)).foldl (fun t m => if t.toNat < m.2.toNat then m.2 else t)
    (SMap.get s.topMajors 0 (key * 4 + sid))

/-- Put a run of keys with one value into a map, replacing what it held of them. -/
def SMap.fillRun {α : Type} (m : SMap α) (first n : Nat) (v : α) : SMap α :=
  (m.filter fun p => p.1 < first) ++ (List.range n).map (fun i => (first + i, v)) ++ m.filter fun p => first + n ≤ p.1

/-- A slice is allocated: every version of it starts above every version that it has used (R93, R101). -/
def State.newVersions (s : State) (key sid : Nat) : State :=
  { s with
    majors := SMap.fillRun s.majors (plaOf key sid 0 0 0 0 / 64) 32768 (s.topMajor key sid + 1)
    minors := s.minors.filter fun m => sliceOfPla m.1 != (key, sid) }

/-- Copy the lines of a slice, with what is known of each, to another slice, whose versions start above every one that it has used (R82, R93; log 56, DEDUCED). -/
def State.copySlice (s : State) (k0 s0 k1 s1 : Nat) : State :=
  let b0 := plaOf k0 s0 0 0 0 0
  let b1 := plaOf k1 s1 0 0 0 0
  let n := 2 ^ 21
  let inside (l : Nat) : Bool := b0 ≤ l && l < b0 + n
  let out (l : Nat) : Bool := l < b1 || b1 + n ≤ l
  let node (x : Nat × Nat × Nat) : Nat × Nat × Nat := (k1 / 64, x.2.1, (k1 % 64 * 4 + s1) * 8 ^ (5 - x.2.1) + x.2.2 % 8 ^ (5 - x.2.1))
  let r := (s.soundSlice k1 s1).newVersions k1 s1
  { r with
    badTags := r.badTags ++ (s.badTags.filter inside).map fun l => l - b0 + b1
    badNodes := r.badNodes ++ (s.badNodes.filter (nodeOfSlice k0 s0)).map node
    failedNodes := r.failedNodes ++ (s.failedNodes.filter (nodeOfSlice k0 s0)).map node
    dram := (s.dram.filter fun c => inside (c.1 / 128)).foldl (fun (m : Memory) c => Memory.write m (c.1 - b0 * 128 + b1 * 128) c.2)
      (Memory.clear s.dram (b1 * 128) (n * 128))
    badLines := r.badLines ++ (s.badLines.filter inside).map fun l => l - b0 + b1
    poisonLines := s.poisonLines.filter out ++ (s.poisonLines.filter inside).map fun l => l - b0 + b1 }

/-- LOGICAL_CHANNEL_MOVE: the base dies have copied a logical channel whole to a PC with four free SIDs, while no running workgroup held it and no fill went on in it; its SIDs keep their numbers (R50, R82; log 56, DEDUCED). -/
def execLogicalChannelMove (world lchan stack pc : Nat) (s : State) : Out State :=
  let w := s.worldAt world
  let mine := w.slices.filter fun x => x.1 / 4 == lchan
  let key := pcKey stack pc
  let held := mine.any fun x =>
    (s.pcAt (pcKey x.2.1 x.2.2.1)).owner.isSome || s.filling.any fun f => f.2.1 == pcKey x.2.1 x.2.2.1
  let free := (s.worldsOn stack pc [0, 1, 2, 3]).isEmpty && (s.pcAt key).owner.isNone && !(s.filling.any fun f => f.2.1 == key)
    && !(s.goneSlices.any fun g => g.1 == stack && g.2.1 == pc) && pc < 56
  if mine.isEmpty || held || !free then .next s
  else
    let s1 := mine.foldl (fun (s : State) x => s.copySlice (pcKey x.2.1 x.2.2.1) x.2.2.2 key x.2.2.2) s
    let moved (k : Nat) : Nat := if mine.any fun x => pcKey x.2.1 x.2.2.1 * 4 + x.2.2.2 == k then key * 4 + k % 4 else k
    .next ((s1.modWorld world fun w =>
      { w with
        slices := w.slices.map fun x => if x.1 / 4 == lchan then (x.1, (stack, pc, x.2.2.2)) else x
        rotSlices := w.rotSlices.map moved }).setRemap
      world lchan)

/-- SYSTEM_SLICE_MOVE: a named system slice has been copied as stored to a free physical slice and the map is updated; the unused slice that held that place takes the place left. Lines that cannot be read are moved as poisoned lines (R84; log 56, DEDUCED). -/
def execSystemSliceMove (stack slice pc sid : Nat) (s : State) : Out State :=
  let l := stack * 32 + slice % 32
  let old := s.systemPlace l
  let new := (pc, sid % 4)
  if stack ≥ 8 || s.sysOff.contains l || old == new || !s.systemFree stack new then .next s
  else
    let m := match s.systemHolder stack pc (sid % 4) with
      | some u => SMap.set s.sysMap u old
      | none => s.sysMap
    let key := pcKey stack old.1
    let s1 := (s.unreadable key old.2).foldl (fun (s : State) a => s.loseSystem stack (l % 32 * 2 ^ 28 + a * 128)) s
    .next { s1 with
      sysMap := SMap.set m l new
      dramErrs := s1.dramErrs.filter fun e => sliceOfPla e.1 != (key, old.2) && sliceOfPla e.1 != (pcKey stack pc, sid % 4) }

/-! ### Fills (R101) -/

/-- A fill of a slice begins: its PC is unowned and busy until it completes; the slice is in service and bound to no meter (R83, R101, R366). -/
def State.startFill (s : State) (world stack pc sid : Nat) : State :=
  let key := pcKey stack pc
  if (s.pcAt key).owner.isSome || s.gone stack pc sid || s.meteredOn stack pc [sid] || 56 ≤ pc || s.filling.contains (world, key, sid) then s
  else { s with filling := s.filling ++ [(world, key, sid)] }

/-- Every line of a slice is written with encrypted zeros, above every version that the slice has used (R101). -/
def State.fillSlice (s : State) (key sid : Nat) : State :=
  let base := plaOf key sid 0 0 0 0
  { (s.soundSlice key sid).newVersions key sid with
    dram := Memory.clear s.dram (base * 128) (2 ^ 28)
    poisonLines := s.poisonLines.filter fun l => sliceOfPla l != (key, sid) }

/-- Mapping the slice keeps the rules of R50: one PC for a logical channel, no PC for two, and no slice for two worlds (R53). -/
def State.mapOk (s : State) (world lchan slot stack pc sid : Nat) : Bool :=
  s.worlds.all fun (w : Nat × World) => w.2.slices.all fun x =>
    let same := w.1 == world && x.1 / 4 == lchan
    (!same || (x.2.1 == stack && x.2.2.1 == pc) || x.1 == lchan * 4 + slot)
      && (same || !(x.2.1 == stack && x.2.2.1 == pc))
      && (!(x.2.1 == stack && x.2.2.1 == pc && x.2.2.2 == sid) || (same && x.1 == lchan * 4 + slot))

/-- A SID slot of a logical channel belongs to a bound region, whose slices stay with the world (R366). -/
def World.boundSlot (w : World) (lchan slot : Nat) : Bool := w.bindings.any fun b => b.slices.contains (lchan, slot)

/-- SLICE_FILL_COMPLETE: the fill is committed, and only then is the slice mapped; a slot of a bound region takes no other slice (R101, R366). -/
def execSliceFillComplete (world lchan sidslot stack pc sid : Nat) (s : State) : Out State :=
  let key := pcKey stack pc
  if !(s.filling.contains (world, key, sid)) || !s.mapOk world lchan sidslot stack pc sid || s.gone stack pc sid || s.meteredOn stack pc [sid]
      || (s.worldAt world).boundSlot lchan sidslot || 512 ≤ lchan || 4 ≤ sidslot then .next s
  else
    let s1 := { s.fillSlice key sid with filling := s.filling.filter (· != (world, key, sid)) }
    .next (s1.modWorld world fun w => { w with slices := SMap.set w.slices (lchan * 4 + sidslot) (stack, pc, sid) })

end Sys2Proof.Machine
end

