-- ==== Sys2Proof/Machine/Ckpt.lean ====
section
/-! DEFINITION. Checkpoints (R372 to R375): cksave and ckload, whose work is done in the background and reported in the request block. -/

namespace Sys2Proof.Machine

open Sys2Proof

/-! ### Issue (R372) -/

/-- A checkpoint operation is queued. -/
def ckIssue (s : State) (x : R5) (sync : BitVec 4) (load : Bool) : Out State :=
  match ownAddr (s.src x) with
  | none => s.fault cSpace
  | some addr =>
    if addr % 128 != 0 then s.fault cAlign
    else if s.syncMissing sync then s.fault cSpace
    else if 4 ≤ (s.cks.filter fun o => o.info.core == s.cur.core && o.info.strand == s.cur.strand).length then s.fault cSched
    else
      let o : CkOp := { info := s.newInfo clsF (s.syncPtr sync), load := load, block := addr, puts := [], failed := false, pending := none }
      State.ok { s.bumpId with cks := s.cks ++ [o] }

/-- cksave (R372). -/
def execCksave (x : R5) (sync : BitVec 4) (s : State) : Out State := ckIssue s x sync false

/-- ckload (R372). -/
def execCkload (x : R5) (sync : BitVec 4) (s : State) : Out State := ckIssue s x sync true

/-! ### The request block -/

structure CkReq where
  kind : Nat
  level : Nat
  epoch : Nat
  shard : Nat
  count : Nat
  list : Word
  entries : Nat
  place : Word
  capacity : Nat
  /-- the fields that must be zero are not, of both operations, and of a ckload -/
  dirty : Bool
  outputs : Bool
  deriving DecidableEq, Repr

def CkReq.ofBytes (b : List Byte) : CkReq :=
  let f (o n : Nat) : Nat := leNat ((b.drop o).take n)
  ⟨f 0 1, f 1 1, f 8 8, f 16 4, f 20 4, word (f 24 8), f 32 2, word (f 40 8), f 48 8, f 2 2 != 0 || f 34 6 != 0 || f 96 32 != 0, f 56 40 != 0⟩

/-- The place is a space-6 pointer, 64-aligned (R372). -/
def CkReq.placeOk (r : CkReq) : Bool := (peerPtr r.place).isSome && r.place.toNat % 64 == 0

/-- The source list lies in the own scratchpad (R372). -/
def CkReq.listOk (r : CkReq) : Bool :=
  match ownAddr r.list with
  | some a => 1 ≤ r.entries && r.entries ≤ 512 && a + 8 * r.entries ≤ 16 * Config.bankBytes
  | none => false

/-- A field holds a value that R372 does not give it, for which R375 names no status (log 46, DEDUCED). -/
def CkReq.bad (r : CkReq) (load : Bool) : Bool :=
  r.dirty || 2 ≤ r.kind || !r.placeOk
    || (if load then r.level != 0 || r.count != 0 || r.list != 0 || r.entries != 0 || r.outputs || (r.kind == 0 && (r.epoch != 0 || 4095 < r.shard))
        else if r.kind == 1 then r.count == 0 || 4096 < r.count
        else 19 < r.level || 4095 < r.shard || !r.listOk)

/-- An item of a source list: a slice by lchan and SID slot, a page by VA[55:21] (R372). -/
inductive CkItem where
  | slice (lchan slot : Nat)
  | page (p : Nat)
  deriving DecidableEq, Repr

/-- What a source list names, in its order, and whether an entry has another form (R372). -/
structure CkSources where
  items : List CkItem
  bad : Bool
  deriving DecidableEq, Repr

def ckSources : List Nat → CkSources
  | [] => ⟨[], false⟩
  | e :: es =>
    let r := ckSources es
    if e / 2 ^ 60 == 0 then ⟨.slice (e % 2 ^ 9) (e / 2 ^ 9 % 4) :: r.items, r.bad || e / 2 ^ 11 != 0⟩
    else if e / 2 ^ 60 == 1 then
      ⟨(List.range (e % 2 ^ 16 + 1)).map (fun i => .page (e / 2 ^ 21 % 2 ^ 35 + i)) ++ r.items, r.bad || e / 2 ^ 16 % 2 ^ 5 != 0 || e / 2 ^ 56 % 2 ^ 4 != 0⟩
    else { r with bad := true }

def CkSources.slices (c : CkSources) : List (Nat × Nat) :=
  c.items.filterMap fun x => match x with
    | .slice l k => some (l, k)
    | .page _ => none

def CkSources.pages (c : CkSources) : List Nat :=
  c.items.filterMap fun x => match x with
    | .slice _ _ => none
    | .page p => some p

/-- Bytes of an item's contents. -/
def CkItem.size : CkItem → Nat
  | .slice _ _ => 2 ^ 28
  | .page _ => Config.pageBytes

/-- The page number of VA[55:21], where it lies in the system window (R47). -/
def ckPage (p : Nat) : Option Nat := if p / 2 ^ 31 == 1 && p % 2 ^ 31 / 2 ^ 18 == 0 then some (p % 2 ^ 18) else none

/-- The eight-byte values of a list. -/
def words8 (n : Nat) (b : List Byte) : List Nat := (List.range n).map fun i => leNat ((b.drop (8 * i)).take 8)

/-- A slice of the world is bound to a meter (R366). -/
def World.meteredSlice (w : World) (lchan slot : Nat) : Bool := w.bindings.any fun b => b.slices.contains (lchan, slot)

/-- The pseudo-channel that a slice lies on. -/
def World.sliceAt (w : World) (lchan slot : Nat) : Option (Nat × Nat) :=
  (SMap.find w.slices (lchan * 4 + slot)).map fun x => (pcKey x.1 x.2.1, x.2.2)

/-- The frame of a page that a list names, under the translation in force. -/
def World.ckFrame (w : World) (p : Nat) : Option Page := (ckPage p).bind (SMap.find w.live)

/-- Status of the sources of an operation: 2 unmapped, 4 metered, 9 in the issuing workgroup's own window (R373, R375; log 46, DEDUCED). -/
def State.ckStatus (s : State) (o : CkOp) (c : CkSources) : Nat :=
  let w := s.worldAt o.info.world
  let own := ((s.wgAt o.info.wg).map (·.window)).getD []
  if c.slices.any (fun x => (w.sliceAt x.1 x.2).isNone) || c.pages.any (fun p => (w.ckFrame p).isNone) then 2
  else if c.slices.any fun x => w.meteredSlice x.1 x.2 then 4
  else if c.slices.any fun x => own.any fun ch => ch.lchan == x.1 && ch.pc.isSome then 9
  else 0

/-- A listed slice is granted to a running workgroup: the base die waits (R373). -/
def State.ckWaits (s : State) (o : CkOp) (c : CkSources) : Bool :=
  let w := s.worldAt o.info.world
  c.slices.any fun x => match w.sliceAt x.1 x.2 with
    | some p => (s.pcAt p.1).owner.isSome
    | none => false

/-- The operation ends: status and output fields are written, 128 bytes counted, the syllable retired (R372). -/
def State.ckEnd (s : State) (o : CkOp) (status : Nat) (out : Option (Nat × BitVec 256)) : State :=
  let i := o.info
  let s1 := s.modCore i.core fun k =>
    let k1 := k.writeSpad i.world (o.block + 4) (leBytes 4 status)
    match out with
    | some r => (k1.writeSpad i.world (o.block + 56) (leBytes 8 r.1)).writeSpad i.world (o.block + 64) (hashBytes r.2)
    | none => k1
  let s2 := { s1 with cks := s1.cks.filter fun e => e.info.id != i.id }
  (s2.countFor i 128 false).arriveOp i

/-- It ends with a status that the manual does not name (log 46, DEDUCED). -/
def State.ckEndFree (s : State) (o : CkOp) : State :=
  let f := s.free
  f.2.ckEnd o (f.1.toNat % 2 ^ 32) none

/-! ### Puts of a checkpoint (R264, R265, R373, R374) -/

/-- A put of the package controller for a checkpoint: it belongs to no strand, has no local side, and counts nowhere. -/
def State.ckPut (s : State) (o : CkOp) (place : Word) (bs : List Byte) : FabOp :=
  let n := (bs.length + 63) / 64 * 64
  { s.newFab .put place .none n false 15 with
    info := { o.info with id := s.nextId, core := 768, strand := s.nextId, after := [], arrive := [], sync := 0 }
    data := bs ++ List.replicate (n - bs.length) 0
    got := n }

/-- Puts that carry bytes to a place, in pieces of at most 2,048 lines that end at multiples of 128 KiB (log 46, DEDUCED): the state and their numbers. -/
def State.ckPuts (s : State) (o : CkOp) : Nat → Word → List Byte → State × List Nat
  | 0, _, _ => (s, [])
  | fuel + 1, place, bs =>
    if bs.isEmpty then (s, [])
    else
      let room := 131072 - place.toNat % 131072
      let r := (s.queueFab (s.ckPut o place (bs.take room))).ckPuts o fuel (place + word room) (bs.drop room)
      (r.1, s.nextId :: r.2)

/-- Stored bytes go to their place; without a route the operation ends with status 3 (R262, R375; log 46, DEDUCED). -/
def State.ckSend (s : State) (o : CkOp) (manifest : Bool) (h : Shard) (data : List Byte) : State :=
  let dev := Word.field h.place 43 13
  if dev == s.device || !s.carries o.info.world dev .put then s.ckEnd o 3 none
  else
    let p := s.ckPuts o (data.length / 131072 + 2) h.place data
    { p.1 with cks := p.1.cks.map fun c => if c.info.id == o.info.id then { c with puts := p.2, pending := some (manifest, h) } else c }

/-- A put of the operation is still to be acknowledged (R373, R374). -/
def State.ckPutting (s : State) (o : CkOp) : Bool := s.fab.any fun e => o.puts.contains e.info.id

/-! ### cksave (R373, R374) -/

/-- Chain index of a world's last statement, bytes 200 to 207 of it (R369, R374). -/
def World.lastIndex (w : World) : Nat := leNat ((w.lastBytes.drop 200).take 8)

/-- KC of an epoch is drawn at its first cksave (R358). -/
def State.drawKC (s : State) (world epoch : Nat) : State :=
  if (SMap.find (s.worldAt world).kcEpochs epoch).isSome then s
  else { s.modWorld world (fun x => { x with kcEpochs := SMap.set x.kcEpochs epoch (s.drbg + 1) }) with drbg := s.drbg + 1 }

/-- KC of an epoch, in the world's own record (R358). -/
def World.ownKC (w : World) (world epoch : Nat) : Option (BitVec 256) := (SMap.find w.kcEpochs epoch).map (keyKC world)

/-- A ciphertext to the owner's release key (R370, R374). -/
def World.encapsulated (w : World) (draw : Nat) : List Byte := (List.range 1568).map (Config.encapsulation (w.releaseKey.getD []) draw)

/-- A key wrapped under the secret of a ciphertext to the owner's release key (R374). -/
def World.wrapped (w : World) (cipher : List Byte) (k : BitVec 256) : List Byte :=
  (List.range 40).map (Config.keyWrap (Config.kemSecret (w.releaseKey.getD []) cipher) k)

/-- A manifest without its signature, with KC wrapped for the owner's release key. What it says of meters and statement is what holds as it is built and signed, since its bytes do not change after that (R374; log 46, DEDUCED). -/
def World.manifestBytes (w : World) (world epoch : Nat) (shards : List Shard) (kc : BitVec 256) (draw : Nat) : List Byte :=
  let prev := match w.manifest with
    | some m => m.2
    | none => 0
  leBytes 2 2 ++ leBytes 1 world ++ leBytes 1 1 ++ leBytes 4 shards.length ++ leBytes 8 epoch ++ hashBytes Config.deviceIdentity
    ++ hashBytes prev ++ w.meterBytes ++ hashBytes w.lastStatement ++ leBytes 8 w.lastIndex ++ w.encapsulated draw ++ w.wrapped (w.encapsulated draw) kc ++ leBytes 4 3284 ++ leBytes 4 0
    ++ shards.flatMap fun h => leBytes 4 h.index ++ leBytes 4 0 ++ leBytes 8 h.place.toNat ++ leBytes 8 h.bytes ++ leBytes 8 h.raw ++ hashBytes h.hash

/-- Bytes of a manifest of `n` shards (R374). -/
def manifestSize (n : Nat) : Nat := (1864 + 64 * n + 3284 + 63) / 64 * 64

/-- The shards of an epoch, 0 to count − 1, if all are recorded. -/
def World.shardsOf (w : World) (epoch count : Nat) : Option (List Shard) :=
  (List.range count).mapM fun i => w.shards.find? fun h => h.epoch == epoch && h.index == i

/-- A manifest is built, signed and sent to its place (R374, R375). -/
def State.saveManifest (s : State) (o : CkOp) (r : CkReq) : State :=
  let wi := o.info.world
  let w := s.worldAt wi
  match w.shardsOf r.epoch r.count with
  | none => s.ckEnd o 5 none
  | some shards =>
    if w.manifest.any fun m => m.1 == r.place then s.ckEnd o 10 none
    else if hssTree ≤ s.hssLeaves then s.ckEnd o 11 none
    else if r.capacity < manifestSize r.count then s.ckEnd o 1 none
    else
      let body := w.manifestBytes wi r.epoch shards ((w.ownKC wi r.epoch).getD 0) (s.drbg + 1)
      let signed := body ++ (List.range 3284).map (Config.signature (sha256 body) s.hssLeaves)
      let whole := signed ++ List.replicate (manifestSize r.count - signed.length) 0
      { s.sign.2 with drbg := s.drbg + 1 }.ckSend o true ⟨r.epoch, 0, r.place, manifestSize r.count, 0, sha256 whole⟩ whole

/-- Contents of a data slice as its base die reads them: lines that are poisoned, or that fail and are logged, are zero (R98, R373; log 46, DEDUCED). -/
def State.slicePlain (s : State) (world key sid : Nat) : List Byte × State :=
  let lines := (List.range (2 ^ 21)).map (plaOf key sid 0 0 0 0 + ·)
  let v := s.judgeLines lines
  (lines.flatMap fun l => if v.1.contains l || s.poisonLines.contains l then List.replicate 128 0 else Memory.readN s.dram (l * 128) 128,
   v.1.foldl (fun s l => s.verifyEvent world l) v.2)

/-- Contents of an item of a source list (R373). -/
def State.itemPlain (s : State) (world : Nat) (x : CkItem) : List Byte × State :=
  let w := s.worldAt world
  match x with
  | .slice l k => match w.sliceAt l k with
    | some p => s.slicePlain world p.1 p.2
    | none => ([], s)
  | .page p => match w.ckFrame p with
    | some e =>
      let a := e.frame * Config.pageBytes
      (s.readSys a Config.pageBytes, s.sysVerify world a Config.pageBytes)
    | none => ([], s)

/-- The plaintext of a shard (R373). -/
def State.shardPlain (s : State) (world : Nat) : List CkItem → List Byte × State
  | [] => ([], s)
  | x :: xs =>
    let a := s.itemPlain world x
    let b := a.2.shardPlain world xs
    (a.1 ++ b.1, b.2)

/-- Pieces of a list, each of `n`, but the last. -/
def pieces (n : Nat) : Nat → List Byte → List (List Byte)
  | 0, _ => []
  | fuel + 1, bs => if bs.isEmpty then [] else bs.take n :: pieces n fuel (bs.drop n)

/-- The frames of 2 MiB of a plaintext (R373). -/
def shardFrames (plain : List Byte) : List (List Byte) := pieces Config.pageBytes (plain.length / Config.pageBytes + 1) plain

/-- IV of a frame: shard ## frame number (R373). -/
def shardIv (shard n : Nat) : BitVec 96 := (BitVec.ofNat 32 shard) ++ (BitVec.ofNat 64 n)

/-- A header (R373; log 8, DESIGN CHOICE). -/
def shardHead (epoch shard : Nat) (sources counts : List Nat) : List Byte := (List.range 256).map (Config.shardHeader epoch shard sources counts)

/-- A shard as stored: the header with the byte counts, raw and of each sealed frame, and the frames, each compressed and sealed; the header is the additional data of frame 0 (R373). A sealed frame is as long as its text with a tag of 16 bytes. -/
def shardStored (kc : BitVec 256) (level epoch shard : Nat) (sources : List Nat) (plain : List Byte) : List Byte :=
  let z := (shardFrames plain).map (Config.zstd level)
  let head := shardHead epoch shard sources (plain.length :: z.map fun f => f.length + 16)
  head ++ z.zipIdx.flatMap fun f => Config.gcmSeal kc (shardIv shard f.2) (if f.2 == 0 then head else []) f.1

/-- A shard is compressed, sealed and sent to its place (R373, R375). -/
def State.saveShard (s : State) (o : CkOp) (r : CkReq) (sources : List Nat) : State :=
  let wi := o.info.world
  let c := ckSources sources
  let st := s.ckStatus o c
  if st != 0 then s.ckEnd o st none
  else if (s.worldAt wi).shards.any fun h => h.epoch == r.epoch && h.index == r.shard then s.ckEnd o 11 none
  else
    let p := (s.drawKC wi r.epoch).shardPlain wi c.items
    let data := shardStored (((p.2.worldAt wi).ownKC wi r.epoch).getD 0) (if r.level == 0 then 3 else r.level) r.epoch r.shard sources p.1
    if r.capacity < data.length then p.2.ckEnd o 1 none
    else p.2.ckSend o false ⟨r.epoch, r.shard, r.place, data.length, p.1.length, sha256 data⟩ data

/-- The source list of a shard, read from the own scratchpad. -/
def State.ckList (s : State) (o : CkOp) (r : CkReq) : List Nat × State :=
  match ownAddr r.list with
  | none => ([], s)
  | some a =>
    let b := s.readSpad o.info.core o.info.world a (8 * r.entries) o.info.vctl
    (words8 r.entries b.bytes, b.state)

/-- The last put has been acknowledged: the shard is recorded, or the manifest committed, unless a put failed (R373 to R375). -/
def State.ckCommit (s : State) (o : CkOp) (manifest : Bool) (h : Shard) : State :=
  if o.failed then s.ckEnd o 3 none
  else (s.modWorld o.info.world fun x =>
      if manifest then { x with epoch := h.epoch, manifest := some (h.place, h.hash) } else { x with shards := x.shards ++ [h] }).ckEnd o 0 (some (h.bytes, h.hash))

/-- The background work of a cksave, up to its puts or to a status of its own. An epoch that is not above the committed one, and a block or list of another form, end with a status that the manual does not give (R372 to R375; log 46, DEDUCED; log 74, DEDUCED). -/
def State.ckWork (s : State) (o : CkOp) : State :=
  let wi := o.info.world
  let b := s.readSpad o.info.core wi o.block 128 o.info.vctl
  let r := CkReq.ofBytes b.bytes
  let w := s.worldAt wi
  if w.metersFrozen then b.state.ckEnd o 8 none
  else if r.epoch ≤ w.epoch || r.bad false then b.state.ckEndFree o
  else if r.kind == 1 then (b.state.drawKC wi r.epoch).saveManifest o r
  else
    let l := b.state.ckList o r
    let c := ckSources l.1
    if c.bad then l.2.ckEndFree o
    else if s.ckWaits o c && s.ckStatus o c == 0 then s
    else l.2.saveShard o r l.1

/-- CKSAVE_COMPLETE of a core's operation: it sends its puts, and when every one has been acknowledged, or one has failed and none is left, it ends (R373 to R375). -/
def execCksaveComplete (id core : Nat) (s : State) : Out State :=
  match s.cks.find? fun o => o.info.id == id && o.info.core == core && !o.load with
  | none => .next s
  | some o =>
    if !s.unfenced o.info then .next s
    else match o.pending with
      | none => .next (s.ckWork o)
      | some p => if s.ckPutting o then .next s else .next (s.ckCommit o p.1 p.2)

/-! ### ckload (R375) -/

/-- Write a slice of the world by the rules for a fill: its versions go above every one that it has used, and then it holds the data (R101, R375). -/
def State.loadSlice (s : State) (key sid : Nat) (data : List Byte) : State :=
  let t := s.fillSlice key sid
  { t with dram := Memory.writeN t.dram (plaOf key sid 0 0 0 0 * 128) (data.take (2 ^ 28)) }

/-- Write an item of a shard; measured code, which nothing of the world may write, stays (R281; log 46, DEDUCED). -/
def State.loadItem (s : State) (world : Nat) (x : CkItem) (data : List Byte) : State :=
  let w := s.worldAt world
  match x with
  | .slice l k => match w.sliceAt l k with
    | some p => s.loadSlice p.1 p.2 data
    | none => s
  | .page p => match w.ckFrame p with
    | some e => if s.codeAt world (p % 2 ^ 18) e.frame then s else s.putSys (e.frame * Config.pageBytes) data false
    | none => s

/-- Write what a shard's header names, each item from its part of the plaintext (R375). -/
def State.loadItems (s : State) (world : Nat) : List CkItem → List Byte → State
  | [], _ => s
  | x :: xs, plain => (s.loadItem world x (plain.take x.size)).loadItems world xs (plain.drop x.size)

/-- The sealed frames that follow a header, by the byte counts that it gives. -/
def splitAll : List Nat → List Byte → List (List Byte)
  | [], _ => []
  | n :: ns, bs => bs.take n :: splitAll ns (bs.drop n)

/-- The plaintext that a stored shard decrypts and decompresses to, by its own header (R375). -/
def shardOpened (kc : BitVec 256) (shard : Nat) (data : List Byte) : Option (List Byte) :=
  let head := data.take 256
  ((splitAll (Config.headerCounts head) (data.drop 256)).zipIdx.mapM fun f =>
    (Config.gcmOpen kc (shardIv shard f.2) (if f.2 == 0 then head else []) f.1).bind Config.unzstd).map List.flatten

/-- A stored shard of an epoch decrypts and decompresses to a plaintext for a source list: it is what a part stores of them at some level, or what its header and frames give is (R373, R375; log 46, DEDUCED). -/
def shardHolds (kc : BitVec 256) (epoch shard : Nat) (data : List Byte) (sources : List Nat) (plain : List Byte) : Bool :=
  (List.range 19).any (fun l => data == shardStored kc (l + 1) epoch shard sources plain)
    || (Config.headerSources (data.take 256) == sources && shardOpened kc shard data == some plain)

/-- A manifest as fetched has the form of R374, for the epoch asked for. -/
def manifestOk (b : List Byte) (epoch : Nat) : Bool :=
  let f (o n : Nat) : Nat := leNat ((b.drop o).take n)
  f 0 2 == 2 && (f 3 1 == 1 || f 3 1 == 2) && 1 ≤ f 4 4 && f 4 4 ≤ 4096 && f 8 8 == epoch && f 1856 4 == 3284 && b.length == manifestSize (f 4 4)

/-- Its shards (R374). -/
def manifestShards (b : List Byte) : List Shard :=
  (List.range (leNat ((b.drop 4).take 4))).map fun i =>
    let e := b.drop (1864 + 64 * i)
    let f (o n : Nat) : Nat := leNat ((e.drop o).take n)
    ⟨leNat ((b.drop 8).take 8), f 0 4, word (f 8 8), f 16 8, f 24 8, hashOf ((e.drop 32).take 32)⟩

/-- The entry of the adopted manifest that a fetched shard matches by its index and hash (R375). -/
def World.shardKnown (w : World) (index : Nat) (data : List Byte) : Bool :=
  w.adopted.isSome && w.adoptedShards.any fun h => h.index == index && h.bytes == data.length && h.hash == sha256 data

/-- The writer that a manifest names (R374). -/
def manifestWriter (b : List Byte) : BitVec 256 := hashOf ((b.drop 16).take 32)

/-- The bytes that a manifest's signature covers, and the signature (R374). -/
def manifestBody (b : List Byte) : List Byte := b.take (1864 + 64 * leNat ((b.drop 4).take 4))
def manifestSig (b : List Byte) : List Byte := (b.drop (1864 + 64 * leNat ((b.drop 4).take 4))).take 3284

/-- The signature of a manifest verifies: this device's own, made with one of the leaves used so far, or one under the owner's registered key; and the writer that it names is that signer (R374, R375). -/
def State.manifestSigned (s : State) (world : Nat) (b : List Byte) : Bool :=
  let digest := sha256 (manifestBody b)
  if b.getD 3 0 == 1 then
    manifestWriter b == Config.deviceIdentity
      && (List.range s.hssLeaves).any fun leaf => manifestSig b == (List.range 3284).map (Config.signature digest leaf)
  else match (s.worldAt world).ownerKey with
  | some k => manifestWriter b == sha256 k && Config.hssVerify k digest (manifestSig b)
  | none => false

/-- KC for a manifest as fetched: from the world's own record where this device wrote the manifest for this world, else the key that the owner's release service gave, where that is the one that the manifest holds wrapped (R374, R375). -/
def World.manifestKC (w : World) (world epoch : Nat) (b : List Byte) (given : Option (BitVec 256)) : Option (BitVec 256) :=
  let own := (b.getD 2 0).toNat == world && manifestWriter b == Config.deviceIdentity
  match (if own then w.ownKC world epoch else none) with
  | some k => some k
  | none => given.filter fun k => w.releaseKey.isSome && (b.drop 1816).take 40 == w.wrapped ((b.drop 248).take 1568) k

/-- CKLOAD_COMPLETE: what `result` holds has been fetched from the block's place, or the port or peer failed (3). A manifest is adopted if its signature verifies (6) and its KC is at hand (7); a shard is written if its hash is the adopted manifest's (6) and it holds `plain` for the list `sources`. It ends with 6 too where it opens to nothing (R375; log 46, DEDUCED). -/
def execCkloadComplete (id : Nat) (result : CkFetch) (sources : List Nat) (plain : List Byte) (s : State) : Out State :=
  match s.cks.find? fun o => o.info.id == id && o.load with
  | none => .next s
  | some o =>
    if !s.unfenced o.info then .next s
    else
      let wi := o.info.world
      let b := s.readSpad o.info.core wi o.block 128 o.info.vctl
      let r := CkReq.ofBytes b.bytes
      let w := s.worldAt wi
      let dev := Word.field r.place 43 13
      let c := ckSources sources
      if w.metersFrozen then .next (b.state.ckEnd o 8 none)
      else if r.bad true then .next (b.state.ckEndFree o)
      else if dev == s.device || !s.carries wi dev .get || result.status == 3 then .next (b.state.ckEnd o 3 none)
      else if result.bytes.length != r.capacity then .next s
      else if r.kind == 1 then
        if !manifestOk result.bytes r.epoch || !s.manifestSigned wi result.bytes then .next (b.state.ckEnd o 6 none)
        else match w.manifestKC wi r.epoch result.bytes result.key with
        | none => .next (b.state.ckEnd o 7 none)
        | some kc =>
          .next ((b.state.modWorld wi fun x =>
            { x with adopted := some r.epoch, adoptedKC := kc, adoptedShards := manifestShards result.bytes }).ckEnd o 0 none)
      else if !w.shardKnown r.shard result.bytes then .next (b.state.ckEnd o 6 none)
      else if !shardHolds w.adoptedKC (w.adopted.getD 0) r.shard result.bytes sources plain then
        .next (if result.status == 6 && (shardOpened w.adoptedKC r.shard result.bytes).isNone then b.state.ckEnd o 6 none else s)
      else if c.bad then .next (b.state.ckEnd o 6 none)
      else
        let st := s.ckStatus o c
        if st != 0 then .next (b.state.ckEnd o st none)
        else if s.ckWaits o c then .next s
        else .next ((b.state.loadItems wi c.items plain).ckEnd o 0 none)

end Sys2Proof.Machine
end

