-- ==== Sys2Proof/Machine/Rings.lean ====
section
/-! DEFINITION. Ring and sync-word instructions (R147 to R161): qcfg, qpush, qarv, qpop, qwait, swset, swwait, and the arrival of remote tokens. -/

namespace Sys2Proof.Machine

open Sys2Proof

/-- qcfg: configure the own ring; what a sent atomic's bundle holds of it has been consumed and not given back (R156, R170; log 66, DEDUCED). -/
def execQcfg (x : R5) (q : BitVec 4) (s : State) : Out State :=
  let d := s.src x
  let r := s.core.ring q.toNat
  let fmt := s.core.fmt (ringBank d)
  if s.fenceHolds clsC then s.block
  else if ringSizeCode d != 0 && !bfmtValid fmt then s.fault cBank
  else if !ringDescOk fmt d then s.fault cRing
  else if s.asks (!r.taken.isEmpty || r.lent + s.heldTokens s.cur.core q.toNat + s.heldPermits s.cur.core q.toNat != 0) then s.fault cRing
  else
    State.retire (s.putCore (s.core.setRing q.toNat { Ring.reset with configured := true, desc := d, permits := ringCount d }))

/-- The precise failure of a plain arrival of `n` tokens at an own ring (R149, R151, R157). -/
def Core.pushBad (k : Core) (q held n : Nat) : Bool :=
  let r := k.ring q
  !r.configured || ringCount r.desc < n || ((r.place held n).2 != 0 && 8 ≤ r.queue.length)

/-- Give `n` tokens to the own ring; the syllable arrives when all are placed (R157). -/
def State.pushOwn (s : State) (q n : Nat) : Out State :=
  if s.fenceHolds clsC then s.block
  else if s.asks (s.core.pushBad q (s.heldPermits s.cur.core q) n) then s.fault cRing
  else (s.give [⟨s.cur.core, q, n, s.cur.arrive, s.cur.core, s.cur.strand⟩]).ok

/-- qpush to an own ring (R157). -/
def execQpush (q : BitVec 4) (n : BitVec 8) (s : State) : Out State := s.pushOwn q.toNat (n.toNat + 1)

/-- qarv (R157; log 18, DEDUCED). -/
def execQarv (q : BitVec 4) (n : BitVec 8) (s : State) : Out State := s.pushOwn q.toNat (n.toNat + 1)

/-- qpush through a reference: a space-5 reference names an own ring, a space-7 arrival travels to its core (R157). -/
def execQpushRef (x : R5) (n : BitVec 8) (s : State) : Out State :=
  let p := s.src x
  match ringPtr p with
  | some q => s.pushOwn q (n.toNat + 1)
  | none =>
    if s.fenceHolds clsC then s.block
    else match s.ringTarget p with
    | none => s.fault cSpace
    | some t =>
      (s.bumpId.modCore t.1 fun k => { k with remote := k.remote ++ [(s.newInfo clsNone 0, t.2, n.toNat + 1)] }).ok

/-- REMOTE_TOKEN_ARRIVAL: a space-7 arrival reaches its ring (R157). -/
def execRemoteTokenArrival (id : Nat) (s : State) : Out State :=
  match s.cores.find? fun k => k.2.remote.any fun r => r.1.id == id with
  | none => .next s
  | some (c, k) =>
    match k.remote.find? fun r => r.1.id == id with
    | none => .next s
    | some (i, q, n) =>
      let s1 := s.modCore c fun k => { k with remote := k.remote.filter fun r => r.1.id != id }
      let r := k.ring q
      if r.configured && ringCount r.desc < n then .next (s1.reportOp i (imprecise cRing 0 (s.ringRef c q (c + 1))))
      else .next (s1.give [⟨c, q, n, i.arrive, i.core, i.strand⟩])

/-- qpop: take tokens and give their permits (R158; log 18, DEDUCED). -/
def execQpop (q : BitVec 4) (n : BitVec 8) (s : State) : Out State :=
  let r := s.core.ring q.toNat
  if s.fenceHolds clsC then s.block
  else if s.asks (!r.configured || ringCount r.desc < n.toNat + 1) then s.fault cRing
  else if s.asks (s.tokensOf s.cur.core q.toNat < n.toNat + 1) then s.block
  else (s.consume s.cur.core q.toNat (n.toNat + 1) true).retire

/-- qwait (R153, R159; log 18, DEDUCED). -/
def execQwait (q : BitVec 4) (n : BitVec 12) (s : State) : Out State :=
  let r := s.core.ring q.toNat
  if !r.configured || ringCount r.desc < n.toNat then s.fault cRing
  else if r.tokens < n.toNat then s.block
  else s.retire

/-- The bank of a sync word has no window (R160). -/
def State.noWindow (s : State) (a : Nat × Nat) : Bool := s.asks (!wheelHasWindow ((s.coreAt a.1).wheel (bankOf a.2)))

/-- swset: the write joins the RMW queue of the word's bank of whatever format (R160; log 18, DEDUCED; log 32, DEDUCED). -/
def execSwset (x : R5) (k : BitVec 4) (s : State) : Out State :=
  let p := SMap.get s.strand.sync 0 k.toNat
  if s.fenceHolds clsC then s.block
  else if p == 0 then s.fault cSpace
  else match s.resolve p with
    | none => s.fault cSpace
    | some a =>
      if s.noWindow a then s.fault cWheel
      else
        State.retire (s.modCore a.1 fun c => { c with rmw := c.rmw ++ [(bankOf a.2, .swset a.2 ((s.src x).setWidth 32) (s.coreAt a.1).vctl)] })

/-- swwait: block until the generation differs (R161; log 18, DEDUCED). -/
def execSwwait (k : BitVec 4) (g : R5) (s : State) : Out State :=
  let p := SMap.get s.strand.sync 0 k.toNat
  if p == 0 then s.fault cSpace
  else match s.resolve p with
    | none => s.fault cSpace
    | some a => if s.generation a.1 a.2 == (s.src g).toNat % 2 ^ 32 then s.block else s.retire

end Sys2Proof.Machine
end

