-- ==== Sys2Proof/Machine/Scalar.lean ====
section
/-! DEFINITION. The S slot's integer instructions, immediates, long immediates, counters and mask instructions (R174 to R185). -/

namespace Sys2Proof.Machine

open Sys2Proof

/-- Truncated signed quotient with the corners of R180. -/
def sdiv (a b : Word) : Word := if b == 0 then BitVec.allOnes 64 else a.sdiv b

/-- Unsigned quotient (R180). -/
def udiv (a b : Word) : Word := if b == 0 then BitVec.allOnes 64 else a / b

/-- Signed remainder with the sign of a (R180). -/
def srem (a b : Word) : Word := if b == 0 then a else a - b * sdiv a b

/-- Unsigned remainder (R180). -/
def urem (a b : Word) : Word := if b == 0 then a else a % b

/-- High half of the signed product (R180). -/
def mulhS (a b : Word) : Word := BitVec.ofInt 64 (a.toInt * b.toInt / 2 ^ 64)

/-- High half of the unsigned product (R180). -/
def mulhU (a b : Word) : Word := word (a.toNat * b.toNat / 2 ^ 64)

def boolWord (b : Bool) : Word := if b then 1 else 0

/-- Leading zeros among the low `n` bits (R180). -/
def leadZeros (a : Word) : Nat → Nat
  | 0 => 0
  | n + 1 => if a.getLsbD n then 0 else leadZeros a n + 1

/-- Trailing zeros from bit `i`, of `n` bits left (R180). -/
def trailZeros (a : Word) : Nat → Nat → Nat
  | 0, _ => 0
  | n + 1, i => if a.getLsbD i then 0 else trailZeros a n (i + 1) + 1

/-- Shift amount b[5:0] (R180). -/
def shamt (b : Word) : Nat := b.toNat % 64

/-- sext(imm15) (R182). -/
def imm15 (f : SI) : Word := f.imm.signExtend 64

/-- add: a + b (R180). -/
def execAdd (f : SR) (s : State) : Out State := s.result f.d 1 (s.src f.a + s.src f.b)

/-- sub: a − b (R180). -/
def execSub (f : SR) (s : State) : Out State := s.result f.d 1 (s.src f.a - s.src f.b)

/-- mul: the low half of the product (R180), latency 3 (R35). -/
def execMul (f : SR) (s : State) : Out State := s.result f.d 3 (s.src f.a * s.src f.b)

/-- mulh: the high half, signed (R180). -/
def execMulh (f : SR) (s : State) : Out State := s.result f.d 3 (mulhS (s.src f.a) (s.src f.b))

/-- mulhu: the high half, unsigned (R180). -/
def execMulhu (f : SR) (s : State) : Out State := s.result f.d 3 (mulhU (s.src f.a) (s.src f.b))

/-- div: signed quotient, on the slot's divider (R180, R181). -/
def execDiv (f : SR) (s : State) : Out State := s.divResult f.d (s.cur.slot.divUnit false) 8 20 (sdiv (s.src f.a) (s.src f.b))

/-- divu: unsigned quotient, on the slot's divider (R180, R181). -/
def execDivu (f : SR) (s : State) : Out State := s.divResult f.d (s.cur.slot.divUnit false) 8 20 (udiv (s.src f.a) (s.src f.b))

/-- rem: signed remainder, on the slot's divider (R180, R181). -/
def execRem (f : SR) (s : State) : Out State := s.divResult f.d (s.cur.slot.divUnit false) 8 20 (srem (s.src f.a) (s.src f.b))

/-- remu: unsigned remainder, on the slot's divider (R180, R181). -/
def execRemu (f : SR) (s : State) : Out State := s.divResult f.d (s.cur.slot.divUnit false) 8 20 (urem (s.src f.a) (s.src f.b))

/-- and (R180). -/
def execAnd (f : SR) (s : State) : Out State := s.result f.d 1 (s.src f.a &&& s.src f.b)

/-- or (R180). -/
def execOr (f : SR) (s : State) : Out State := s.result f.d 1 (s.src f.a ||| s.src f.b)

/-- xor (R180). -/
def execXor (f : SR) (s : State) : Out State := s.result f.d 1 (s.src f.a ^^^ s.src f.b)

/-- shl (R180). -/
def execShl (f : SR) (s : State) : Out State := s.result f.d 1 (s.src f.a <<< shamt (s.src f.b))

/-- shr: zero-filled (R180). -/
def execShr (f : SR) (s : State) : Out State := s.result f.d 1 (s.src f.a >>> shamt (s.src f.b))

/-- sra: sign-filled (R180). -/
def execSra (f : SR) (s : State) : Out State := s.result f.d 1 ((s.src f.a).sshiftRight (shamt (s.src f.b)))

/-- rotr (R180). -/
def execRotr (f : SR) (s : State) : Out State := s.result f.d 1 ((s.src f.a).rotateRight (shamt (s.src f.b)))

/-- min: signed (R180). -/
def execMin (f : SR) (s : State) : Out State := s.result f.d 1 (if (s.src f.b).slt (s.src f.a) then s.src f.b else s.src f.a)

/-- max: signed (R180). -/
def execMax (f : SR) (s : State) : Out State := s.result f.d 1 (if (s.src f.a).slt (s.src f.b) then s.src f.b else s.src f.a)

/-- minu: unsigned (R180). -/
def execMinu (f : SR) (s : State) : Out State := s.result f.d 1 (if (s.src f.b).ult (s.src f.a) then s.src f.b else s.src f.a)

/-- maxu: unsigned (R180). -/
def execMaxu (f : SR) (s : State) : Out State := s.result f.d 1 (if (s.src f.a).ult (s.src f.b) then s.src f.b else s.src f.a)

/-- seq (R180). -/
def execSeq (f : SR) (s : State) : Out State := s.result f.d 1 (boolWord (s.src f.a == s.src f.b))

/-- sne (R180). -/
def execSne (f : SR) (s : State) : Out State := s.result f.d 1 (boolWord (s.src f.a != s.src f.b))

/-- slt: signed (R180). -/
def execSlt (f : SR) (s : State) : Out State := s.result f.d 1 (boolWord ((s.src f.a).slt (s.src f.b)))

/-- sltu: unsigned (R180). -/
def execSltu (f : SR) (s : State) : Out State := s.result f.d 1 (boolWord ((s.src f.a).ult (s.src f.b)))

/-- sel: a if c is not zero, else b (R180). -/
def execSel (f : SR) (s : State) : Out State := s.result f.d 1 (if s.src f.c != 0 then s.src f.a else s.src f.b)

/-- clz (R180). -/
def execClz (f : SR) (s : State) : Out State := s.result f.d 1 (word (leadZeros (s.src f.a) 64))

/-- ctz (R180). -/
def execCtz (f : SR) (s : State) : Out State := s.result f.d 1 (word (trailZeros (s.src f.a) 64 0))

/-- popc (R180). -/
def execPopc (f : SR) (s : State) : Out State := s.result f.d 1 (word (popCount (s.src f.a).toNat 64))

/-- mov (R180). -/
def execMov (f : SR) (s : State) : Out State := s.result f.d 1 (s.src f.a)

/-- padd: the low 60 bits move, the space stays (R180). -/
def execPadd (f : SR) (s : State) : Out State := s.result f.d 1 (padd (s.src f.a) (s.src f.b))

/-- addi (R182). -/
def execAddi (f : SI) (s : State) : Out State := s.result f.d 1 (s.src f.a + imm15 f)

/-- andi (R182). -/
def execAndi (f : SI) (s : State) : Out State := s.result f.d 1 (s.src f.a &&& imm15 f)

/-- ori (R182). -/
def execOri (f : SI) (s : State) : Out State := s.result f.d 1 (s.src f.a ||| imm15 f)

/-- xori (R182). -/
def execXori (f : SI) (s : State) : Out State := s.result f.d 1 (s.src f.a ^^^ imm15 f)

/-- shli (R182). -/
def execShli (f : SI) (s : State) : Out State := s.result f.d 1 (s.src f.a <<< (f.imm.toNat % 64))

/-- shri (R182). -/
def execShri (f : SI) (s : State) : Out State := s.result f.d 1 (s.src f.a >>> (f.imm.toNat % 64))

/-- srai (R182). -/
def execSrai (f : SI) (s : State) : Out State := s.result f.d 1 ((s.src f.a).sshiftRight (f.imm.toNat % 64))

/-- rotri (R182). -/
def execRotri (f : SI) (s : State) : Out State := s.result f.d 1 ((s.src f.a).rotateRight (f.imm.toNat % 64))

/-- slti: signed (R182). -/
def execSlti (f : SI) (s : State) : Out State := s.result f.d 1 (boolWord ((s.src f.a).slt (imm15 f)))

/-- sltui: unsigned (R182). -/
def execSltui (f : SI) (s : State) : Out State := s.result f.d 1 (boolWord ((s.src f.a).ult (imm15 f)))

/-- seqi (R182). -/
def execSeqi (f : SI) (s : State) : Out State := s.result f.d 1 (boolWord (s.src f.a == imm15 f))

/-- ptag: space and rank over the low 56 bits (R182). -/
def execPtag (f : SI) (s : State) : Out State := s.result f.d 1 (f.imm.extractLsb' 11 4 ++ f.imm.extractLsb' 7 4 ++ (s.src f.a).extractLsb' 0 56)

/-- li (R183). -/
def execLi (f : SL) (s : State) : Out State := s.result f.d 1 (f.imm.signExtend 64)

/-- lcat: (d << 20) or the immediate, d read at issue (R183). -/
def execLcat (f : SL) (s : State) : Out State := s.result f.d 1 ((s.strand.n.getD f.d.toNat 0 <<< 20) ||| f.imm.setWidth 64)

/-- lpc: the bundle PC plus an offset in bundles (R183). -/
def execLpc (f : SL) (s : State) : Out State := s.result f.d 1 (s.cur.pc + f.imm.signExtend 64 * 32)

/-- The named register of a source code of 16 or more (R184). -/
def namedSrc (st : Strand) (code : R5) (k : Nat) : Word := st.n.getD (code.toNat - 16 + k) 0

/-- Landings of a two-result instruction: lo first, into n(d) and n(d+1) when named (R184, R185). -/
def pairLandings (d : R5) (lo hi : Word) : List Landing :=
  [.push lo (dstReg d), .push hi ((dstReg d).map (· + 1))]

/-- rng: four rounds over a counter and a key, two results at t + 4 (R184, R35). -/
def execRng (f : SR) (s : State) : Out State :=
  let p := rngPair (namedSrc s.strand f.a 0) (namedSrc s.strand f.a 1) (s.src f.b)
  s.hold 4 (pairLandings f.d p.1 p.2)

/-- The 128-bit counter n(2m+1) ## n(2m) advanced by b (R185). -/
def ctrSum (st : Strand) (code : R5) (b : Word) : BitVec 128 :=
  (namedSrc st code 1 ++ namedSrc st code 0) + b.setWidth 128

/-- ctradd (R185). -/
def execCtradd (f : SR) (s : State) : Out State :=
  s.hold 1 (pairLandings f.d ((ctrSum s.strand f.a (s.src f.b)).extractLsb' 0 64) ((ctrSum s.strand f.a (s.src f.b)).extractLsb' 64 64))

/-- The mask that bit M selects: EM or CM (R177). -/
def selMask (f : SR) (st : Strand) : Mask := if f.fn.getLsbD 0 then st.cm else st.em

/-- msave: a half of a mask (R177). -/
def execMsave (f : SR) (s : State) : Out State := s.result f.d 1 (maskHalf (selMask f s.strand) (f.fn.getLsbD 1))

/-- mrest: writes a half of a mask and gives its value before (R177). -/
def execMrest (f : SR) (s : State) : Out State :=
  s.maskResult f.d (f.fn.getLsbD 0) (setMaskHalf (selMask f s.strand) (f.fn.getLsbD 1) (s.src f.a))
    (maskHalf (selMask f s.strand) (f.fn.getLsbD 1))

/-- mcomb: combines masks and gives the population count of the mask written (R178). -/
def execMcomb (f : SR) (s : State) : Out State :=
  let m := mcombMask f.fn.toNat s.strand.em s.strand.cm
  s.maskResult f.d m.1 m.2 (word (popCount m.2.toNat 128))

/-- Sources clamped to 0 to 128 (R179). -/
def clamp128 (w : Word) : Nat := Nat.min w.toNat 128

/-- mcm: a prefix or a range of ones (R179). -/
def execMcm (f : SR) (s : State) : Out State :=
  let lo := clamp128 (s.src f.a)
  let m := if f.fn.toNat < 2 then rangeMask 0 lo else rangeMask lo (clamp128 (s.src f.b))
  s.maskResult f.d (f.fn.toNat % 2 == 0) m (word (popCount m.toNat 128))

end Sys2Proof.Machine
end

