-- ==== Sys2Proof/Machine/ScalarFp.lean ====
section
/-! DEFINITION. The S slot's floating point (R186 to R189). -/

namespace Sys2Proof.Machine

open Sys2Proof

/-- The format that bit P selects (R186). -/
def fpFmt (dbl : Bool) : FloatFmt := if dbl then fmtF64 else fmtF32

/-- An operand's bits: an f32 operand is bits [31:0] of its source (R186). -/
def fpBits (dbl : Bool) (w : Word) : Nat := if dbl then w.toNat else w.toNat % 2 ^ 32

/-- An operand's value. -/
def fpVal (dbl : Bool) (w : Word) : FVal := (fpFmt dbl).decode (fpBits dbl w)

/-- A value entered in a format with SAT = 0 (R186). -/
def fpEnc (dbl : Bool) (m : RMode) (v : FVal) : Word := word ((fpFmt dbl).encode m false v)

/-- The rounding mode of a syllable (R186). -/
def fpMode (f : SR) : RMode := RMode.ofCode f.rm

/-- Latency of fdiv and fsqrt (R35). -/
def fpDivLat (dbl : Bool) : Nat := if dbl then 22 else 14

/-- fadd (R186). -/
def execFadd (f : SR) (s : State) : Out State :=
  s.result f.d 4 (fpEnc f.dbl (fpMode f) (FVal.add (fpMode f) (fpVal f.dbl (s.src f.a)) (fpVal f.dbl (s.src f.b))))

/-- fsub (R186). -/
def execFsub (f : SR) (s : State) : Out State :=
  s.result f.d 4 (fpEnc f.dbl (fpMode f) (FVal.add (fpMode f) (fpVal f.dbl (s.src f.a)) (fpVal f.dbl (s.src f.b)).neg))

/-- fmul (R186). -/
def execFmul (f : SR) (s : State) : Out State :=
  s.result f.d 4 (fpEnc f.dbl (fpMode f) (FVal.mul (fpVal f.dbl (s.src f.a)) (fpVal f.dbl (s.src f.b))))

/-- ffma: a × b + c, rounded once (R186). -/
def execFfma (f : SR) (s : State) : Out State :=
  s.result f.d 5 (fpEnc f.dbl (fpMode f)
    (FVal.add (fpMode f) (FVal.mul (fpVal f.dbl (s.src f.a)) (fpVal f.dbl (s.src f.b))) (fpVal f.dbl (s.src f.c))))

/-- fdiv, on the slot's floating-point divider (R186, R189). -/
def execFdiv (f : SR) (s : State) : Out State :=
  s.divResult f.d (s.cur.slot.divUnit true) 4 (fpDivLat f.dbl)
    (fpEnc f.dbl (fpMode f) (FVal.div (fpVal f.dbl (s.src f.a)) (fpVal f.dbl (s.src f.b))))

/-- fsqrt, on the slot's floating-point divider (R186, R189). -/
def execFsqrt (f : SR) (s : State) : Out State :=
  s.divResult f.d (s.cur.slot.divUnit true) 4 (fpDivLat f.dbl) (fpEnc f.dbl (fpMode f) (fpVal f.dbl (s.src f.a)).sqrt)

/-- fmin (R186). -/
def execFmin (f : SR) (s : State) : Out State :=
  s.result f.d 4 (word ((fpFmt f.dbl).min (fpBits f.dbl (s.src f.a)) (fpBits f.dbl (s.src f.b))))

/-- fmax (R186). -/
def execFmax (f : SR) (s : State) : Out State :=
  s.result f.d 4 (word ((fpFmt f.dbl).max (fpBits f.dbl (s.src f.a)) (fpBits f.dbl (s.src f.b))))

/-- feq (R186). -/
def execFeq (f : SR) (s : State) : Out State :=
  s.result f.d 4 (if FVal.eq (fpVal f.dbl (s.src f.a)) (fpVal f.dbl (s.src f.b)) then 1 else 0)

/-- flt (R186). -/
def execFlt (f : SR) (s : State) : Out State :=
  s.result f.d 4 (if FVal.lt (fpVal f.dbl (s.src f.a)) (fpVal f.dbl (s.src f.b)) then 1 else 0)

/-- fle (R186). -/
def execFle (f : SR) (s : State) : Out State :=
  s.result f.d 4 (if FVal.le (fpVal f.dbl (s.src f.a)) (fpVal f.dbl (s.src f.b)) then 1 else 0)

/-- fclass (R187). -/
def execFclass (f : SR) (s : State) : Out State :=
  s.result f.d 4 (word ((fpFmt f.dbl).classBits (fpBits f.dbl (s.src f.a))))

/-- The result of fcvt by its kind (R188). -/
def fcvtValue (kind : Nat) (dbl : Bool) (m : RMode) (a : Word) : Word :=
  match kind with
  | 0 => fpEnc dbl m (FVal.ofInt a.toInt)
  | 1 => fpEnc dbl m (FVal.ofNat a.toNat)
  | 2 => BitVec.ofInt 64 (toIntRange m (intRange 64 true).1 (intRange 64 true).2 (fpVal dbl a))
  | 3 => BitVec.ofInt 64 (toIntRange m (intRange 64 false).1 (intRange 64 false).2 (fpVal dbl a))
  | 4 => fpEnc dbl m (fpVal (!dbl) a)
  | 5 => word (fmtBf16.encode m false (fpVal dbl a))
  | 6 => fpEnc dbl m (fmtBf16.decode (a.toNat % 65536))
  | 7 => word (fmtF16.encode m false (fpVal dbl a))
  | _ => fpEnc dbl m (fmtF16.decode (a.toNat % 65536))

/-- fcvt (R188). -/
def execFcvt (f : SR) (s : State) : Out State := s.result f.d 3 (fcvtValue f.b.toNat f.dbl (fpMode f) (s.src f.a))

/-- Sign bit of a format. -/
def fpSign (dbl : Bool) : Nat := if dbl then 2 ^ 63 else 2 ^ 31

/-- fabs: the sign bit cleared, nothing else changed (R186). -/
def execFabs (f : SR) (s : State) : Out State :=
  s.result f.d 1 (word (fpBits f.dbl (s.src f.a) % fpSign f.dbl))

/-- fneg: the sign bit inverted, nothing else changed (R186). -/
def execFneg (f : SR) (s : State) : Out State :=
  s.result f.d 1 (word ((fpBits f.dbl (s.src f.a) + fpSign f.dbl) % (2 * fpSign f.dbl)))

end Sys2Proof.Machine
end

