-- ==== Sys2Proof/Machine/VectorMem.lean ====
section
/-! DEFINITION. Vector loads and stores and accumulator rows (R226 to R232). -/

namespace Sys2Proof.Machine

open Sys2Proof

/-- Spaces that a form accepts: strided and indexed forms take 1 and 4 only (R226; log 30, DEDUCED). -/
def vecSpace (plain : Bool) (p : Word) : Option Local :=
  match localPtr p with
  | some (.acc t o) => if plain then some (.acc t o) else none
  | r => r

/-- The format in which an access reads its place: ELEM 0 for space 4, ELEM 9 for space 3 (R227; log 30, DEDUCED). -/
def accessFmt (k : Core) (l : Local) : Word :=
  match l with
  | .spad a => k.fmt (bankOf a)
  | .scale _ _ _ => 0
  | .acc _ _ => 0x4800

/-- Rule 3 of R227. `kind` is 0 for vld and vst, 1 for strided, 2 for indexed. -/
def footprintBad (f : Flight) (kind off : Nat) : Bool :=
  let E := accessBits f.fmt f.vf.ty
  let foot := f.count * E / 8
  (match kind with
   | 0 => 256 < foot || off % foot != 0
   | 1 =>
     off * 8 % E != 0
       || (List.range f.count).any fun m =>
            let i := ((off % 256 * 8 / E : Nat) : Int) + (m : Int) * f.u.toInt
            i < 0 || (2048 / E : Nat) ≤ i.toNat
   | _ => false)
  || (bfmtScaled f.fmt && 32 < f.count)

/-- The first checks of R227: space, format. -/
def vecAddr (s : State) (p : Word) (plain : Bool) : Except Nat Local :=
  match vecSpace plain p with
  | none => .error cSpace
  | some l =>
    match l.bank with
    | none => .ok l
    | some b =>
      if !bfmtValid (s.core.fmt b) then .error cBank
      else match l with
        | .spad _ => if !plain && bfmtScaled (s.core.fmt b) then .error cBank else .ok l
        | _ => .ok l

/-- An active element of a space-3 access at or above the watermark, or in an engaged tile for a store (R227). -/
def accBlocked (s : State) (f : Flight) (l : Local) (store : Bool) : Bool :=
  match l with
  | .acc t o =>
    let any := (List.range f.count).any fun m => s.strand.em.getLsbD (f.k0 + m)
    s.asks (any && ((s.core.acc t).w ≤ o / 256 || (store && s.core.engaged t)))
  | _ => false

/-- The place that an address names, whatever its format allows. -/
def vecBank (p : Word) : Option Nat := (localPtr p).bind Local.bank

/-- The checks of R227, and the flight that a form starts; an access held at selection comes to them later (R26, R142). -/
def vectorChecks (s : State) (i : Instr) (v : VF) (kind lat : Nat) (store : Bool) : Except Nat (Local × Flight) :=
  match vecAddr s (s.src v.va) (kind == 0) with
  | .error e => .error e
  | .ok l =>
    let f : Flight := { s.newFlight i v lat with
      fmt := accessFmt s.core l, u := if kind == 2 then 0 else s.src v.vb, opId := s.nextId
      emFixed := l.bank.isNone, em := if l.bank.isNone then s.strand.em else 0 }
    if footprintBad f kind l.off then .error cAlign
    else if (match l.bank with
        | some b => s.lTooSoon b
        | none => false) then .error cSched
    else if accBlocked s f l store then .error cSched
    else .ok (l, f)

/-- A vector load (R226 to R231): it waits for its L position and lands at t + 8 + j; space 3 is read at issue. -/
def vectorLoad (s : State) (i : Instr) (v : VF) (kind : Nat) : Out State :=
  if s.lHeld clsV (vecBank (s.src v.va)) then s.block
  else match vectorChecks s i v kind 8 false with
    | .error e => s.fault e
    | .ok (l, f) =>
      if s.fullBy 1 then s.fault cSched
      else match l.bank with
        | some b => (s.pendL b clsV (.vload kind) []).startFlight f
        | none => s.bumpId.startFlight { f with block := (s.loadBlock s.cur.core s.strand.world s.core.vctl f kind l).1 }

/-- A vector store (R226 to R231): it reads its columns, and waits for its L position with the last; space 3 is written with the last column. -/
def vectorStore (s : State) (i : Instr) (v : VF) (kind : Nat) : Out State :=
  if s.lHeld clsV (vecBank (s.src v.va)) then s.block
  else match vectorChecks s i v kind 0 true with
    | .error e => s.fault e
    | .ok (l, f) =>
      match l.bank with
      | some b =>
        let s1 := s.pendL b clsV (.vstore none) s.cur.arrive
        (s1.putStrand (s1.strand.hold ⟨.vector f, false, []⟩)).ok
      | none =>
        let s1 := s.bumpId
        (s1.putStrand (s1.strand.hold ⟨.vector f, false, s.cur.arrive⟩)).ok

/-- vld (R226). -/
def execVld (f : VF) (s : State) : Out State := vectorLoad s (.vld f) f 0
/-- vlds: strided (R226). -/
def execVlds (f : VF) (s : State) : Out State := vectorLoad s (.vlds f) f 1
/-- vldx: indexed (R226). -/
def execVldx (f : VF) (s : State) : Out State := vectorLoad s (.vldx f) f 2
/-- vst (R226). -/
def execVst (f : VF) (s : State) : Out State := vectorStore s (.vst f) f 0
/-- vsts: strided (R226). -/
def execVsts (f : VF) (s : State) : Out State := vectorStore s (.vsts f) f 1
/-- vstx: indexed (R226). -/
def execVstx (f : VF) (s : State) : Out State := vectorStore s (.vstx f) f 2

/-- The tile of vacr and vacw (R232). -/
def accTile (v : VF) : Nat := v.vc.toNat % 8

/-- vacr: a row of an accumulator, blocking while it is at or above the watermark (R232). -/
def execVacr (f : VF) (s : State) : Out State :=
  let p := s.src f.va
  let f0 := { s.newFlight (.vacr f) f 6 with fmt := 0x4800, emFixed := true, em := s.strand.em }
  if s.asks ((s.core.acc (accTile f)).w ≤ Word.field p 0 5) || s.fenceHolds clsV then s.block
  else if 32 < Word.field p 5 5 + f0.count then s.fault cAlign
  else
    s.startFlight { f0 with block := (List.range 32).flatMap fun j => leBytes 8 ((s.core.acc (accTile f)).get (Word.field p 0 5) j).toNat }

/-- vacw: a row of an accumulator is written with its columns; SCHED while the tile is engaged (R232). -/
def execVacw (f : VF) (s : State) : Out State :=
  let p := s.src f.va
  let f0 := { s.newFlight (.vacw f) f 0 with fmt := 0x4800, emFixed := true, em := s.strand.em, opId := s.nextId }
  if s.fenceHolds clsV then s.block
  else if 32 < Word.field p 5 5 + f0.count then s.fault cAlign
  else if s.asks (s.core.engaged (accTile f)) then s.fault cSched
  else
    let s1 := s.bumpId
    (s1.putStrand (s1.strand.hold ⟨.vector f0, false, s.cur.arrive⟩)).ok

end Sys2Proof.Machine
end

