-- ==== Sys2Proof/Machine/Run.lean ====
section
/-! DEFINITION. A syllable of a bundle, run by its meaning: what exec does for it, for the parts of the machine that issue bundles and that exec itself calls. Events run nothing here. -/

namespace Sys2Proof.Machine

open Sys2Proof

/-- The meaning of a syllable. -/
def runSyl (i : Instr) (s : State) : Out State :=
  match i with
  | .nop => execNop s
  | .add f => execAdd f s
  | .sub f => execSub f s
  | .mul f => execMul f s
  | .mulh f => execMulh f s
  | .mulhu f => execMulhu f s
  | .div f => execDiv f s
  | .divu f => execDivu f s
  | .rem f => execRem f s
  | .remu f => execRemu f s
  | .and f => execAnd f s
  | .or f => execOr f s
  | .xor f => execXor f s
  | .shl f => execShl f s
  | .shr f => execShr f s
  | .sra f => execSra f s
  | .rotr f => execRotr f s
  | .min f => execMin f s
  | .max f => execMax f s
  | .minu f => execMinu f s
  | .maxu f => execMaxu f s
  | .seq f => execSeq f s
  | .sne f => execSne f s
  | .slt f => execSlt f s
  | .sltu f => execSltu f s
  | .sel f => execSel f s
  | .clz f => execClz f s
  | .ctz f => execCtz f s
  | .popc f => execPopc f s
  | .mov f => execMov f s
  | .padd f => execPadd f s
  | .addi f => execAddi f s
  | .andi f => execAndi f s
  | .ori f => execOri f s
  | .xori f => execXori f s
  | .shli f => execShli f s
  | .shri f => execShri f s
  | .srai f => execSrai f s
  | .rotri f => execRotri f s
  | .slti f => execSlti f s
  | .sltui f => execSltui f s
  | .seqi f => execSeqi f s
  | .ptag f => execPtag f s
  | .li f => execLi f s
  | .lcat f => execLcat f s
  | .lpc f => execLpc f s
  | .rng f => execRng f s
  | .ctradd f => execCtradd f s
  | .msave f => execMsave f s
  | .mrest f => execMrest f s
  | .mcomb f => execMcomb f s
  | .mcm f => execMcm f s
  | .fadd f => execFadd f s
  | .fsub f => execFsub f s
  | .fmul f => execFmul f s
  | .ffma f => execFfma f s
  | .fdiv f => execFdiv f s
  | .fsqrt f => execFsqrt f s
  | .fmin f => execFmin f s
  | .fmax f => execFmax f s
  | .feq f => execFeq f s
  | .flt f => execFlt f s
  | .fle f => execFle f s
  | .fclass f => execFclass f s
  | .fcvt f => execFcvt f s
  | .fabs f => execFabs f s
  | .fneg f => execFneg f s
  | .ldB f => execLdB f s
  | .ldH f => execLdH f s
  | .ldW f => execLdW f s
  | .ldD f => execLdD f s
  | .ldnB f => execLdnB f s
  | .ldnH f => execLdnH f s
  | .ldnW f => execLdnW f s
  | .stB f => execStB f s
  | .stH f => execStH f s
  | .stW f => execStW f s
  | .stD f => execStD f s
  | .vadd f => execVadd f s
  | .vsub f => execVsub f s
  | .vmul f => execVmul f s
  | .vfma f => execVfma f s
  | .vfms f => execVfms f s
  | .vfnma f => execVfnma f s
  | .vdiv f => execVdiv f s
  | .vsqrt f => execVsqrt f s
  | .vmin f => execVmin f s
  | .vmax f => execVmax f s
  | .vabs f => execVabs f s
  | .vneg f => execVneg f s
  | .vexp2 f => execVexp2 f s
  | .vlog2 f => execVlog2 f s
  | .vrcp f => execVrcp f s
  | .vrsqrt f => execVrsqrt f s
  | .vand f => execVand f s
  | .vor f => execVor f s
  | .vxor f => execVxor f s
  | .vshl f => execVshl f s
  | .vshr f => execVshr f s
  | .vsra f => execVsra f s
  | .vcmp f => execVcmp f s
  | .vsel f => execVsel f s
  | .vcvt f => execVcvt f s
  | .vbcst f => execVbcst f s
  | .vmov f => execVmov f s
  | .vslide f => execVslide f s
  | .vperm f => execVperm f s
  | .vscan f => execVscan f s
  | .vred f => execVred f s
  | .vpopc f => execVpopc f s
  | .vdot4 f => execVdot4 f s
  | .vclass f => execVclass f s
  | .vadds f => execVadds f s
  | .vmuls f => execVmuls f s
  | .vfmas f => execVfmas f s
  | .vmins f => execVmins f s
  | .vmaxs f => execVmaxs f s
  | .vminn f => execVminn f s
  | .vmaxn f => execVmaxn f s
  | .vld f => execVld f s
  | .vlds f => execVlds f s
  | .vldx f => execVldx f s
  | .vst f => execVst f s
  | .vsts f => execVsts f s
  | .vstx f => execVstx f s
  | .vacr f => execVacr f s
  | .vacw f => execVacw f s
  | .mma f => execMma f s
  | .mmas f => execMmas f s
  | .mzero f => execMzero f s
  | .mgeo f => execMgeo f s
  | .tquant f => execTquant f s
  | .tcast f => execTcast f s
  | .mchk f => execMchk f s
  | .mscl f => execMscl f s
  | .macc f => execMacc f s
  | .mact f => execMact f s
  | .mpre f => execMpre f s
  | .mprea f => execMprea f s
  | .mrd f => execMrd f s
  | .mwr f => execMwr f s
  | .mref f => execMref f s
  | .mrefa f => execMrefa f s
  | .mrdt f => execMrdt f s
  | .mnop f => execMnop f s
  | .xcpy f => execXcpy f s
  | .xcpyt f => execXcpyt f s
  | .xfill f => execXfill f s
  | .tscale x y => execTscale x y s
  | .qcfg x q => execQcfg x q s
  | .qpush q n => execQpush q n s
  | .qpushRef x n => execQpushRef x n s
  | .qpop q n => execQpop q n s
  | .swset x k => execSwset x k s
  | .pput f => execPput f s
  | .pget f => execPget f s
  | .pputv f => execPputv f s
  | .pamo f => execPamo f s
  | .csum f => execCsum f s
  | .cksave x sync => execCksave x sync s
  | .ckload x sync => execCkload x sync s
  | .br off => execBr off s
  | .brz a off => execBrz a off s
  | .brnz a off => execBrnz a off s
  | .brcm cond ty off => execBrcm cond ty off s
  | .call off => execCall off s
  | .ret => execRet s
  | .jmp a => execJmp a s
  | .loop a off => execLoop a off s
  | .rep n step => execRep n step s
  | .endStrand => execEndStrand s
  | .qwait q n => execQwait q n s
  | .qarv q n => execQarv q n s
  | .swwait k g => execSwwait k g s
  | .phase => execPhase s
  | .xfence src dst => execXfence src dst s
  | .ifence => execIfence s
  | .aadd f => execAadd f s
  | .aand f => execAand f s
  | .aor f => execAor f s
  | .axor f => execAxor f s
  | .amin f => execAmin f s
  | .amax f => execAmax f s
  | .aminu f => execAminu f s
  | .amaxu f => execAmaxu f s
  | .aswp f => execAswp f s
  | .acas f => execAcas f s
  | .afadd f => execAfadd f s
  | .cropen mask off => execCropen mask off s
  | .crclose => execCrclose s
  | .cmpd reg mask => execCmpd reg mask s
  | .trap imm => execTrap imm s
  | .brk imm => execBrk imm s
  | .sysr d idx => execSysr d idx s
  | .sysw src idx => execSysw src idx s
  | .bwheelWrite src k => execBwheelWrite src k s
  | .syncRegisterWrite src k => execSyncRegisterWrite src k s
  | .repcWrite src => execRepcWrite src s
  | .lcWrite src => execLcWrite src s
  | .mgWrite src => execMgWrite src s
  | .vctlWrite src => execVctlWrite src s
  | .xinvWrite src => execXinvWrite src s
  | .estatWrite src => execEstatWrite src s
  | .scrub a len sync => execScrub a len sync s
  | .krot a sync => execKrot a sync s
  | .metr d a => execMetr d a s
  | .mets a sync => execMets a sync s
  | .seal a sync => execSeal a sync s
  | .unseal a sync => execUnseal a sync s
  | _ => .next s

end Sys2Proof.Machine
end

