-- ==== Sys2Proof/Machine/Bundle.lean ====
section
/-! DEFINITION. Issuing bundles (R9, R26 to R34, R170, R195, R198 to R204, R322): fetch, decoding with the steps of a repetition, the order of checks, blocking, the effects of the slots, and what follows an issue. -/

namespace Sys2Proof.Machine

open Sys2Proof

/-! ### Fetch (R195, R321, R322) -/

/-- The 32 bytes of a bundle in memory; of a line that fails verification, which is logged, or was poisoned, the manual gives no bundle (R104; log 8, DESIGN CHOICE; log 38, DESIGN CHOICE). -/
def State.codeBytes (s : State) (c place : Nat) : List Byte × State :=
  if s.unitBad (place / 64) then (s.sysVerify ((((s.coreAt c).wg.bind s.wgAt).map (·.world)).getD 0) place 32).freeRecord 32
  else (Memory.readN s.sysmem place 32, s)

/-- The bytes of the bundle at an address: memory, or what the core's instruction buffer holds of it; which of two versions is executed is open (R322; log 8, DESIGN CHOICE; log 43, DESIGN CHOICE). -/
def State.fetchBytes (s : State) (c : Nat) (pc : Word) (place : Nat) : List Byte × State :=
  let m := s.codeBytes c place
  match SMap.find (s.coreAt c).ibuf pc.toNat with
  | none => (m.1, m.2.modCore c fun k => { k with ibuf := SMap.set k.ibuf pc.toNat m.1 })
  | some b =>
    if b == m.1 then m
    else
      let f := m.2.free
      (if f.1.getLsbD 0 then m.1 else b, f.2)

/-- The instruction buffer takes in a bundle of the workgroup's translation at any time, with nothing older of it kept (R321, R322). -/
def State.prefetch (s : State) (c : Nat) (pc : Word) : State :=
  match s.targetFault c pc, xlate (s.viewOf c) pc.toNat with
  | none, .ok place =>
    let m := s.codeBytes c place
    if (SMap.find (s.coreAt c).ibuf pc.toNat).isSome then s else m.2.modCore c fun k => { k with ibuf := SMap.set k.ibuf pc.toNat m.1 }
  | _, _ => s

/-- A bundle that was fetched, or the code and slot of a fault. -/
abbrev Fetched (α : Type) := Except (Nat × Nat) α

/-- Fetch the strand's next bundle; the PC is checked as a target (R195). A strand with a sent atomic keeps its bundle (R170). -/
def State.fetch (s : State) (c t : Nat) : Fetched (List Byte) × State :=
  let st := s.strandAt c t
  match st.sent with
  | some x => (.ok x.bytes, s)
  | none =>
    match s.targetFault c st.pc with
    | some e => (.error (e, 0), if e == cXpoison then s.walked st.world st.pc.toNat else s)
    | none =>
      match xlate (s.viewOf c) st.pc.toNat with
      | .error e => (.error (e, 0), s)
      | .ok place => let r := s.fetchBytes c st.pc place; (.ok r.1, r.2)

/-- X-slot opcodes 0x01 to 0x0A, which a repeated bundle may not hold (R201). -/
def isTransfer (i : Instr) : Bool :=
  match i with
  | .br _ | .brz _ _ | .brnz _ _ | .brcm _ _ _ | .call _ | .ret | .jmp _ | .loop _ _ | .rep _ _ | .endStrand => true
  | _ => false

/-- A decoded bundle, or the slot at fault. -/
def slotOr (r : Except Reject Bundle) : Except Nat Bundle :=
  match r with
  | .error e => .error e.pos
  | .ok b => .ok b

/-- The bundle fails in step 1 of R26. -/
def headerRejects (r : Except Reject Bundle) : Bool :=
  match r with
  | .error (.opcode _) | .error (.field _) | .ok _ => false
  | .error _ => true

/-- A slot of a repeated bundle that faults in step 2 of R26: its own encoding, a stepped value past its range, a step bit that names no register field of it, a transfer (R201). -/
def Strand.repSlotBad (st : Strand) (past : List Slot) (p : Slot × Syl) : Bool :=
  past.contains p.1 || (match decodeSyl p.1.cls p.1.pos p.2 with
    | .error _ => true
    | .ok i => isTransfer i || !stepUsable st.repStep p.1 i)

/-- Decode a strand's next bundle; of a repetition only the stepped words count. An error is the slot that faults with ILLEG: the header's first, then the first in position order (R26 steps 1 and 2, R200 to R202; log 31, DEDUCED). -/
def Strand.decodeNext (st : Strand) (bytes : List Byte) : Except Nat Bundle :=
  if !st.repActive then slotOr (decodeBundle bytes)
  else match wordsOf (bytes.take 32) with
    | [] => .error 0
    | hdr :: rest =>
      let ws := stepWords st.repStep st.repIndex (slotWords rest)
      let r := decodeWords hdr (ws.1.map (·.2))
      match r.toOption, ws.1.find? (st.repSlotBad ws.2) with
      | some b, none => .ok b
      | some _, some p => .error p.1.pos
      | none, bad =>
        match slotOr r, headerRejects r, bad with
        | .error _, false, some p => .error p.1.pos
        | x, _, _ => x

/-- The W mark of a bundle, whether or not the rest of it decodes (R300). -/
def yieldOf (bytes : List Byte) : Bool := ((wordsOf (bytes.take 32)).map getHeader).head?.map (·.yield) |>.getD false

/-- The PRIV faults of R26 step 3 (R25, R40; log 29, DEDUCED). -/
def State.privSyl (s : State) (i : Instr) : Bool :=
  match i with
  | .seal _ _ | .unseal _ _ => s.strand.world != 0
  | .sysr _ idx => s.sysPriv idx.toNat
  | .sysw _ idx => s.sysPriv idx.toNat
  | .vctlWrite _ => s.sysPriv 0x080
  | .xinvWrite _ => s.sysPriv 0x828
  | .estatWrite _ => s.sysPriv 0x833
  | _ => false

/-! ### Passes over a bundle's slots -/

/-- The state in which a slot's syllable runs (log 12, DEDUCED). -/
def State.atSlot (s : State) (h : Header) (sl : Slot) : State :=
  { s with cur := { s.cur with slot := sl, arrive := h.arrives sl, verdict := .none } }

/-- Run one syllable. -/
def State.runSlot (s : State) (h : Header) (p : Slot × Instr) : State :=
  match runSyl p.2 (s.atSlot h p.1) with
  | .next t => t
  | .fault _ => s
  | .refused _ => s

/-- Every slot tried by itself from the state before the bundle (R26, R29, R30). -/
def State.tried (s : State) (b : Bundle) : List (Slot × Instr × State) := b.syls.map fun p => (p.1, p.2, s.runSlot b.hdr p)

/-- A wait whose test has passed takes no further part (R29). -/
def isWait (i : Instr) : Bool :=
  match i with
  | .qwait _ _ | .swwait _ _ => true
  | _ => false

/-- How far a bundle has come, slot by slot: the state with the effects so far, whether a syllable blocks, and the state after the first precise fault. -/
structure Passed where
  state : State
  blocked : Bool
  fault : Option State
  deriving DecidableEq, Repr

/-- One slot after those before it: its own check, then what it meets because of the slots before it, which a fault of the bundle leaves without effect (R26, R29, R34; log 12, DEDUCED). -/
def State.passSlot (s0 : State) (h : Header) (q : Passed) (r : Slot × Instr × State) : Passed :=
  if s0.asks (r.2.2.cur.verdict == .faulted) then { q with fault := some (q.fault.getD r.2.2) }
  else
    let s1 := if isWait r.2.1 then (match State.retire (q.state.atSlot h r.1) with
      | .next t => t
      | _ => q.state) else q.state.runSlot h (r.1, r.2.1)
    match s1.cur.verdict, s1.cur.raised with
    | .blocked, _ => { q with blocked := true }
    | .faulted, some f => { q with fault := some (q.fault.getD (s0.takePrecise f)) }
    | _, _ => { q with state := s1 }

/-- All slots in position order (R26, R32). -/
def State.passSlots (s0 : State) (b : Bundle) (tried : List (Slot × Instr × State)) : Passed :=
  tried.foldl (fun q r => s0.passSlot b.hdr q r) ⟨s0.verdict .ok, false, none⟩

/-! ### Sent atomics (R170) -/

/-- Tokens and permits that a syllable takes from the rings. -/
def reservesOf (before after : State) : List Reserve :=
  before.cores.flatMap fun k => k.2.rings.filterMap fun (r : Nat × Ring) =>
    let r1 := (after.coreAt k.1).ring r.1
    if r1.tokens < r.2.tokens || r1.permits < r.2.permits then
      some { core := k.1, q := r.1, tokens := r.2.tokens - r1.tokens, permits := r.2.permits - r1.permits }
    else none

/-- The state with no arrival waiting at a ring, so that what a syllable takes stands alone. -/
def State.noArrivals (s : State) : State :=
  { s with cores := s.cores.map fun k => (k.1, { k.2 with rings := k.2.rings.map fun r => (r.1, { r.2 with queue := [] }) }) }

/-- An M syllable that takes a place in the matrix unit's queue (R233). -/
def takesPlace (p : Slot × Instr) : Bool := p.1 == .m && (match p.2 with
  | .nop => false
  | .mgeo _ => false
  | _ => true)

/-- A push waits for no permit, so nothing is kept for it (R151). -/
def isPush (i : Instr) : Bool :=
  match i with
  | .qpush _ _ | .qpushRef _ _ => true
  | _ => false

/-- Tokens that a syllable needs and does not take: those of the operand and mask rings that an M syllable names and does not pop (R170, R243). -/
def State.needs (s : State) (p : Slot × Instr) : List Reserve :=
  let on (qs pops : List Nat) : List Reserve := (qs.eraseDups.filter fun q => !pops.contains q).map fun q => ⟨s.cur.core, q, 1, 0⟩
  match p.2 with
  | .mma f => on [f.qa.toNat, f.qb.toNat] (popsOf f none)
  | .mmas f => on [f.qa.toNat, f.qb.toNat, mgMQ s.core.mg] (popsOf f (some (mgMQ s.core.mg)))
  | .macc f => on [f.qa.toNat] (if f.pa then [f.qa.toNat] else [])
  | _ => []

/-- The strand's atomic has been sent: its bundle, and what each of its slots takes or needs, are kept (R170; log 66, DEDUCED). -/
def State.keepSent (s0 : State) (b : Bundle) (bytes : List Byte) (s : State) (sl : Slot) : State :=
  let others := b.syls.filter fun p => p.1 != sl && !isPush p.2
  let bare := s0.noArrivals
  let st := s.strand
  s.putStrand { st with
    sent := st.sent.map fun x => { x with bytes := bytes, mplace := others.any takesPlace }
    reserves := others.flatMap fun p => reservesOf bare (bare.runSlot b.hdr p) ++ s0.needs p }

/-! ### An attempt to issue -/

/-- What came of an attempt: verdict, W mark, header and state. -/
structure Attempt where
  verdict : Verdict
  yield : Bool
  hdr : Header
  state : State
  deriving DecidableEq, Repr

/-- A fault of the whole bundle or of one slot, outside any syllable's meaning (R26, R328). -/
def State.wholeFault (s : State) (code slot : Nat) : State :=
  s.takePrecise { code := code, slot := slot, cls := 7, detail := 0, addr := s.cur.pc, imprecise := false, merged := false }

/-- The checks and effects of a decoded bundle: privilege, then blocking, then step 4 slot by slot and the suffixes, then the effects (R26 steps 3 and 4, R29, R34). With an atomic that has a return all of this comes before the atomic is sent, and once it is performed the bundle issues with nothing asked (R170, State.asks; log 12, DEDUCED). -/
def State.attemptBundle (s0 : State) (b : Bundle) (bytes : List Byte) : Attempt :=
  let tried := s0.tried b
  let q := s0.passSlots b tried
  if s0.strand.sent.isSome then ⟨.ok, b.hdr.yield, b.hdr, q.state⟩
  else match b.syls.find? fun p => s0.privSyl p.2 with
  | some p => ⟨.faulted, b.hdr.yield, b.hdr, s0.wholeFault cPriv p.1.pos⟩
  | none =>
    if tried.any fun r => r.2.2.cur.verdict == .blocked then
      -- an arrived phase stays arrived (R316)
      match tried.find? fun r => r.2.1 == .phase && r.2.2.cur.verdict == .blocked with
      | some r => ⟨.blocked, b.hdr.yield, b.hdr, r.2.2⟩
      | none => ⟨.blocked, b.hdr.yield, b.hdr, s0⟩
    else if q.blocked then ⟨.blocked, b.hdr.yield, b.hdr, s0⟩
    else match q.fault with
      | some t => ⟨.faulted, b.hdr.yield, b.hdr, t⟩
      | none =>
        if s0.core.badSuffix b.hdr then ⟨.faulted, b.hdr.yield, b.hdr, s0.wholeFault cRing 0⟩
        else match tried.find? fun r => r.2.2.cur.verdict == .send with
          | some r => ⟨.send, b.hdr.yield, b.hdr, s0.keepSent b bytes r.2.2 r.1⟩
          | none => ⟨.ok, b.hdr.yield, b.hdr, q.state⟩

/-- The state in which a strand's next bundle is tried. -/
def State.atBundle (s : State) (c t : Nat) : State :=
  { s with cur := { Cur.reset with core := c, strand := t, pc := (s.strandAt c t).pc, firstId := s.nextId, sure := (s.strandAt c t).sent.any (·.done) } }

/-- Try to issue the next bundle of a strand (log 12, DEDUCED). Where its fetch faults there is no header, and the core's W stays what it was (R300; log 103, DESIGN CHOICE). -/
def State.attempt (s : State) (c t : Nat) : Attempt :=
  let f := s.fetch c t
  let s0 := f.2.atBundle c t
  match f.1 with
  | .error e => ⟨.faulted, (s.coreAt c).lastW, Header.zero, s0.wholeFault e.1 e.2⟩
  | .ok bytes =>
    match (s0.strandAt c t).decodeNext bytes with
    | .error slot => ⟨.faulted, yieldOf bytes, Header.zero, s0.wholeFault cIlleg slot⟩
    | .ok b => s0.attemptBundle b bytes

/-! ### After an issue -/

/-- The next PC without a transfer, and the loop entries that stay (R198; log 31, DEDUCED). -/
def backEdge (pc : Word) : List LoopEntry → Word × List LoopEntry
  | [] => (pc + 32, [])
  | e :: es =>
    if e.last == pc then (if 1 < e.count then (e.start, { e with count := e.count - 1 } :: es) else backEdge pc es)
    else (pc + 32, e :: es)

/-- The strand goes on in sequence. -/
def Strand.sequence (st : Strand) : Strand :=
  let n := backEdge st.pc st.lc
  { st with pc := n.1, lc := n.2 }

/-- Where the strand goes after its bundle; `was` says that the bundle was a repetition (R195, R198, R200, R202; log 31, DEDUCED). -/
def Strand.goOn (st : Strand) (taken : Option Word) (was : Bool) : Strand :=
  match taken with
  | some a => { st with pc := a }
  | none =>
    if st.repActive then
      if !was then { st with pc := st.pc + 32 }
      else if st.repIndex < st.repCount then { st with repIndex := st.repIndex + 1 }
      else { st with repActive := false, repIndex := st.repIndex + 1 }.sequence
    else st.sequence

/-- Cycles of a bundle: its own, its gap, and two for a taken transfer (R28, R196); after `end` CTIME runs on only for held results (R204). -/
def cyclesOf (h : Header) (taken : Bool) (ended : Bool) : Nat := if ended then 1 else 1 + h.gap + if taken then 2 else 0

/-- Reports that the `end` bundle itself has raised are delivered at once (R204). -/
def State.flushReports (s : State) (c t : Nat) : State :=
  let st := s.strandAt c t
  if st.status == .ended then
    st.reports.foldl (fun (s : State) f => s.deliver c t f (s.strandAt c t).ctime) (s.setStrandAt c t { st with reports := [] })
  else s

/-- A bundle has issued: the next PC, the cycles owed, and the cycle of the issue itself (R27, R28). -/
def State.afterIssue (s : State) (c t : Nat) (h : Header) (was : Bool) : State :=
  let st := s.strandAt c t
  let st1 := { st.goOn s.cur.taken was with owed := cyclesOf h s.cur.taken.isSome (st.status == .ended) }
  ((((s.setStrandAt c t st1).readColumns c t).spend c t).flushReports c t)

/-- A bundle faulted: the cycle of the fault passes for a strand that goes on (R330). -/
def State.afterFault (s : State) (c t : Nat) : State :=
  if (s.strandAt c t).status == .running then s.spend c t else s

/-- Issue the next bundle of a strand, or take its fault; a blocked or sending bundle changes only what its attempt says. Nothing is left of the bundle in `cur`. -/
def State.issueNext (s : State) (c t : Nat) : Attempt :=
  let a := s.attempt c t
  let done (x : State) : Attempt := { a with state := { x with cur := s.cur } }
  match a.verdict with
  | .ok => done (a.state.afterIssue c t a.hdr (s.strandAt c t).repActive)
  | .faulted => done (a.state.afterFault c t)
  | _ => done a.state

end Sys2Proof.Machine
end

