-- ==== Sys2Proof/Machine/Cycle.lean ====
section
/-! DEFINITION. A core's cycle: delivery at bundle boundaries, the selector's choice and the chosen strand's cycle (R142, R299 to R301, R330), with the events of a strand, atomics performed for their bundles (R170), lockstep and the scrubber (R341, R342), and the debugger (R338). -/

namespace Sys2Proof.Machine

open Sys2Proof

/-! ### Who may issue -/

/-- An unseal has not reached the workgroup's restore point (R80). -/
def State.restoring (s : State) (wg : Nat) : Bool := s.seals.any fun q => q.isUnseal && q.wg == wg && q.stage == .restore

/-- Strands of the core may issue: its workgroup runs, or is in NOTICE of a seal, and its pair is not resynchronising (R80, R299, R341, R351). -/
def State.mayIssue (s : State) (c : Nat) : Bool :=
  !s.resync.contains c && match (s.coreAt c).wg.bind s.wgAt with
    | none => false
    | some w =>
      match w.state with
      | .running => !s.restoring w.id
      | .sealing => !s.sealStopped w.id && !s.restoring w.id
      | _ => false

/-- The strand is at a bundle boundary (R330; log 53, DEDUCED). -/
def State.atBoundary (s : State) (c t : Nat) : Bool :=
  s.mayIssue c && (s.strandAt c t).status == .running && (s.strandAt c t).owed == 0 && (s.strandAt c t).sent.isNone

/-- FAULT_DELIVERY: the oldest report of a strand is delivered at its boundary (R330 to R332). -/
def execFaultDelivery (core strand : Nat) (s : State) : Out State :=
  if s.atBoundary core strand then .next (s.deliverReport core strand) else .next s

/-- The strand's next bundle is looked at: it owes no cycles and waits for no atomic. -/
def State.looks (s : State) (c t : Nat) : Bool :=
  let st := s.strandAt c t
  s.mayIssue c && st.status == .running && st.owed == 0 && !(st.sent.any fun x => !x.done)

/-- The strand is ready (R299). -/
def State.isReady (s : State) (c t : Nat) : Bool :=
  (s.mayIssue c && (s.strandAt c t).status == .running && 0 < (s.strandAt c t).owed)
    || (s.looks c t && (match (s.attempt c t).verdict with
      | .ok | .faulted => true
      | _ => false))

/-- A bundle that blocks records the arrival of its `phase`, and one that only waits for its atomic sends it (R170, R316). -/
def State.examine (s : State) (c t : Nat) : State :=
  if !s.looks c t then s
  else
    let a := s.attempt c t
    match a.verdict with
    | .blocked | .send => { a.state with cur := s.cur }
    | _ => s

/-- The strands of a core are examined in turn, and then those that are ready: an atomic sent in this cycle may have taken what another strand's bundle needs (R170, R299). -/
def State.examineAll (s : State) (c : Nat) : State × List Nat :=
  let e := (List.range 4).foldl (fun (s : State) t => s.examine c t) s
  (e, (List.range 4).filter fun t => e.isReady c t)

/-! ### The selector (R300) -/

/-- Strands in index order after `r`. -/
def orderAfter (r : Nat) : List Nat := (List.range 4).map fun i => (r + 1 + i) % 4

/-- The strand with the largest wait, the first in order on a tie. -/
def Core.longest (k : Core) : List Nat → Option Nat
  | [] => none
  | t :: ts =>
    match k.longest ts with
    | none => some t
    | some u => if (k.strandAt u).wait ≤ (k.strandAt t).wait then some t else some u

/-- The choice at a decision point (R300). -/
def Core.choose (k : Core) (ready : List Nat) : Option Nat :=
  let order := (orderAfter (k.runner.getD k.lastRan)).filter ready.contains
  let others := order.filter fun t => k.runner != some t
  if others.any fun t => 4096 ≤ (k.strandAt t).wait then k.longest others
  else match k.runner with
    | some r => if ready.contains r && (!k.lastW || others.isEmpty) then some r else others.head?
    | none => others.head?

/-- The strand that runs in this cycle: a choice at a decision point, else the running strand (R300). -/
def Core.select (k : Core) (ready : List Nat) : Option Nat :=
  match k.runner with
  | some r => if k.decision || !ready.contains r then k.choose ready else some r
  | none => k.choose ready

/-- Count the waits of the strands that are ready and do not run (R299). -/
def Core.countWaits (k : Core) (ready : List Nat) (chosen : Option Nat) : Core :=
  ready.foldl (fun (k : Core) t =>
    let st := k.strandAt t
    k.setStrand t { st with wait := if chosen == some t then 0 else st.wait + 1 }) k

/-- The chosen strand's cycle: one owed cycle, or its next bundle (R28, R300). -/
def State.runStrand (s : State) (c t : Nat) : State :=
  if 0 < (s.strandAt c t).owed then (s.spend c t).modCore c fun k => { k with runner := some t, lastRan := t, decision := false }
  else
    let a := s.issueNext c t
    a.state.modCore c fun k => { k with runner := some t, lastRan := t, decision := true, lastW := a.yield }

/-! ### Lockstep (R341) -/

/-- The error log's name of a pair (R345). -/
def locPair (core : Nat) : Word := word (3 * 2 ^ 60 + core / 12 * 2 ^ 22 + core % 12 / 2 * 2 ^ 18)

/-- The partition of a core's workgroup is in protected mode. -/
def State.protCore (s : State) (c : Nat) : Bool :=
  match (s.coreAt c).wg.bind s.wgAt with
  | some w => (s.worldAt w.world).prot
  | none => false

/-- The pair's signatures differ: it stops and resynchronises (R341, R343). -/
def State.mismatch (s : State) (c : Nat) (injected : Bool) : State :=
  if s.protCore c && !s.resync.contains c then
    let world := (((s.coreAt c).wg.bind s.wgAt).map (·.world)).getD 0
    { s.errorEvent { cat := 4, code := cLockstep, world := world, corrected := false, injected := injected, loc := locPair c } with
      resync := s.resync ++ [c] }
  else s

/-- LOCKSTEP_MISMATCH (R341; log 54, DEDUCED). -/
def execLockstepMismatch (core : Nat) (s : State) : Out State := .next (s.mismatch core false)

/-- LOCKSTEP_RESYNCHRONISED: the pair goes on and LOCKSTEP is raised to every present strand of the rank (R341; log 54, DEDUCED). -/
def execLockstepResynchronised (core : Nat) (s : State) : Out State :=
  if s.resync.contains core then
    let s1 := { s with resync := s.resync.filter (· != core) }
    .next ((s1.coreAt core).strands.foldl (fun (s : State) p => s.report core p.1 (imprecise cLockstep 0 0)) s1)
  else .next s

/-- A lockstep cycle is an eligible event of target 4 (R349). -/
def State.lockstepCycle (s : State) (c : Nat) : State :=
  let k := s.coreAt c
  if vctlEn k.vctl && vctlTgt k.vctl == 4 && s.protCore c then
    let s1 := s.setCore c { k with vctlEvent := k.vctlEvent + 1 }
    if vctlHit k.vctl 4 k.vctlEvent then s1.mismatch c true else s1
  else s

/-! ### The cycle -/

/-- CTIME of an ended strand runs on until its results have landed (R204). -/
def State.runsOn (s : State) (c t : Nat) : Bool :=
  (s.strandAt c t).status == .ended && s.mayIssue c && (s.strandAt c t).held.any (·.counts)

/-- Deliver what is due at the boundaries of a core's strands (R330). -/
def State.deliverAll (s : State) (c : Nat) : State :=
  (List.range 4).foldl (fun (s : State) t => if s.atBoundary c t then s.deliverReport c t else s) s

/-- The ended strands of a core run on (R204): each spends a context cycle in every core cycle, beside the strand that runs (log 100, DESIGN CHOICE). -/
def State.runOn (s : State) (c : Nat) : State :=
  (List.range 4).foldl (fun (s : State) t => if s.runsOn c t then s.spend c t else s) s

/-- The strand's workgroup stops for a seal or a termination, or the strand has ended: what it has in flight is to complete (R204, R333, R351). -/
def State.completes (s : State) (c t : Nat) : Bool :=
  match (s.strandAt c t).status with
  | .ended | .stopped => true
  | .running | .halted =>
    (s.strandAt c t).sent.isNone && !s.mayIssue c && !s.resync.contains c && !(((s.coreAt c).wg.map s.restoring).getD false)
  | _ => false

/-- The strand's next bundle is held by its fences alone (R306, R319). -/
def State.heldByFence (s : State) (c t : Nat) : Bool :=
  !(s.strandAt c t).fences.isEmpty && (s.attempt c t).verdict == .blocked
    && ((s.modStrandAt c t fun st => { st with fences := [] }).attempt c t).verdict != .blocked

/-- Something waits for a flight to be performed: a `phase`, an operation or the strand's next bundle behind a fence, a matrix operation on its tile (R237, R316, R319; log 26, DEDUCED). -/
def State.awaits (s : State) (c t : Nat) (fenced : Bool) (f : Flight) : Bool :=
  (s.strandAt c t).arrived || (fenced && (s.strandAt c t).fences.any fun x => x.waits.contains f.opId)
    || s.infos.any (fun i => i.2.after.contains f.opId)
    || (match f.tileWritten with
      | some tile => (s.coreAt c).mq.any fun o => !o.started && o.accTile == some tile
      | none => false)

/-- The strands whose CTIME stands in this cycle: what the machine waits for goes on (R204, R230; log 26, DEDUCED). -/
def State.driftStanding (s : State) (c : Nat) (ready : List Nat) : State :=
  (List.range 4).foldl (fun (s : State) t =>
    if ready.contains t || s.runsOn c t || (s.strandAt c t).status == .absent || (s.strandAt c t).held.isEmpty then s
    else
      let all := s.completes c t
      let fenced := !all && s.heldByFence c t
      s.drift c t fun h => h.goesOn all (s.awaits c t fenced)) s

/-- A core's cycle before a strand runs: a matrix operation that waits for nothing, deliveries, ended strands, and the strands that are ready (R204, R247, R299, R330). -/
def State.beforeRun (s : State) (c : Nat) : State × List Nat :=
  let e := (((s.startFree c).deliverAll c).runOn c).examineAll c
  (e.1.driftStanding c e.2, e.2)

/-- A core's cycle after its strand has run: L positions, the matrix unit's rows and the writers that retire with them, lockstep, and the next cycle (R139, R142, R247, R255, R341). -/
def State.endCycle (s : State) (c : Nat) : State :=
  (((s.lPositions c).lockstepCycle c).modCore c Core.matrixCycle).retireWriters c |>.modCore c fun k => { k with cycle := k.cycle + 1 }

/-- The core takes cycles: it holds a workgroup, and its pair is not resynchronising (R299, R341). -/
def State.cycles (s : State) (c : Nat) : Bool := (s.coreAt c).wg.isSome && !s.resync.contains c

/-- One core cycle (R299, R300). A core without a workgroup idles. -/
def State.coreCycle (s : State) (c : Nat) : State :=
  if !s.cycles c then s
  else
    let e := s.beforeRun c
    let chosen := (e.1.coreAt c).select e.2
    let s2 := e.1.modCore c fun k => k.countWaits e.2 chosen
    (match chosen with
      | some t => s2.runStrand c t
      | none => s2.modCore c fun k => { k with runner := none }).endCycle c

/-- A cycle of the core's clock has come and has not been taken (R3). -/
def State.cycleDue (s : State) (c : Nat) : Bool := 0 < (s.coreAt c).due

/-- A cycle that has come is taken (R3). -/
def State.spendDue (s : State) (c : Nat) : State := s.modCore c fun k => { k with due := k.due - 1 }

/-- The core's cycle, where one has come (R3, R299). -/
def State.takeCycle (s : State) (c : Nat) : State := if s.cycleDue c then (s.spendDue c).coreCycle c else s

/-- The strand that the core's next cycle runs. -/
def State.nextRunner (s : State) (c : Nat) : Option Nat :=
  if s.cycles c then ((s.beforeRun c).1.coreAt c).select (s.beforeRun c).2 else none

/-- WAIT_LIMIT_SWITCH: the cycle of a core that has come, in which a strand that has waited 4,096 cycles is to be chosen (R300, R301). -/
def execWaitLimitSwitch (core : Nat) (s : State) : Out State :=
  match s.nextRunner core with
  | some t => if 4096 ≤ (s.strandAt core t).wait && (s.coreAt core).runner != some t then .next (s.takeCycle core) else .next s
  | none => .next s

/-- RESULT_LANDING: a core cycle in which context time passes outside issue: an ended strand's, or an owed cycle of the strand that the selector runs (R27, R31, R204, R300). -/
def execResultLanding (core strand : Nat) (s : State) : Out State :=
  if s.cycles core && (s.runsOn core strand || (s.nextRunner core == some strand && 0 < (s.strandAt core strand).owed)) then .next (s.takeCycle core)
  else .next s

/-- REP_REPETITION: a core cycle in which the strand that the selector runs issues the next repetition of its repeated bundle (R200, R300, R301). -/
def execRepRepetition (core strand : Nat) (s : State) : Out State :=
  if s.nextRunner core == some strand && s.atBoundary core strand && (s.strandAt core strand).repActive && (s.strandAt core strand).reports.isEmpty then
    .next (s.takeCycle core)
  else .next s

/-! ### Atomics performed for their bundles (R170) -/

/-- The kept bundle of a sent atomic writes MG in its M slot (R240). -/
def Strand.sentMgeo (st : Strand) (x : Sent) : Bool :=
  match st.decodeNext x.bytes with
  | .ok b => b.syls.any fun p => match p.2 with
    | .mgeo _ => true
    | _ => false
  | .error _ => false

/-- Put a core's per-core registers to given values (R39). -/
def Core.setRegs (k : Core) (r : CoreRegs) : Core := { k with bfmt := r.bfmt, bwheel := r.bwheel, mg := r.mg, vctl := r.vctl }

/-- Put the per-core registers of several cores, and the window and the translation of a core's workgroup, to given values. -/
def State.underRegs (s : State) (c : Nat) (regs : SMap CoreRegs) (window : List Chan) (view : SMap Page) : State :=
  let s1 := regs.foldl (fun (s : State) r => s.modCore r.1 fun k => k.setRegs r.2) s
  match (s1.coreAt c).wg with
  | some i => s1.modWg i fun g => { g with window := window, view := view }
  | none => s1

/-- A bundle issues under the per-core registers, the window and the translation in force when its atomic was sent, and what it writes to MG itself stays (R39, R170, R240). -/
def State.issueUnder (s : State) (c t : Nat) (x : Sent) : State × Bool :=
  let own := (s.strandAt c t).sentMgeo x
  let w := (s.coreAt c).wg.bind s.wgAt
  let now : SMap CoreRegs := x.regs.map fun r => (r.1, (s.coreAt r.1).regs)
  let a := (s.underRegs c x.regs x.window x.view).issueNext c t
  let mg := (a.state.coreAt c).mg
  let s1 := a.state.underRegs c now ((w.map (·.window)).getD []) ((w.map (·.view)).getD [])
  (if own then s1.modCore c fun k => { k with mg := mg } else s1, a.yield)

/-- Issue the bundle of a performed atomic, in the cycle of its core in which the atomic is performed, whichever strand the selector would run; what was kept for the bundle is its own until then (R170, R299, R330; log 94, DESIGN CHOICE); in a workgroup that is ending the strand stops then (R334; log 12, DEDUCED). -/
def State.issueSent (s : State) (c t : Nat) (x : Sent) : State :=
  let e := (s.spendDue c).beforeRun c
  let s0 := e.1.modStrandAt c t fun st => { st with reserves := [] }
  let a := (s0.modCore c fun k => k.countWaits (if e.2.contains t then e.2 else t :: e.2) (some t)).issueUnder c t x
  let s1 := a.1.modCore c fun k => { k with runner := some t, lastRan := t, decision := true, lastW := a.2 }
  (s1.modStrandAt c t fun st =>
    let ends : Bool := match (s1.coreAt c).wg.bind s1.wgAt with
      | some w => (match w.state with
        | .draining _ _ => true
        | _ => false)
      | none => false
    { st with status := if ends && st.sent.isNone then .stopped else st.status, regions := if ends then [] else st.regions }).endCycle c

/-- ATOMIC_PERFORM: the atomic at the head of a bank's queue is performed in a window; with a return its bundle issues (R143, R169, R170). -/
def execAtomicPerform (core bank : Nat) (s : State) : Out State :=
  if !(s.coreAt core).hasWindow bank then .next s
  else match (s.coreAt core).rmwHead bank with
  | some (.atomic i addr op wide v c ret) =>
    if ret && !s.cycleDue i.core then .next s
    else
    let p := s.performAtomic core i addr op wide v c
    let s1 := p.1.modCore core fun k => k.rmwPop bank
    if !ret then .next (s1.arriveOp i)
    else
      let st := s1.strandAt i.core i.strand
      match st.sent with
      | none => .next s1
      | some x =>
        if x.id != i.id then .next s1
        else .next ((s1.setStrandAt i.core i.strand { st with sent := some { x with done := true, old := p.2 } }).issueSent i.core i.strand x)
  | _ => .next s

/-! ### Scrubber and debugger -/

/-- A position of the bank's wheel stands free for its scrubber: an idle one, or one whose class has no access waiting. Engines make each access in a step of its own, so between steps none of M, C and R waits (R140, R342; log 19, DEDUCED). -/
def Core.scrubPosition (k : Core) (bank : Nat) : Bool :=
  (List.range 16).any fun p =>
    let c := wheelPos (k.wheel bank) p
    !(c == 1 && (k.nextLAccess bank).isSome) && !(c == 5 && (k.rmwHead bank).isSome)

/-- SCRATCHPAD_SCRUB: the scrubber of a bank reads its next 256-byte access, in line order, at a free position; what it finds raises no fault (R140, R342, R345). -/
def execScratchpadScrub (core bank block : Nat) (s : State) : Out State :=
  let k := s.coreAt core
  if 16 ≤ bank || block != SMap.get k.scrubAt 0 bank || !k.scrubPosition bank then .next s
  else
    let first := bank * 1024 + block * 4
    let s1 := (List.range 4).foldl (fun (s : State) i => (State.readLineWith 0xFF s core ((s.coreAt core).line (first + i)).tag (first + i) 0).state) s
    .next (s1.modCore core fun k => { k with scrubAt := SMap.set k.scrubAt bank ((block + 1) % 256) })

/-- DEBUG_RESUME: a halted strand of the world runs again (R338, R378; log 53, DEDUCED). -/
def execDebugResume (world core strand : Nat) (s : State) : Out State :=
  let st := s.strandAt core strand
  if st.status == .halted && st.world == world && (world == 0 || (s.worldAt world).tdisp == .run) then
    .next (s.setStrandAt core strand { st with status := .running })
  else .next s

end Sys2Proof.Machine
end

