-- ==== Sys2Proof/Machine/Rcb.lean ====
section
/-! DEFINITION. Region control blocks: reading, resolving and checking a launch (R276 to R281). -/

namespace Sys2Proof.Machine

open Sys2Proof

/-! ### Reading the world's system window -/

/-- Read `n` bytes, page by page; none where a page does not translate. -/
def State.sysBytes (s : State) (world : Nat) : Nat → Nat → Nat → Option (List Byte)
  | 0, _, _ => some []
  | fuel + 1, va, n =>
    if n == 0 then some []
    else
      let room := Config.pageBytes - va % Config.pageBytes
      match s.sysRead world va (Nat.min n room) with
      | none => none
      | some b => if n ≤ room then some b else (s.sysBytes world fuel (va + room) (n - room)).map (b ++ ·)

/-- Bytes at an address of the world's system window. -/
def State.sysGet (s : State) (world va n : Nat) : Option (List Byte) := s.sysBytes world (n / Config.pageBytes + 2) va n

/-- A space-0 pointer into the system window (R37, R49). -/
def sysPtr (p : Nat) : Bool := p / 2 ^ 56 == 0 && p / 2 ^ 52 == 1 && p % 2 ^ 52 / 2 ^ 39 == 0

/-! ### Fields (R276) -/

structure Rcb where
  parent : Nat
  flags : Nat
  override : Nat
  priority : Nat
  domain : Nat
  zero14 : Nat
  cmin : Nat
  cmax : Nat
  target : Nat
  allowance : Nat
  after : Nat
  kernel : Nat
  code : Nat
  grid : Nat
  cores : Nat
  strands : Nat
  profile : Nat
  nchan : Nat
  cstride : Nat
  nsetup : Nat
  zero62 : Nat
  args : Nat
  setup : Nat
  chanlist : Nat
  measure : BitVec 256
  stamp : Nat
  /-- bytes 40 to 127 -/
  rest : Nat
  deriving DecidableEq, Repr

def Rcb.ofBytes (b : List Byte) : Rcb :=
  let f (o n : Nat) : Nat := leNat ((b.drop o).take n)
  { parent := f 0 8, flags := f 8 2, override := f 10 2, priority := f 12 1, domain := f 13 1, zero14 := f 14 2, cmin := f 16 2,
    cmax := f 18 2, target := f 20 4, allowance := f 24 8, after := f 32 8, kernel := f 40 8, code := f 48 4, grid := f 52 2,
    cores := f 54 1, strands := f 55 1, profile := f 56 1, nchan := f 57 1, cstride := f 58 2, nsetup := f 60 2, zero62 := f 62 2,
    args := f 64 8, setup := f 72 8, chanlist := f 80 8, measure := hashOf ((b.drop 88).take 32), stamp := f 120 8, rest := f 40 88 }

/-- LEAF, BARRIER and AFTER. -/
def Rcb.leaf (r : Rcb) : Bool := r.flags.testBit 0
def Rcb.barrier (r : Rcb) : Bool := r.flags.testBit 1
def Rcb.hasAfter (r : Rcb) : Bool := r.flags.testBit 2

/-- Read an RCB; none where its pointer is no 64-byte aligned system-window pointer or does not translate. -/
def State.readRcb (s : State) (world p : Nat) : Option Rcb :=
  if sysPtr p && p % 64 == 0 then (s.sysGet world p 128).map Rcb.ofBytes else none

/-- The chain from a leaf to the registered root, at most `fuel` levels (R276, R280 check 1). -/
def State.chain (s : State) (world root : Nat) : Nat → Nat → Option (List Rcb)
  | 0, _ => none
  | fuel + 1, p =>
    match s.readRcb world p with
    | none => none
    | some r =>
      if r.parent == 0 then (if p == root then some [r] else none)
      else (s.chain world root fuel r.parent).map (r :: ·)

/-- Zero fields and flags of one RCB; `first` says that it is the leaf (R276, R280 check 1). -/
def Rcb.formOk (r : Rcb) (first : Bool) : Bool :=
  r.zero14 == 0 && r.flags / 8 == 0 && r.override / 64 == 0 && r.leaf == first && (first || r.rest == 0) && (!first || r.zero62 == 0)

/-! ### Resolving (R277) -/

/-- The RCBs of a chain that give field `n` themselves: those with its override bit, and the root. -/
def givers (n : Nat) : List Rcb → List Rcb
  | [] => []
  | [r] => [r]
  | r :: rs => if r.override.testBit n then r :: givers n rs else givers n rs

/-- The nearest value of a field. -/
def nearest (n : Nat) (f : Rcb → Nat) (chain : List Rcb) : Nat := ((givers n chain).head?.map f).getD 0

/-- The smallest value of a field (log 50, DEDUCED). -/
def smallest (n : Nat) (f : Rcb → Nat) (chain : List Rcb) : Nat :=
  match (givers n chain).map f with
  | [] => 0
  | x :: xs => xs.foldl Nat.min x

structure Resolved where
  priority : Nat
  domain : Nat
  cmin : Nat
  cmax : Nat
  target : Nat
  allowance : Nat
  deriving DecidableEq, Repr

/-- The inheritable fields, resolved and clamped (R277; log 50, DEDUCED). -/
def resolveChain (chain : List Rcb) : Resolved :=
  let cmax := smallest 3 Rcb.cmax chain
  { priority := smallest 0 Rcb.priority chain, domain := nearest 1 Rcb.domain chain, cmin := Nat.min (nearest 2 Rcb.cmin chain) cmax,
    cmax := cmax, target := nearest 4 Rcb.target chain, allowance := nearest 5 Rcb.allowance chain }

/-- Every field that an RCB of the chain gives lies in its range (R276; log 50, DEDUCED). -/
def rangesOk (chain : List Rcb) : Bool :=
  ((givers 0 chain).all fun r => r.priority ≤ 7) && ((givers 2 chain).all fun r => r.cmin ≤ 64)
    && ((givers 3 chain).all fun r => 1 ≤ r.cmax && r.cmax ≤ 64)

/-! ### Set-up and channel lists (R278, R279) -/

/-- The records of a set-up list: type, index, value, and whether bytes 2 to 7 are zero. -/
def setupRecords (n : Nat) (b : List Byte) : List (Nat × Nat × Word × Bool) :=
  (List.range n).map fun i =>
    let r := (b.drop (16 * i)).take 16
    (leNat (r.take 1), leNat ((r.drop 1).take 1), word (leNat (r.drop 8)), leNat ((r.drop 2).take 6) == 0)

/-- A core with the BFMT, BWHEEL and ring records applied in list order (R278, R296). -/
def applySetup (k : Core) (records : List (Nat × Nat × Word)) : Core :=
  records.foldl (fun (k : Core) r =>
    if r.1 == 1 then { k with bfmt := SMap.set k.bfmt r.2.1 (r.2.2 &&& 0xFFFFFFFC) }
    else if r.1 == 2 then { k with bwheel := SMap.set k.bwheel r.2.1 (r.2.2 &&& 0xFFFFFFFFFFFF) }
    else if r.1 == 3 then k.setRing r.2.1 { Ring.reset with configured := true, desc := r.2.2, permits := ringCount r.2.2 }
    else k) k

/-- Bank and offset of a type-4 record, as an address. -/
def syncAddr (v : Word) : Nat := Word.field v 0 20

/-- The records are valid; wheels take effect before ring and sync records are checked, formats in list order (R280 check 2). -/
def setupOk : List (Nat × Nat × Word × Bool) → Core → Core → Bool
  | [], _, _ => true
  | (ty, i, v, z) :: rest, k, wheels =>
    let ok : Bool :=
      if i > 15 || !z then false
      else if ty == 1 then bfmtValid v
      else if ty == 2 then wheelOk v
      else if ty == 3 then (ringSizeCode v == 0 || bfmtValid (k.fmt (ringBank v))) && ringDescOk (k.fmt (ringBank v)) v
      else if ty == 4 then Word.field v 20 12 == 0 && syncAddr v % 16 == 0 && wheelHasWindow (wheels.wheel (bankOf (syncAddr v)))
      else false
    ok && setupOk rest (applySetup k [(ty, i, v)]) wheels

/-- The entries of a channel list: lchan, rank, strand, and whether the other bits are zero. -/
def chanEntries (n : Nat) (b : List Byte) : List (Nat × Nat × Nat × Bool) :=
  (List.range n).map fun i =>
    let e := leNat ((b.drop (4 * i)).take 4)
    (e % 512, e / 2 ^ 16 % 16, e / 2 ^ 20 % 4, e / 512 % 128 == 0 && e / 2 ^ 22 == 0)

/-! ### The checks at fetch (R280) -/

abbrev stBadrcb : Nat := 0x04
abbrev stProfile : Nat := 0x03
abbrev stShape : Nat := 0x06
abbrev stChannels : Nat := 0x05
abbrev stUnmeasured : Nat := 0x02

/-- What a fetch makes of a submission: a launch, with a status if a check failed. -/
def State.blankLaunch (s : State) (world q seq : Nat) (status : Nat) (measure : BitVec 256) : Launch :=
  { id := 0, world := world, queue := q, seq := seq, priority := 0, domain := 0, cmin := 0, cmax := 0, target := 0, allowance := 0, barrier := false,
    after := none, kernel := 0, code := 0, grid := 0, cores := 0, strands := 0, mprof := 0, chans := [], cstride := 0, setup := [], args := 0,
    measure := measure, next := 0, done := 0, ended := 0, faultCode := none, killed := false, budget := false,
    cut := false, charge := 0, faults := 0, grains := 0, start := s.ns, failed := some status, codeFrames := [] }

/-- Frames that hold bytes of an image now (R281). -/
def State.imageFrames (s : State) (l : Launch) : List Nat := (codePages l).filterMap fun p => (SMap.find (s.worldAt l.world).live p).map (·.frame)

/-- Check 2 of R280 but for the set-up records. Every pointer has the form of a space-0 pointer; one to a list that has entries names the system window and translates. -/
def State.leafOk (s : State) (world seq : Nat) (r : Rcb) : Bool :=
  (!r.hasAfter || r.after < seq)
    && sysPtr r.kernel && r.kernel % 32 == 0 && r.code % 32 == 0 && 32 ≤ r.code && r.code ≤ 2 ^ 24
    && r.nsetup ≤ 64
    && r.args / 2 ^ 56 == 0
    && r.setup / 2 ^ 56 == 0 && (r.nsetup == 0 || (sysPtr r.setup && (s.sysGet world r.setup (16 * r.nsetup)).isSome))
    && r.chanlist / 2 ^ 56 == 0 && (r.nchan == 0 || (sysPtr r.chanlist && (s.sysGet world r.chanlist (4 * r.nchan)).isSome))

/-- Check 5 of R280. -/
def channelsOk (r : Rcb) (chans : List (Nat × Nat × Nat × Bool)) : Bool :=
  r.nchan ≤ 64 && (chans.map (·.1)).Nodup
    && chans.all fun c => c.2.1 < r.cores && c.2.2.1 < r.strands && c.2.2.2 && c.1 + (r.grid - 1) * r.cstride ≤ 511

/-- Resolve and check a submission (R277, R280). A set-up or channel list is read once. Until its first workgroup starts, the launch's start time is that of this fetch (log 98, DESIGN CHOICE). The frames that hold its image are noted with it (R281). -/
def State.checkLaunch (s : State) (world q seq p : Nat) : Launch :=
  let w := s.worldAt world
  let leaf := s.readRcb world p
  let measure := match leaf with
    | some r => r.measure
    | none => 0
  let fail (status : Nat) : Launch := s.blankLaunch world q seq status measure
  match s.chain world w.pwroot.toNat 8 p with
  | none => fail stBadrcb
  | some [] => fail stBadrcb
  | some (r :: up) =>
    if !(r.formOk true && up.all (·.formOk false)) || !rangesOk (r :: up) then fail stBadrcb
    else if !s.leafOk world seq r then fail stBadrcb
    else
      let recs := setupRecords r.nsetup ((s.sysGet world r.setup (16 * r.nsetup)).getD [])
      let plain := recs.map fun x => (x.1, x.2.1, x.2.2.1)
      let wheels := applySetup Core.reset (plain.filter fun x => x.1 == 2)
      let chans := chanEntries r.nchan ((s.sysGet world r.chanlist (4 * r.nchan)).getD [])
      let v := resolveChain (r :: up)
      if !setupOk recs wheels wheels then fail stBadrcb
      else if !(r.profile == 0x47 || (r.profile == 0x4E && w.test && Config.qualified)) then fail stProfile
      else if !(1 ≤ r.cores && r.cores ≤ 12 && 1 ≤ r.strands && r.strands ≤ 4 && 1 ≤ r.grid && (!w.prot || r.cores ≤ 6)
          && v.cmin ≤ Word.field w.pwquota 0 8) then fail stShape
      else if !channelsOk r chans then fail stChannels
      else
        match s.sysGet world r.kernel r.code with
        | none => fail stUnmeasured
        | some image =>
          if sha256 image != r.measure || !w.allow.contains r.measure then fail stUnmeasured
          else
            let l : Launch := {
              id := 0, world := world, queue := q, seq := seq, priority := v.priority, domain := v.domain, cmin := v.cmin, cmax := v.cmax,
              target := v.target, allowance := v.allowance, barrier := r.barrier, after := if r.hasAfter then some r.after else none,
              kernel := word r.kernel, code := r.code, grid := r.grid, cores := r.cores, strands := r.strands, mprof := r.profile,
              chans := chans.map fun c => (c.1, c.2.1, c.2.2.1), cstride := r.cstride, setup := plain, args := word r.args,
              measure := r.measure, next := 0, done := 0, ended := 0, faultCode := none, killed := false,
              budget := false, cut := false, charge := 0, faults := 0, grains := 0, start := s.ns, failed := none, codeFrames := [] }
            { l with codeFrames := s.imageFrames l }

/-- Pointers of the RCBs that are read for a chain (R276). -/
def State.chainPtrs (s : State) (world : Nat) : Nat → Nat → List Nat
  | 0, _ => []
  | fuel + 1, p =>
    match s.readRcb world p with
    | none => []
    | some r => p :: (if r.parent == 0 then [] else s.chainPtrs world fuel r.parent)

/-- Addresses and lengths of what a fetch has read: its RCBs, the lists of a leaf that is well formed, and the image, where the checks came to it (R277 to R281). -/
def State.launchReads (s : State) (world seq p : Nat) (l : Launch) : List (Nat × Nat) :=
  (s.chainPtrs world 8 p).map (·, 128) ++ (match s.readRcb world p with
    | none => []
    | some r =>
      (if s.leafOk world seq r then [(r.setup, 16 * r.nsetup), (r.chanlist, 4 * r.nchan)] else [])
        ++ (if l.failed.isNone || l.failed == some stUnmeasured then [(r.kernel, r.code)] else []))

/-- What a fetch has read is logged where it fails (R98, R104). -/
def State.launchChecked (s : State) (world seq p : Nat) (l : Launch) : State :=
  (s.launchReads world seq p l).foldl (fun (s : State) r => s.sysChecked world r.1 r.2) s

end Sys2Proof.Machine
end

