-- ==== Sys2Proof/Machine/Queues.lean ====
section
/-! DEFINITION. Queues and completion (R282 to R286, R290 to R294): the queue registers, fetching submissions, completion records, the completion word and interrupts. -/

namespace Sys2Proof.Machine

open Sys2Proof

/-- Virtual functions serve worlds 1 to 15 (R355). -/
def isVf (world : Nat) : Bool := 1 ≤ world && world ≤ 15

/-! ### Registers (R282, R283) -/

def Queue.en (q : Queue) : Bool := q.qcfg.getLsbD 63
def Queue.prompt (q : Queue) : Bool := q.qcfg.getLsbD 62
def Queue.cwin (q : Queue) : Nat := Word.field q.qcfg 32 10
def Queue.ccnt (q : Queue) : Nat := Word.field q.qcfg 24 8
def Queue.vec (q : Queue) : Nat := Word.field q.qcfg 16 8
def Queue.sublog (q : Queue) : Nat := Word.field q.qcfg 12 4
def Queue.cpllog (q : Queue) : Nat := Word.field q.qcfg 8 4

/-- Causes of QSTAT (R284). -/
abbrev causeQorder : Nat := 1
abbrev causeBadnotify : Nat := 2
abbrev causeBadcfg : Nat := 3

def World.queue (w : World) (q : Nat) : Queue := SMap.get w.queues Queue.reset q
def State.queueAt (s : State) (world q : Nat) : Queue := (s.worldAt world).queue q
def State.setQueue (s : State) (world q : Nat) (x : Queue) : State := s.modWorld world fun w => { w with queues := SMap.set w.queues q x }

/-- A function's BARs answer: the physical one's but in RECOVERY; a virtual one's in READY and RUN (R378, R383; log 69, DEDUCED). -/
def State.barOpen (s : State) (world : Nat) : Bool :=
  s.dstat != 15 && world < 16 && (world == 0 || (s.dstat == 5 && (s.worldAt world).tdisp == .run))

/-- A function takes configuration writes: where its BARs answer, and a virtual one in CONFIG_UNLOCKED too (R378; log 69, DEDUCED). -/
def State.cfgOpen (s : State) (world : Nat) : Bool :=
  s.barOpen world || (isVf world && s.dstat == 5 && (s.worldAt world).tdisp == .unlocked)

/-- Queues of the world fetch and start workgroups; not while it migrates (R355, R356, R370; log 69, DEDUCED). -/
def State.worldRuns (s : State) (world : Nat) : Bool :=
  s.dstat == 5 && (s.worldAt world).keyGen != 0
    && (world == 0 || ((s.worldAt world).tdisp == .run && (s.worldAt world).pwctl.getLsbD 63 && (s.worldAt world).migration == .none))

def State.queueRuns (s : State) (world q : Nat) : Bool := s.worldRuns world && (world == 0 || (s.worldAt world).pwqueue.getLsbD q)

/-- QSTAT (R284). -/
def State.qstat (s : State) (world q : Nat) : Word :=
  let x := s.queueAt world q
  let out := (s.launches.filter fun l => l.world == world && l.queue == q).length
  word ((if x.faulted then 2 ^ 63 else 0) + x.cause % 256 * 2 ^ 48 + out % 2 ^ 32)

/-! ### Completion (R291 to R294) -/

/-- Raise an interrupt of a function (log 63, DESIGN CHOICE; log 72, DEDUCED). -/
def State.interrupt (s : State) (world vec : Nat) : State := { s with interrupts := s.interrupts ++ [(world, vec)] }

/-- The device writes to host memory for the world: not in ERROR (R355). -/
def State.hostOpen (s : State) (world : Nat) : Bool := (s.worldAt world).tdisp != .error

/-- The ring of completion records is full (R293). -/
def Queue.full (q : Queue) : Bool := (q.word + 2 ^ 64 - q.qcons % 2 ^ 64) % 2 ^ 64 == 2 ^ q.cpllog

/-- Write one record, the completion word and, on a prompt queue, count it towards the interrupt (R293, R294). -/
def State.postRecord (s : State) (world q : Nat) (rec_ : List Byte) : State :=
  let x := s.queueAt world q
  let next := (x.word + 1) % 2 ^ 64
  let host := Memory.writeN (Memory.writeN s.host (x.qcpl.toNat + 64 * (x.word % 2 ^ x.cpllog)) rec_) x.qcwa.toNat (leBytes 8 next)
  let x1 := { x with word := next, pending := x.pending + 1, firstPending := if x.pending == 0 then s.ns else x.firstPending }
  let s1 := { s with host := host }
  if !x.prompt then s1.setQueue world q { x1 with pending := 0 }
  else if x.ccnt ≤ x1.pending then (s1.setQueue world q { x1 with pending := 0 }).interrupt world x.vec
  else s1.setQueue world q x1

/-- Write the held records that have room, in order (R293). -/
def State.flushRecords (s : State) (world q : Nat) : List (List Byte) → State
  | [] => s.setQueue world q { s.queueAt world q with heldRecords := [] }
  | r :: rs =>
    if (s.queueAt world q).full then s.setQueue world q { s.queueAt world q with heldRecords := r :: rs }
    else (s.postRecord world q r).flushRecords world q rs

/-- A record is due: written, or held behind the others (R293). -/
def State.addRecord (s : State) (world q : Nat) (rec_ : List Byte) : State :=
  if !s.hostOpen world then s else s.flushRecords world q ((s.queueAt world q).heldRecords ++ [rec_])

/-- A completion record (R291). -/
def recordBytes (seq status faults : Nat) (measure : List Byte) (start stop done grains : Nat) : List Byte :=
  leBytes 8 seq ++ leBytes 4 status ++ leBytes 4 (Nat.min faults 0xFFFFFFFF) ++ measure.take 8 ++ leBytes 8 start ++ leBytes 8 stop
    ++ leBytes 8 done ++ leBytes 8 grains ++ leBytes 8 0

/-- The launch's workgroups are withheld by its fault domain (R298; log 47, DEDUCED). -/
def State.domainStopped (s : State) (l : Launch) : Option Nat := if l.domain == 0 then none else SMap.find (s.worldAt l.world).domains l.domain

/-- The launch's charge has reached its allowance (R298). -/
def Launch.spent (l : Launch) : Bool := l.budget || (l.allowance != 0 && l.allowance * 1000 ≤ l.charge)

/-- The status word of a launch that completes (R292). One whose workgroups the spent allowance ended has BUDGET (R318; log 87, DEDUCED). -/
def State.statusOf (s : State) (l : Launch) : Nat :=
  match l.failed with
  | some e => e
  | none =>
    match l.faultCode with
    | some c => 1 + 256 * (c % 256)
    | none =>
      if l.killed then 0x0A
      else if l.next < l.grid then
        match s.domainStopped l with
        | some c => 8 + 256 * (c % 256)
        | none => 7
      else if l.cut then 7
      else 0

/-- A launch completes: its record is written and its code pages are writable again (R281, R290, R291). -/
def State.completeLaunch (s : State) (l : Launch) (measure : List Byte) : State :=
  let s1 := { s with launches := s.launches.filter fun (x : Launch) => x.id != l.id }
  s1.addRecord l.world l.queue
    (recordBytes l.seq (s.statusOf l) l.faults measure (if l.failed.isSome then s.ns else l.start) s.ns l.done l.grains)

/-- Every workgroup that a launch has started has ended, and no further one will start (R290, R298). -/
def State.launchOver (s : State) (l : Launch) : Bool := l.ended == l.next && (l.next == l.grid || (s.domainStopped l).isSome || l.spent)

/-- LAUNCH_COMPLETE: a launch that is over ends with its record (R290, R298). -/
def execLaunchComplete (world q seq : Nat) (s : State) : Out State :=
  match s.launchWith world q seq s.launchOver with
  | none => .next s
  | some l => .next (s.completeLaunch l (hashBytes l.measure))

/-- COALESCING_TIMEOUT: CWIN µs have passed since the first pending record (R294). -/
def execCoalescingTimeout (world q : Nat) (s : State) : Out State :=
  let x := s.queueAt world q
  if x.prompt && x.pending != 0 && x.firstPending + x.cwin * 1000 ≤ s.ns && s.hostOpen world then
    .next ((s.setQueue world q { x with pending := 0 }).interrupt world x.vec)
  else .next s

/-- QCONS_WRITE: records are consumed, and held ones written (R282, R293). -/
def execQconsWrite (world q n : Nat) (s : State) : Out State :=
  if s.barOpen world && q < 8 then
    let x := s.queueAt world q
    let s1 := s.setQueue world q { x with qcons := n % 2 ^ 64 }
    .next (if s.hostOpen world then s1.flushRecords world q x.heldRecords else s1)
  else .next s

/-- A running workgroup of a launch in which a strand stays blocked on `phase` (R318). -/
def State.stuck (s : State) (l : Launch) (w : Workgroup) : Bool :=
  w.launch == l.id && w.state == .running && (s.strandsOf w).any fun p => p.2.2.arrived

/-- The spent allowance ends a workgroup; the supervisor has not killed it, so the launch's mark of that stays (R292, R298, R318; log 87, DEDUCED). -/
def State.cutWg (s : State) (l : Launch) (w : Workgroup) : State :=
  (s.terminate w.id 0 true).modLaunch l.id fun x => { x with killed := l.killed, cut := true }

/-- ALLOWANCE_EXHAUSTED: the launch's core time has reached its allowance: no further workgroup of it starts, and a running one that stays blocked on `phase` ends (R298, R318; log 87, DEDUCED). -/
def execAllowanceExhausted (world q seq : Nat) (s : State) : Out State :=
  match s.launchWith world q seq fun l => l.spent && (!l.budget || s.wgs.any (s.stuck l)) with
  | none => .next s
  | some l => .next (((s.wgs.filter (s.stuck l)).foldl (fun (s : State) w => s.cutWg l w) s).modLaunch l.id fun l => { l with budget := true })

/-! ### Fetching (R285, R286) -/

/-- Stop(cause) (R286). The measurement field of a QORDER record has no launch to come from and is free (log 8, DESIGN CHOICE; log 72, DEDUCED). -/
def State.stopQueue (s : State) (world q cause : Nat) : State :=
  let x := s.queueAt world q
  let s1 := s.setQueue world q { x with faulted := true, cause := cause, tries := 0 }
  if cause != causeQorder then s1
  else
    let f := s1.freeRecord 8
    let s2 := f.2.addRecord world q (recordBytes x.qnext 9 0 f.1 s.ns s.ns 0 0)
    if x.prompt && s.hostOpen world && s2.interrupts == s1.interrupts then
      (s2.setQueue world q { s2.queueAt world q with pending := 0 }).interrupt world x.vec
    else s2

/-- Accept(e): the launch is resolved and checked; one that fails is completed at once (R277, R280). -/
def State.accept_ (s : State) (world q seq p : Nat) : State :=
  let l := { s.checkLaunch world q seq p with id := s.nextId + 1 }
  let s1 := s.bumpId.launchChecked world seq p l
  if l.failed.isSome then
    match s.readRcb world p with
    | some r => s1.completeLaunch l (hashBytes r.measure)
    | none => let f := s1.freeRecord 8; f.2.completeLaunch l f.1
  else { s1 with launches := s1.launches ++ [l] }

/-- Address of the entry of the next submission (R284). -/
def Queue.entryAt (x : Queue) : Nat := x.qsub.toNat + 16 * (x.qnext % 2 ^ x.sublog)

/-- The entry of the next submission: its RCB pointer, where its sequence number and its leaf's stamp fit (R285). -/
def State.entryOf (s : State) (world q : Nat) : Option Nat :=
  let x := s.queueAt world q
  match s.sysGet world x.entryAt 16 with
  | none => none
  | some b =>
    let p := leNat (b.take 8)
    if leNat (b.drop 8) != x.qnext then none
    else
      match s.readRcb world p with
      | some r => if r.stamp != 0 && r.stamp != x.qnext then none else some p
      | none => some p

/-- Fetch submissions up to QNOTIFY's, until one does not fit yet (R285). -/
def State.fetchQueue (world q : Nat) : Nat → State → State
  | 0, s => s
  | fuel + 1, s =>
    let x := s.queueAt world q
    if !x.en || x.faulted || !s.queueRuns world q || x.qnotify < x.qnext then s
    else
      let s1 := s.sysChecked world x.entryAt 16
      match s.entryOf world q with
      | some p => State.fetchQueue world q fuel ((s1.accept_ world q x.qnext p).setQueue world q
          { (s1.accept_ world q x.qnext p).queueAt world q with qnext := x.qnext + 1, tries := 0 })
      | none =>
        if x.tries == 16 then s1.stopQueue world q causeQorder
        else s1.setQueue world q { x with tries := x.tries + 1, retryAt := s.ns + 1000 }

/-- Fetch as long as entries fit. -/
def State.fetchAll (s : State) (world q : Nat) : State := State.fetchQueue world q ((s.queueAt world q).qnotify + 1 - (s.queueAt world q).qnext) s

/-- QNOTIFY_WRITE (R285). -/
def execQnotifyWrite (world q n : Nat) (s : State) : Out State :=
  let x := s.queueAt world q
  if !(s.barOpen world && q < 8 && x.en && !x.faulted) then .next s
  else
    let top := Nat.max x.qnotify (n % 2 ^ 64)
    let s1 := s.setQueue world q { x with qnotify := top }
    if !s.queueRuns world q then .next s1
    else if x.qnext + 2 ^ x.sublog ≤ top then .next (s1.stopQueue world q causeBadnotify)
    else if x.tries != 0 then .next s1
    else .next (s1.fetchAll world q)

/-- SUBMISSION_FETCH_RETRY: 1 µs after a fetch that did not fit it is made again (R285). -/
def execSubmissionFetchRetry (world q : Nat) (s : State) : Out State :=
  let x := s.queueAt world q
  if x.tries != 0 && x.retryAt ≤ s.ns && x.en && !x.faulted then .next (s.fetchAll world q) else .next s

/-! ### Enabling (R283) -/

/-- The bits of QCFG that hold a field. -/
def qcfgMask : Word := 0xC00003FFFFFFFF00

/-- A configuration that a write may enable (R283). -/
def Queue.cfgOk (q : Queue) : Bool :=
  4 ≤ q.sublog && q.sublog ≤ 12 && 4 ≤ q.cpllog && q.cpllog ≤ 12
    && q.qsub.toNat % (16 * 2 ^ q.sublog) == 0 && q.qcpl.toNat % (64 * 2 ^ q.cpllog) == 0
    && (!q.prompt || (1 ≤ q.cwin && 1 ≤ q.ccnt && q.vec ≤ 63))

/-- QUEUE_ENABLE: a write of QCFG with EN set, while the queue is off (R283, R293). -/
def execQueueEnable (world q : Nat) (v : Word) (s : State) : Out State :=
  let x := s.queueAt world q
  if !(s.cfgOpen world && q < 8) || x.en then .next s
  else
    let y := { x with qcfg := (v &&& qcfgMask) ||| 0x8000000000000000 }
    if y.cfgOk then
      let s1 := s.setQueue world q { y with faulted := false, cause := 0, tries := 0, qnotify := 0, word := 0, pending := 0 }
      let s2 := if s.hostOpen world then { s1 with host := Memory.writeN s1.host x.qcwa.toNat (leBytes 8 0) } else s1
      .next (if s.hostOpen world then s2.flushRecords world q x.heldRecords else s2)
    else .next (s.setQueue world q { y with qcfg := v &&& qcfgMask &&& 0x7FFFFFFFFFFFFFFF, cause := causeBadcfg })

/-- QUEUE_DISABLE: EN is cleared and fetching stops (R283). -/
def execQueueDisable (world q : Nat) (s : State) : Out State :=
  let x := s.queueAt world q
  if s.cfgOpen world && q < 8 then .next (s.setQueue world q { x with qcfg := x.qcfg &&& 0x7FFFFFFFFFFFFFFF, tries := 0 }) else .next s

/-- A write of QCFG (R282, R283): fields other than EN are written while the queue is off. -/
def State.qcfgWrite (s : State) (world q : Nat) (v : Word) : State :=
  let x := s.queueAt world q
  if v.getLsbD 63 then (match execQueueEnable world q v s with
    | .next t => t
    | _ => s)
  else if x.en then (match execQueueDisable world q s with
    | .next t => t
    | _ => s)
  else s.setQueue world q { x with qcfg := v &&& qcfgMask }

/-- A write of a queue register by its offset (R282). -/
def State.queueWrite (s : State) (world q off : Nat) (v : Word) : State :=
  let x := s.queueAt world q
  if off == 0x08 then s.qcfgWrite world q v
  else if off == 0x30 then (match execQconsWrite world q v.toNat s with
    | .next t => t
    | _ => s)
  else if off == 0x20 then (match execQnotifyWrite world q v.toNat s with
    | .next t => t
    | _ => s)
  else if x.en then s
  else if off == 0x00 then s.setQueue world q { x with qsub := v }
  else if off == 0x10 then s.setQueue world q { x with qcpl := v }
  else if off == 0x18 then s.setQueue world q { x with qcwa := v }
  else if off == 0x28 then s.setQueue world q { x with qnext := v.toNat }
  else s

end Sys2Proof.Machine
end

