-- ==== Sys2Proof/Machine/Start.lean ====
section
/-! DEFINITION. Starting workgroups (R287 to R289, R295 to R298, R384) and the partition governor (R302 to R305). -/

namespace Sys2Proof.Machine

open Sys2Proof

/-! ### Which launch (R287 to R289) -/

/-- The launches of a queue that are not complete. -/
def State.launchesOf (s : State) (world q : Nat) : List Launch := s.launches.filter fun l => l.world == world && l.queue == q

/-- The launch of a queue whose next workgroup is first in order (R287). -/
def State.headLaunch (s : State) (world q : Nat) : Option Launch :=
  ((s.launchesOf world q).filter fun l => l.next < l.grid).foldl (fun h l => match h with
    | some m => if l.seq < m.seq then some l else some m
    | none => some l) none

/-- A launch is earlier than another of its queue: by its sequence number, and by its fetching where a queue has given one number twice (R287, R288; log 109, DESIGN CHOICE). -/
def Launch.earlier (e l : Launch) : Bool := e.seq < l.seq || (e.seq == l.seq && e.id < l.id)

/-- BARRIER and AFTER (R288). -/
def State.orderMet (s : State) (l : Launch) : Bool :=
  (s.launchesOf l.world l.queue).all fun e => !(l.barrier && e.earlier l) && (match l.after with
    | some a => decide (a < e.seq) || e.id == l.id
    | none => true)

/-! ### Where (R295) -/

/-- Clusters of a world's partition. -/
def World.clusters (w : World) : List Nat := (List.range 64).filter w.hasCluster

/-- The window of a launch's next workgroup (R279). -/
def State.windowOf (s : State) (l : Launch) : List Chan :=
  l.chans.map fun c => (s.worldAt l.world).chan (c.1 + l.next * l.cstride) c.2.1 c.2.2

/-- Watts that the Hearth may grant (R380). -/
def powerBudget : Nat := 2400

/-- Clusters that hold a workgroup. -/
def State.activeClusters (s : State) : List Nat := (List.range 64).filter fun k => (List.range 12).any fun i => (s.coreAt (k * 12 + i)).wg.isSome

/-- With one more cluster active, the floor currents of the active clusters stay within the budget (R381). -/
def State.powerFor (s : State) (k : Nat) : Bool :=
  (((k :: s.activeClusters.filter (· != k)).map fun c => SMap.get s.floors 0 c).foldl (· + ·) 0) ≤ powerBudget

/-- The cluster on which a launch's next workgroup may start: the lowest that meets every condition (R295, R381; log 48, DESIGN CHOICE). -/
def State.startCluster (s : State) (l : Launch) : Option Nat :=
  let w := s.worldAt l.world
  let held := s.clustersOf l
  if !(s.orderMet l && l.cmin ≤ w.clusters.length && (s.windowOf l).all (s.grantable l.world s.nextId) && !l.spent
      && (s.domainStopped l).isNone) then none
  else w.clusters.find? fun k =>
    (w.marked.map (·.1)) != some k && l.cores ≤ (s.freeRanks w k).length
      && (held.contains k || held.length + 1 ≤ l.cmax) && s.powerFor k

/-- Queues in round-robin order after the one that started the world's last workgroup (R289; log 48, DESIGN CHOICE). -/
def World.queueOrder (w : World) : List Nat :=
  match w.lastQueue with
  | none => List.range 8
  | some q => (List.range 8).map fun i => (q + 1 + i) % 8

/-- The launch whose workgroup starts, and its cluster: highest priority, then round robin (R289). -/
def State.nextStart (s : State) (world : Nat) : Option (Launch × Nat) :=
  (s.worldAt world).queueOrder.foldl (fun best q =>
    match s.headLaunch world q with
    | none => best
    | some l =>
      match s.startCluster l with
      | none => best
      | some k => match best with
        | some b => if b.1.priority < l.priority then some (l, k) else some b
        | none => some (l, k)) none

/-! ### The steps of a start (R296, R297, R346) -/

/-- Windows of lasting scratchpad lines of a core: key and line (R346). -/
def State.lastingLines (s : State) (core : Nat) : List (Nat × Nat) :=
  (s.lasting.filter fun x => x % 8 == 2 && x / 8 / 2 ^ 22 * 12 + x / 8 / 2 ^ 18 % 16 == core).map fun x => (x, x / 8 / 2 ^ 14 % 16 * 1024 + x / 8 % 1024)

/-- Map a lasting line to a spare, or fence the core when the bank has none left (R346). -/
def State.spareLine (s : State) (core key line : Nat) : State :=
  let b := core * 16 + line / 1024
  let n := SMap.get s.spares 0 b
  if n < 8 then
    { (s.modCore core fun k => k.setLine line { k.line line with err := Ecc.sound }).settled key with spares := SMap.set s.spares b (n + 1) }
  else { s with fenced := if s.fenced.contains core then s.fenced else s.fenced ++ [core] }

/-- Spare the lasting lines of the cores of a start. -/
def State.spareAll (s : State) (cores : List Nat) : State :=
  cores.foldl (fun (s : State) c => (s.lastingLines c).foldl (fun (s : State) p => s.spareLine c p.1 p.2) s) s

/-- A core at step 1 of R296: written bits cleared, registers at their reset values; the cells keep their bytes (R136, R139, R235, R238, R322). -/
def Core.startReset (k : Core) : Core :=
  { Core.reset with
    cycle := k.cycle, spad := k.spad, scale := k.scale, lineTag := k.lineTag, scrubAt := k.scrubAt
    lines := k.lines.map fun (l : Nat × LineMeta) => (l.1, { l.2 with written := false })
    recs := k.recs.map fun (r : Nat × RecMeta) => (r.1, { r.2 with written := false }) }

/-- The sync words and SYNC registers of the type-4 records (R278). -/
def syncSlots (setup : List (Nat × Nat × Word)) : SMap Word :=
  (setup.filter fun r => r.1 == 4).foldl (fun m r => SMap.set m r.2.1 (word (2 ^ 60 + syncAddr r.2.2))) []

/-- The start state of a strand (R297). -/
def Launch.strand (l : Launch) (index rank t : Nat) : Strand :=
  { Strand.reset with
    status := .running, pc := l.kernel
    n := [l.args, word index, word (rank * 4 + t), word l.grid] ++ List.replicate 12 0
    strandId := rank * 4 + t, world := l.world, sync := syncSlots l.setup }

/-- A core of a starting workgroup (R296, R297). -/
def Launch.core (l : Launch) (k : Core) (wg index rank : Nat) : Core :=
  let k1 := applySetup { k.startReset with wg := some wg, rank := rank } l.setup
  let k2 := (l.setup.filter fun r => r.1 == 4).foldl (fun (k : Core) r =>
    k.writeSpad l.world (syncAddr r.2.2) (leBytes 4 (Word.field r.2.2 32 32) ++ List.replicate 12 0)) k1
  { k2 with strands := (List.range l.strands).map fun t => (t, l.strand index rank t) }

/-- Start the next workgroup of a launch on the given cores (R296, R384). -/
def State.startWg (s : State) (l : Launch) (cluster : Nat) (cores : List Nat) : State :=
  let id := s.nextId
  let window := s.windowOf l
  let w : Workgroup :=
    { id := id, launch := l.id, world := l.world, queue := l.queue, seq := l.seq, index := l.next, cluster := cluster, cores := cores, strands := l.strands,
      mprof := l.mprof, state := .running, boundary := 0, window := window, remap := false, view := (s.worldAt l.world).live,
      stale := false, meterGrains := 0, started := s.ns }
  let s1 := { s.bumpId with wgs := s.wgs ++ [w] }
  let s2 := (cores.zipIdx).foldl (fun (s : State) p => s.setCore p.1 (l.core (s.coreAt p.1) id l.next p.2)) s1
  let s3 := s2.grantAll id l.world window
  (s3.modLaunch l.id fun l => { l with next := l.next + 1, start := if l.next == 0 then s.ns else l.start }).modWorld l.world
    fun w => { w with lastQueue := some l.queue }

/-- WORKGROUP_START: the scheduler starts the next workgroup of a world. Lasting lines of its cores are spared first; if that fences a core, no workgroup starts this time (R295, R296, R346). -/
def execWorkgroupStart (world : Nat) (s : State) : Out State :=
  if !s.worldRuns world then .next s
  else match s.nextStart world with
    | none => .next s
    | some (l, k) =>
      let cores := (s.freeRanks (s.worldAt world) k).take l.cores
      let s1 := s.spareAll cores
      if cores.any s1.fenced.contains then .next s1 else .next (s1.startWg l k cores)

/-! ### The governor (R302 to R305) -/

/-- Workgroups that ended in the last ms, and the sum of the targets (R303). -/
def State.progress (s : State) (world : Nat) : Nat × Nat :=
  (((s.worldAt world).finishedAt.filter fun t => s.ns < t + 1000000).length,
   ((s.launches.filter fun l => l.world == world).map (·.target)).foldl (· + ·) 0)

/-- The ratio is below 0.95. -/
def slow (p : Nat × Nat) : Bool := 100 * p.1 < 95 * p.2
/-- The ratio is above 1.10; with no target it is +∞. -/
def fast (p : Nat × Nat) : Bool := p.2 == 0 || 110 * p.2 < 100 * p.1
/-- One ratio is below another. -/
def lower (p r : Nat × Nat) : Bool := p.2 != 0 && (r.2 == 0 || p.1 * r.2 < r.1 * p.2)

/-- Insert a world by a strict order of ratios, after its equals. -/
def insertBy (lt : Nat × Nat → Nat × Nat → Bool) (x : Nat × (Nat × Nat)) : List (Nat × (Nat × Nat)) → List (Nat × (Nat × Nat))
  | [] => [x]
  | y :: ys => if lt x.2 y.2 then x :: y :: ys else y :: insertBy lt x ys

/-- Worlds in an order of their ratios; equal ones by number. -/
def sortBy (lt : Nat × Nat → Nat × Nat → Bool) (xs : List (Nat × (Nat × Nat))) : List (Nat × (Nat × Nat)) :=
  xs.foldl (fun acc x => insertBy lt x acc) []

/-- Root cmin and cmax of a world (R303, R356). -/
def World.cminRoot (w : World) : Nat := Word.field w.pwquota 8 8
def World.cmaxRoot (w : World) : Nat := Word.field w.pwquota 0 8

/-- The worlds that have a partition: those that exist, of which world 0 is one where clusters are given to it (R302, R303, R356). -/
def State.governed (s : State) : List Nat :=
  (List.range 16).filter fun w => (s.worldAt w).pwctl.getLsbD 63 || (w == 0 && !(s.worldAt 0).clusters.isEmpty)

/-- Marks are cancelled where the receiver is no longer slow or the donor no longer fast (R305; log 51, DEDUCED). -/
def State.cancelMarks (s : State) : State :=
  s.governed.foldl (fun (s : State) d => match (s.worldAt d).marked with
    | some (_, r) => if slow (s.progress r) && fast (s.progress d) then s else s.modWorld d fun w => { w with marked := none }
    | none => s) s

/-- The free pool: clusters in no partition (R302). -/
def State.freePool (s : State) : List Nat := (List.range 64).filter fun k => (List.range 16).all fun w => !(s.worldAt w).hasCluster k

/-- Worlds that should receive a cluster, in order (R304). -/
def State.receivers (s : State) : List Nat :=
  let ws := (s.governed.filter fun w => (s.worldAt w).marked.isNone).map fun w => (w, s.progress w)
  let short := ws.filter fun p => (s.worldAt p.1).clusters.length < (s.worldAt p.1).cminRoot
  let slowOnes := ws.filter fun p => !((s.worldAt p.1).clusters.length < (s.worldAt p.1).cminRoot) && slow p.2
    && (s.worldAt p.1).clusters.length < (s.worldAt p.1).cmaxRoot
  short.map (·.1) ++ (sortBy lower slowOnes).map (·.1)

/-- Worlds that may give one, in order (R304; log 51, DEDUCED). -/
def State.donors (s : State) : List Nat :=
  let ws := (s.governed.filter fun w => (s.worldAt w).marked.isNone).map fun w => (w, s.progress w)
  (sortBy (fun a b => lower b a) (ws.filter fun p => fast p.2 && (s.worldAt p.1).cminRoot < (s.worldAt p.1).clusters.length)).map (·.1)

/-- A cluster lies in the partition of another world (R275, R302). -/
def State.clusterOther (s : State) (world k : Nat) : Bool := (List.range 16).any fun w => w != world && (s.worldAt w).hasCluster k

/-- Put a cluster into a partition, unless it lies in another world's, or take it out. -/
def State.setCluster (s : State) (w k : Nat) (on : Bool) : State :=
  if on && s.clusterOther w k then s
  else s.modWorld w fun x => { x with pwpart := if on then x.pwpart ||| ((1 : Word) <<< k) else x.pwpart &&& ~~~((1 : Word) <<< k) }

/-- A core whose cells are zeroed, every line under the tag of a world (R88, R305). -/
def Core.scrubbed (world : Nat) (k : Core) : Core := { Core.reset with cycle := k.cycle, lineTag := world, scrubAt := k.scrubAt }

/-- Every core of a cluster is scrubbed for a world, and its KS slot loaded with the world's key (R88, R305). -/
def State.scrubCluster (s : State) (k world : Nat) : State :=
  let s1 := (List.range 12).foldl (fun (s : State) i => s.modCore (k * 12 + i) (Core.scrubbed world)) s
  { s1 with ksSlot := SMap.set s1.ksSlot k (world, (s.worldAt world).born) }

/-- A cluster on which no workgroup stands. -/
def State.clusterEmpty (s : State) (k : Nat) : Bool := (List.range 12).all fun i => (s.coreAt (k * 12 + i)).wg.isNone

/-- Free clusters go to receivers in order, scrubbed and with the receiver's key; answers the receivers left (R88, R304). -/
def State.giveFree : List Nat → List Nat → State → State × List Nat
  | [], _, s => (s, [])
  | rs, [], s => (s, rs)
  | r :: rs, k :: ks, s => State.giveFree rs ks ((s.scrubCluster k r).setCluster r k true)

/-- Running workgroups of a cluster. -/
def State.load (s : State) (k : Nat) : Nat := (s.wgs.filter fun w => w.cluster == k && !w.cores.isEmpty).length

/-- The cluster of a world with the fewest running workgroups (R304). -/
def State.lightest (s : State) (w : Nat) : Option Nat :=
  (s.worldAt w).clusters.foldl (fun best k => match best with
    | some b => if s.load k < s.load b then some k else some b
    | none => some k) none

/-- Package time between two evaluations: 100 µs (R303). -/
def governorPeriod : Nat := 100000

/-- GOVERNOR_EVALUATION, every 100 µs of package time (R303 to R305; log 51, DEDUCED). -/
def execGovernorEvaluation (s : State) : Out State :=
  if s.dstat != 5 || s.ns < s.governedAt + governorPeriod then .next s
  else
  let s1 := { s with governedAt := s.governedAt + governorPeriod }.cancelMarks
  let donors := s1.donors
  let g := State.giveFree s1.receivers s1.freePool s1
  .next ((donors.zip g.2).foldl (fun (s : State) p => match s.lightest p.1 with
    | some k => s.modWorld p.1 fun w => { w with marked := some (k, p.2) }
    | none => s) g.1)

/-- CLUSTER_MOVE: a marked cluster whose last workgroup has left is scrubbed and joins the receiver's partition (R305). -/
def execClusterMove (cluster : Nat) (s : State) : Out State :=
  match s.governed.find? fun w => ((s.worldAt w).marked.map (·.1)) == some cluster with
  | none => .next s
  | some d =>
    match (s.worldAt d).marked with
    | none => .next s
    | some (k, r) =>
      if !s.clusterEmpty cluster then .next s
      else .next ((((s.scrubCluster k r).modWorld d fun w => { w with marked := none }).setCluster d k false).setCluster r k true)

end Sys2Proof.Machine
end

