-- ==== Sys2Proof/Machine/Host.lean ====
section
/-! DEFINITION. Worlds and their functions (R355 to R361), the per-world registers, and the host's accesses (R377, R378). -/

namespace Sys2Proof.Machine

open Sys2Proof

/-- An answer of a function to the host (log 63, DESIGN CHOICE). -/
def State.reply (s : State) (world : Nat) (bytes : List Byte) : State := { s with answers := s.answers ++ [(world, bytes)] }

/-- A function answers requests on the link: the physical one but in RECOVERY, where only DSTAT and the mailbox answer; a virtual one in READY (R383). -/
def State.answersLink (s : State) (world : Nat) : Bool := world < 16 && (s.dstat == 5 || (world == 0 && s.dstat != 15))

/-! ### The end of a world's run (R355, R359) -/

/-- A rotation in progress ends with the keys that it would replace: its operation counts and retires (R359, R364). -/
def State.endRotation (s : State) (world : Nat) : State :=
  match (s.worldAt world).rotating with
  | none => s
  | some (_, _, i) => ((s.modWorld world fun w => { w with rotating := none }).countFor i 64 false).arriveOp i

/-- Every workgroup, launch and image of a world is gone (log 49, DESIGN CHOICE). -/
def State.dropWorldWork (s : State) (world : Nat) : State :=
  let s1 := (s.wgs.filter fun w => w.world == world).foldl (fun (s : State) w => s.dropWg w) s
  { s1 with
    launches := s1.launches.filter fun (l : Launch) => l.world != world
    images := s1.images.filter fun (m : Image) => m.wg.world != world }

/-- Zero the cells of a slice. -/
def State.scrubSlice (s : State) (key sid : Nat) : State :=
  { s.soundSlice key sid with
    dram := Memory.clear s.dram (plaOf key sid 0 0 0 0 * 128) (2 ^ 28)
    poisonLines := s.poisonLines.filter fun l => sliceOfPla l != (key, sid) }

/-- Frames in which pages of the world stand, those that a replaced translation still reaches among them (R325). -/
def World.framesHeld (w : World) : List Nat := ((w.pages ++ w.live ++ w.fabView).map (·.2.frame)).eraseDups

/-- The data slices, system pages and clusters of a world are scrubbed; its slices and pages lose their mapping, since a slice is mapped only after a fill under the world's keys (R101, R355). -/
def State.scrubWorld (s : State) (world : Nat) : State :=
  let w := s.worldAt world
  let s1 := w.sliceKeys.foldl (fun (s : State) k => s.scrubSlice k.1 k.2) s
  let s2 := w.framesHeld.foldl (fun (s : State) f =>
    { s with
      sysmem := Memory.clear s.sysmem (f * Config.pageBytes) Config.pageBytes
      sysBad := s.sysBad.filter fun u => u / 32768 != f
      sysPoison := s.sysPoison.filter fun u => u / 32768 != f }) s1
  let s3 := w.clusters.foldl (fun (s : State) k => s.scrubCluster k world) s2
  { s3.modWorld world (fun w => { w with slices := [], pages := [], live := [], fabView := [] }) with
    filling := s3.filling.filter (fun f => f.1 != world), linkKeys := s3.linkKeys.filter fun k => k.world != world }

/-- A final statement is due: the world has a meter that is not zero (R355). -/
def World.finalDue (w : World) : Bool := w.meters.any fun m => m.2 != 0

/-- A world with a non-zero meter has a final FROZEN statement posted; its nonce has no requester and is free (R355, R369; log 8, DESIGN CHOICE). -/
def State.finalStatement (s : State) (world : Nat) : State :=
  if (s.worldAt world).finalDue then
    let n := s.freeRecord 16
    let p := n.2.signStatement world flFrozen n.1
    p.2.modWorld world fun w => { w with mailbox := w.mailbox ++ [p.1] }
  else s

/-- Keys are erased: the world has none until it is created anew, and no draw gives them again; they leave the Lintels, the bridge ends and the cluster edges, and checkpoint keys, adopted manifest and meter requests go with them (R358, R359). -/
def State.eraseKeys (s : State) (world : Nat) : State :=
  { (s.endRotation world).modWorld world (fun w =>
      { w with keyGen := 0, born := 0, rotSlices := [], rotPages := [], kcEpochs := [], adopted := none, adoptedKC := 0, adoptedShards := [], mets := [] }) with
    ksSlot := (s.endRotation world).ksSlot.filter fun k => k.2.1 != world
    bridge := SMap.erase (s.endRotation world).bridge world }

/-- Termination, scrub and erasure (R355, R356; log 49, DESIGN CHOICE). -/
def State.destroyWorld (s : State) (world : Nat) : State := ((s.dropWorldWork world).scrubWorld world).eraseKeys world

/-- Termination, final statement, scrub and erasure, on entry to CONFIG_UNLOCKED (R355; log 49, DESIGN CHOICE). -/
def State.clearWorld (s : State) (world : Nat) : State := (((s.dropWorldWork world).finalStatement world).scrubWorld world).eraseKeys world

/-! ### Measurement blocks (R360) -/

/-- Bytes of the tables behind blocks 7 to 10. -/
def State.blockBytes (s : State) (world index : Nat) : List Byte :=
  let w := s.worldAt world
  let words (xs : List Word) : List Byte := xs.flatMap fun x => leBytes 8 x.toNat
  let nats (xs : List Nat) : List Byte := xs.flatMap fun x => leBytes 8 x
  let hash (h : Option (BitVec 256)) : List Byte := (h.map hashBytes).getD []
  if index == 7 then w.allow.flatMap hashBytes
  else if index == 8 then
    words [w.pwctl, w.pwpart, w.pwquota, w.pwchan, w.pwpeer] ++ w.slices.flatMap fun x => nats [x.1, x.2.1, x.2.2.1, x.2.2.2]
  else if index == 9 then
    w.ownerKey.getD [] ++ w.releaseKey.getD [] ++ [if w.debug then 1 else 0]
      ++ (w.exports.flatMap fun e => nats [e.1, e.2.base, e.2.pages, e.2.perm.toNat, e.2.peers, e.2.rank, e.2.bank, e.2.boff, if e.2.bvalid then 1 else 0, e.2.bqueue, e.2.bwg, e.2.bseq])
      ++ (w.peerSets.flatMap fun p => nats (p.1 :: p.2)) ++ (w.groups.flatMap fun g => nats (g.1 :: g.2.own :: g.2.switch :: g.2.devices))
      ++ ((s.peerTable world).flatMap fun p => nats [p.1, p.2]) ++ hash w.peerPolicy
  else w.bindings.flatMap fun b => hashBytes b.digest

/-- Blocks 7 to 9 as they now stand. -/
def State.blocksNow (s : State) (world : Nat) : List (BitVec 256) := [7, 8, 9].map fun i => Config.blockHash i (s.blockBytes world i)

/-- The interface report and the measurements are fixed, unless they are already (R355, R360). -/
def State.fixReport (s : State) (world : Nat) : State :=
  if (s.worldAt world).report.isSome then s
  else
    let now := s.blocksNow world
    (s.peerChecked world).modWorld world fun w => { w with report := some now }

/-! ### TDISP (R355) -/

/-- LOCK_INTERFACE_REQUEST: CONFIG_UNLOCKED to CONFIG_LOCKED; report and measurements are fixed (R355). -/
def execLockInterfaceRequest (world : Nat) (s : State) : Out State :=
  if isVf world && s.dstat == 5 && (s.worldAt world).tdisp == .unlocked then
    .next ((s.fixReport world).modWorld world fun w => { w with tdisp := .locked })
  else .next s

/-- START_INTERFACE_REQUEST: CONFIG_LOCKED to RUN (R355). -/
def execStartInterfaceRequest (world : Nat) (s : State) : Out State :=
  if isVf world && s.dstat == 5 && (s.worldAt world).tdisp == .locked then .next (s.modWorld world fun w => { w with tdisp := .run }) else .next s

/-- STOP_INTERFACE_REQUEST: to CONFIG_UNLOCKED from any state; on entry from another, the world is terminated, scrubbed and its keys erased. A final statement that comes too early after the last one is waited for (R355, R369; log 49, DESIGN CHOICE). -/
def execStopInterfaceRequest (world : Nat) (s : State) : Out State :=
  let w := s.worldAt world
  if !(isVf world && s.dstat == 5) || w.tdisp == .unlocked || (w.finalDue && s.statementEarly world) then .next s
  else .next ((s.clearWorld world).modWorld world fun w => { w with tdisp := .unlocked, report := none, migration := .none, metersFrozen := false })

/-- The function enters ERROR: fetching stops and running workgroups are terminated (R355). -/
def State.toError (s : State) (world : Nat) : State :=
  let ws := s.wgs.filter fun w => w.world == world && (w.state == .running || w.state == .sealing)
  (ws.foldl (fun (s : State) w => s.terminate w.id 0 true) (s.fixReport world)).modWorld world fun w => { w with tdisp := .error }

/-- IDE_INTEGRITY_FAILURE (R355). -/
def execIdeIntegrityFailure (world : Nat) (s : State) : Out State := if isVf world then .next (s.toError world) else .next s

/-- FUNCTION_LEVEL_RESET, or a bus-master disable (R355). -/
def execFunctionLevelReset (world : Nat) (s : State) : Out State := if isVf world then .next (s.toError world) else .next s

/-- SPDM_SESSION_LOSS: the session that holds the IDE keys is lost (R355). -/
def execSpdmSessionLoss (world : Nat) (s : State) : Out State :=
  if isVf world && (s.worldAt world).session then .next ((s.toError world).modWorld world fun w => { w with session := false }) else .next s

/-! ### Attestation (R358, R360) -/

/-- The value of a measurement block of a function; none where it has no such block. Blocks 7 to 9 stand as they were fixed (R355, R360). -/
def State.measurement (s : State) (world index : Nat) : Option (BitVec 256) :=
  if 1 ≤ index && index ≤ 6 then some (Config.measurement index s.bootGen)
  else if 7 ≤ index && index ≤ 9 then (((s.worldAt world).report).getD (s.blocksNow world))[index - 7]?
  else if index == 10 && world != 0 then some (Config.blockHash 10 (s.blockBytes world 10))
  else none

/-- First byte of a response in `answers`: answered, or an SPDM ERROR (R358; log 14, DESIGN CHOICE). -/
abbrev spdmOk : Byte := 0
abbrev spdmError : Byte := 1

/-- A function answers SPDM requests (R360, R383). -/
def State.doeOpen (s : State) (world : Nat) : Bool := s.answersLink world

/-- A signed answer that carries bytes of its own: what is signed is the standard's and free; ERROR with the tree exhausted (R358; log 8, DESIGN CHOICE). -/
def State.signedAnswer (s : State) (world : Nat) (bytes : List Byte) : State :=
  let g := s.sign
  if g.1 then
    let f := g.2.freeRecord 32
    f.2.reply world (spdmOk :: bytes ++ (List.range 3284).map (Config.signature (hashOf f.1) s.hssLeaves))
  else g.2.reply world [spdmError]

/-- A signed answer without bytes that the manual names (R358). -/
def State.signedReply (s : State) (world : Nat) : State := s.signedAnswer world []

/-- GET_MEASUREMENTS: signed with a leaf of the tree where that is asked for (R358, R360). -/
def execGetMeasurements (world : Nat) (index : MeasureReq) (s : State) : Out State :=
  if !s.doeOpen world then .next s
  else match s.measurement world index.index with
    | some h => .next (if index.signed then s.signedAnswer world (hashBytes h) else s.reply world (spdmOk :: hashBytes h))
    | none => .next (s.reply world [spdmError])

/-- CHALLENGE (R358, R360). -/
def execChallenge (world : Nat) (s : State) : Out State := if s.doeOpen world then .next (s.signedReply world) else .next s

/-- KEY_EXCHANGE: a secure session for IDE keys is set up, unless the tree is exhausted (R358, R360). -/
def execKeyExchange (world : Nat) (s : State) : Out State :=
  if !s.doeOpen world then .next s
  else if s.hssLeaves < hssTree then .next ((s.signedReply world).modWorld world fun w => { w with session := true })
  else .next (s.signedReply world)

/-! ### Per-world registers (R356) -/

/-- The registers are frozen. -/
def World.frozen (w : World) : Bool := w.tdisp == .locked || w.tdisp == .run

/-- A write to a frozen register is ignored, and a record posted; bytes 10 and 11 are not given (R356; log 8, DESIGN CHOICE; log 62, DESIGN CHOICE). -/
def State.frozenEvent (s : State) (world offset : Nat) (v : Word) : State :=
  let f := s.free
  let seq := s.eventSeq + 1
  { f.2 with
    eventSeq := seq
    pfEvents := s.pfEvents ++ [leBytes 8 seq ++ leBytes 1 0x10 ++ leBytes 1 world ++ leBytes 2 f.1.toNat ++ leBytes 4 offset ++ leBytes 8 s.ns ++ leBytes 8 v.toNat] }

/-- The bits of PWCTL that hold a field. -/
def pwctlMask : Word := 0xE000000000000000

/-- A world without slices, meters and records, whose registers and configuration stay (R356, R357, R365, R374; log 88, DEDUCED). -/
def World.renewed (w : World) (v : Word) (draw : Nat) : World :=
  { World.reset with
    pwctl := v &&& pwctlMask, pwpart := w.pwpart, pwroot := w.pwroot, pwquota := w.pwquota, pwchan := w.pwchan, pwqueue := w.pwqueue,
    pwpeer := w.pwpeer, queues := w.queues, keyGen := draw, born := draw, tdisp := w.tdisp, mailbox := w.mailbox, events := w.events,
    session := w.session, allow := w.allow, debug := w.debug, exports := w.exports, peerSets := w.peerSets, groups := w.groups,
    ownerKey := w.ownerKey, releaseKey := w.releaseKey, peerPolicy := w.peerPolicy, report := w.report,
    pages := w.pages, live := w.live, fabView := w.fabView }

/-- The world is created and its keys drawn; its free clusters are scrubbed and their KS slots loaded, the pages that were mapped before come under these keys, and a data slice is mapped only after a fill under them (R88, R101, R356, R365; log 88, DEDUCED). -/
def State.createWorld (s : State) (world : Nat) (v : Word) : State :=
  let s1 := { s.modWorld world (fun w => w.renewed v (s.drbg + 1)) with
    drbg := s.drbg + 1, filling := s.filling.filter fun f => f.1 != world }
  let w := s1.worldAt world
  let s2 := (w.pages ++ w.live ++ w.fabView).foldl (fun (s : State) p => s.ownFrame world p.1 p.2.frame) s1
  (w.clusters.filter s2.clusterEmpty).foldl (fun (s : State) k => s.scrubCluster k world) s2

/-- Write PWCTL: writing 1 to EN creates a world that does not exist, or whose keys have been erased; clearing it is accepted only in CONFIG_UNLOCKED and destroys it (R355, R356, R359; log 88, DEDUCED). -/
def State.writePwctl (s : State) (world : Nat) (v : Word) : State :=
  let w := s.worldAt world
  let on := w.pwctl.getLsbD 63
  if v.getLsbD 63 && (!on || w.keyGen == 0) then s.createWorld world v
  else if !v.getLsbD 63 && on then
    if w.tdisp == .unlocked then
      (s.destroyWorld world).modWorld world fun w => { w with pwctl := v &&& pwctlMask, migration := .none, metersFrozen := false }
    else s.modWorld world fun w => { w with pwctl := (v &&& pwctlMask) ||| 0x8000000000000000 }
  else s.modWorld world fun w => { w with pwctl := v &&& pwctlMask }

/-- PWCTL_WRITE (R356). -/
def execPwctlWrite (world : Nat) (v : Word) (s : State) : Out State :=
  if s.dstat == 15 || 16 ≤ world then .next s
  else if (s.worldAt world).frozen then .next (s.frozenEvent world 0 v)
  else .next (s.writePwctl world v)

/-- PWPART is written: a cluster on which a workgroup stands, or that lies in another world's partition, stays where it is, and one that enters or leaves the partition is scrubbed for its new world (R88, R275, R302, R356; log 88, DEDUCED). -/
def State.writePart (s : State) (world : Nat) (v : Word) : State :=
  let w := s.worldAt world
  let moves := (List.range 64).filter fun k => v.getLsbD k != w.hasCluster k && s.clusterEmpty k && !s.clusterOther world k
  moves.foldl (fun (s : State) k => (s.scrubCluster k (if v.getLsbD k then world else 0)).setCluster world k (v.getLsbD k)) s

/-- Write one of the other registers (R356). -/
def World.writeReg (w : World) (offset : Nat) (v : Word) : World :=
  if offset == 0x10 then { w with pwroot := v }
  else if offset == 0x18 then { w with pwquota := v &&& 0xFFFF }
  else if offset == 0x20 then { w with pwchan := v }
  else if offset == 0x28 then { w with pwqueue := v &&& 0x3FFF }
  else if offset == 0x30 then { w with pwpeer := v }
  else w

/-- FROZEN_REGISTER_WRITE: a write of a per-world register: ignored and recorded while the registers are frozen, else performed (R356, R378). -/
def execFrozenRegisterWrite (world offset : Nat) (v : Word) (s : State) : Out State :=
  if s.dstat == 15 || 16 ≤ world || offset % 8 != 0 || 0x30 < offset then .next s
  else if (s.worldAt world).frozen then .next (s.frozenEvent world offset v)
  else if offset == 0 then .next (s.writePwctl world v)
  else if offset == 8 then .next (s.writePart world v)
  else .next (s.modWorld world fun w => w.writeReg offset v)

/-! ### The world's own configuration (R357) -/

/-- An export entry from its 32 bytes (R261). -/
def Export.ofBytes (b : List Byte) : Export :=
  let f (o n : Nat) : Nat := leNat ((b.drop o).take n)
  { base := f 0 8, pages := f 8 2, perm := BitVec.ofNat 8 (f 10 1), peers := f 11 1, rank := f 12 2 / 64 % 16, bank := f 12 2 % 16,
    boff := f 14 2, bvalid := f 16 1 % 2 == 1, bqueue := f 17 1 % 8, bwg := f 18 2, bseq := f 20 4, missed := f 24 8 }

/-- One item of configuration (R357). -/
def World.configure (w : World) (item : VfItem) : World :=
  match item with
  | .allow d => if w.allow.length < 1024 && !w.allow.contains d then { w with allow := w.allow ++ [d] } else w
  | .allowAt i d =>
    { w with allow := if w.allow.length ≤ i then w.allow else match d with
        | some x => w.allow.set i x
        | none => w.allow.eraseIdx i }
  | .debug on => { w with debug := on }
  | .exportEntry i e => if i < 64 then { w with exports := SMap.set w.exports i (Export.ofBytes e) } else w
  | .peerSet i ds => if i < 64 then { w with peerSets := SMap.set w.peerSets i ds } else w
  | .group i m sw ds => if i < 64 then { w with groups := SMap.set w.groups i { own := m, switch := sw, devices := ds } } else w
  | .ownerKey d => { w with ownerKey := some d }
  | .releaseKey d => { w with releaseKey := some d }
  | .peerPolicy d => { w with peerPolicy := some d }

/-- VF_CONFIG_WRITE: only in CONFIG_UNLOCKED (R357). World 0, which has no virtual function, is configured through the physical one. -/
def execVfConfigWrite (world : Nat) (item : VfItem) (s : State) : Out State :=
  if s.dstat == 5 && world < 16 && (s.worldAt world).tdisp == .unlocked then .next (s.modWorld world fun w => w.configure item) else .next s

/-! ### Host accesses (R377, R378) -/

/-- The access does not translate: logged in category 6 (R378). -/
def State.bar2Miss (s : State) (world va : Nat) : State :=
  s.errorEvent { cat := 6, code := 0xFF, world := world, corrected := false, injected := false, loc := word (4 * 2 ^ 60 + va % 2 ^ 56) }

/-- A BAR2 write within one page; measured code is not written (R281, R378; log 64, DEDUCED). -/
def State.bar2Write (s : State) (world va : Nat) (bs : List Byte) : State :=
  match sysPlace (s.worldAt world).live va with
  | none => s.bar2Miss world va
  | some a => if s.codeAt world (pageOf va) (a / Config.pageBytes) then s else s.putSys a bs false

/-- A BAR2 read within one page: all ones where it does not translate (R378). -/
def State.bar2Read (s : State) (world va n : Nat) : List Byte × State :=
  match sysPlace (s.worldAt world).live va with
  | none => (List.replicate n 0xFF, s.bar2Miss world va)
  | some a => (s.readSys a n, s.sysVerify world a n)

/-- BAR2_ACCESS: an access to the world's system window, each page by itself (R378; log 64, DEDUCED). -/
def execBar2Access (world offset : Nat) (write : Option (List Byte)) (len : Nat) (s : State) : Out State :=
  if !(s.barOpen world && offset + len ≤ 2 ^ 36) then .next s
  else
    let va := 2 ^ 52 + offset
    let room := Config.pageBytes - va % Config.pageBytes
    match write with
    | some bs =>
      let s1 := s.bar2Write world va (bs.take room)
      .next (if room < bs.length then s1.bar2Write world (va + room) (bs.drop room) else s1)
    | none =>
      let a := s.bar2Read world va (Nat.min len room)
      if room < len then
        let b := a.2.bar2Read world (va + room) (len - room)
        .next (b.2.reply world (a.1 ++ b.1))
      else .next (a.2.reply world a.1)

/-- Completion status Unsupported Request, as PCIe encodes it (R377; log 89, PRESUMED). -/
abbrev urStatus : Byte := 1

/-- UNSUPPORTED_REQUEST: ATS, PRI or peer-to-peer at a function: completed with Unsupported Request, and logged in the event queue of the physical function by a record whose layout is not given (R377; log 8, DESIGN CHOICE; log 89, PRESUMED). -/
def execUnsupportedRequest (kind : Unsupported) (s : State) : Out State :=
  if !s.answersLink kind.world then .next s
  else
    let f := s.freeRecord 32
    .next ({ f.2 with pfEvents := s.pfEvents ++ [f.1] }.reply kind.world [urStatus])

end Sys2Proof.Machine
end

