-- ==== Sys2Proof/Machine/Migrate.lean ====
section
/-! DEFINITION. Meter bindings, predecessor records and migration (R365, R366, R370, R371, R376). -/

namespace Sys2Proof.Machine

open Sys2Proof

/-! ### Meters (R365, R366, R376) -/

/-- The commands of a world's function are accepted (R357). -/
def State.inRun (s : State) (world : Nat) : Bool := s.dstat == 5 && world < 16 && (world == 0 || (s.worldAt world).tdisp == .run)

/-- The status of a command, as the function returns it. -/
def State.status (s : State) (world code : Nat) : State := s.reply world (leBytes 1 code)

/-- `n` bytes of a policy from byte `o`, as a number (R365). -/
def policyField (p : Policy) (o n : Nat) : Nat := leNat ((p.bytes.drop o).take n)

/-- The meter that a policy names. -/
def policyMeter (p : Policy) : Nat := policyField p 2 1

/-- Its ranges: first logical channel, count, SID slots (R365). -/
def policyRanges (p : Policy) : List (Nat × Nat × BitVec 4) :=
  (List.range (policyField p 3 1)).map fun i =>
    let e := policyField p (8 + 8 * i) 8
    (e % 2 ^ 9, e / 2 ^ 9 % 2 ^ 9, BitVec.ofNat 4 (e / 2 ^ 18))

/-- A policy has the form of R365: format, meter, number of ranges, zero fields and the length of its signature. -/
def policyFormed (p : Policy) : Bool :=
  policyField p 0 2 == 1 && policyMeter p < 16 && 1 ≤ policyField p 3 1 && policyField p 3 1 ≤ 8 && policyField p 4 4 == 0
    && ((List.range (policyField p 3 1)).all fun i => policyField p (8 + 8 * i) 8 / 2 ^ 22 == 0)
    && p.bytes.length == 168 + policyField p 164 4

/-- Its hash, by which statements and block 10 name it (R360, R369; log 57, DEDUCED). -/
def policyHash (p : Policy) : BitVec 256 := sha256 p.bytes

/-- The slices of a policy's ranges: logical channel and SID slot (R365). -/
def policySlices (p : Policy) : List (Nat × Nat) :=
  (policyRanges p).flatMap fun r => (List.range r.2.1).flatMap fun i => ((List.range 4).filter r.2.2.getLsbD).map fun k => (r.1 + i, k)

/-- The hash that a policy gives of its region's plaintext (R365). -/
def policyContent (p : Policy) : BitVec 256 := hashOf ((p.bytes.drop 72).take 32)

/-- The region's plaintext as the Cellars read it, in range order, SID slot, bank group, bank, row and column order (R365, R366). -/
def State.regionPlain (s : State) (world : Nat) (p : Policy) : List Byte × State :=
  s.shardPlain world ((policySlices p).map fun x => .slice x.1 x.2)

/-- Why a binding fails, in the order of R366; 0 when it does not. A policy of another form counts as one whose signature does not verify (log 57, DEDUCED). -/
def State.bindStatus (s : State) (world : Nat) (p : Policy) : Nat :=
  let w := s.worldAt world
  if !p.sigOk || !policyFormed p then 1
  else if (policySlices p).any fun x => (SMap.find w.slices (x.1 * 4 + x.2)).isNone then 2
  else if (policySlices p).any fun x => (match SMap.find w.slices (x.1 * 4 + x.2) with
      | some y => (s.pcAt (pcKey y.1 y.2.1)).owner.isSome
      | none => false) then 3
  else if w.bindings.any fun b => b.meter == policyMeter p then 4
  else if sha256 (s.regionPlain world p).1 != policyContent p then 5
  else 0

/-- METER_BIND (R365, R366; log 57, DEDUCED). -/
def execMeterBind (world : Nat) (p : Policy) (s : State) : Out State :=
  if !s.inRun world then .next s
  else
    let code := s.bindStatus world p
    let s1 := if code == 0 || code == 5 then (s.regionPlain world p).2 else s
    if code != 0 then .next (s1.status world code)
    else .next ((s1.modWorld world fun w => { w with bindings := w.bindings ++ [{ meter := policyMeter p, digest := policyHash p, slices := policySlices p }] }).status world 0)

/-- METER_UNBIND: the mark is cleared and the slices are refilled before they can be commanded again; it waits while one is granted. The meter keeps its value (R366; log 57, DEDUCED). -/
def execMeterUnbind (world meter : Nat) (s : State) : Out State :=
  if !s.inRun world then .next s
  else match (s.worldAt world).bindings.find? fun b => b.meter == meter with
    | none => .next s
    | some b =>
      let places := b.slices.filterMap fun x => SMap.find (s.worldAt world).slices (x.1 * 4 + x.2)
      if places.any fun y => (s.pcAt (pcKey y.1 y.2.1)).owner.isSome then .next s
      else
        let s1 := s.modWorld world fun w => { w with bindings := w.bindings.filter fun c => c.meter != meter }
        .next ((places.foldl (fun (s : State) y => s.startFill world y.1 y.2.1 y.2.2) s1).status world 0)

/-- METER_PRED: a new part takes a predecessor record, in CONFIG_UNLOCKED; no path lowers a meter (R365, R376; log 57, DEDUCED). -/
def execMeterPred (world : Nat) (values : List Word) (last : BitVec 256) (sigOk : Bool) (s : State) : Out State :=
  let w := s.worldAt world
  let lowers := w.meters.any fun m => (values.getD m.1 0).toNat < m.2.toNat
  if !(s.dstat == 5 && world < 16 && w.tdisp == .unlocked) then .next s
  else if !sigOk || lowers || w.chainSerial != 0 then .next (s.status world 1)
  else
    .next ((s.modWorld world fun w =>
      { w with meters := (List.range 16).map (fun m => (m, values.getD m 0)), chainIndex := 0, lastStatement := last, nextFlags := flReplacement }).status world 0)

/-! ### Seals of the package controller's own (R370, R371; log 58, DEDUCED) -/

/-- A request of the package controller to seal or unseal a workgroup: no strand issued it and no area holds its image. -/
def State.silentReq (s : State) (w : Workgroup) (isUnseal : Bool) : SealReq :=
  { info := { OpInfo.none with id := s.nextId, core := 768, wg := s.nextId }, isUnseal := isUnseal, block := 0, world := w.world, queue := w.queue,
    seq := w.seq, wgIndex := w.index, flags := 0, area := 0, cluster := 0xFFFF, grace := 0, wg := 0, endedBy := none, stage := .verify,
    since := s.ns, bytes := 0, rows := [], silent := true }

/-- Seal every running workgroup of a world (R370; log 58, DEDUCED). -/
def State.sealWorld (s : State) (world : Nat) : State :=
  (s.wgs.filter fun w => w.world == world && w.state == .running).foldl (fun (s : State) w => s.bumpId.startSeal (s.silentReq w false)) s

/-- Unseal the workgroups of a world that a migration sealed (R371). -/
def State.unsealWorld (s : State) (world : Nat) : State :=
  ((s.images.filter fun m => m.wg.world == world && m.area == 0 && !m.discarded).map (·.wg)).foldl
    (fun (s : State) w => s.bumpId.startUnseal (s.silentReq w true)) s

/-- Such a seal is still in progress. -/
def State.sealing (s : State) (world : Nat) : Bool := s.seals.any fun q => q.silent && q.world == world

/-- Every workgroup of the world is sealed. -/
def State.allSealed (s : State) (world : Nat) : Bool := s.wgs.all fun g => g.world != world || g.state == .sealed

/-! ### Migration at the source (R370, R371) -/

/-- The data of a slice, relative to its first byte. -/
def State.sliceData (s : State) (key sid : Nat) : Memory :=
  let base := plaOf key sid 0 0 0 0 * 128
  (s.dram.filter fun c => base ≤ c.1 && c.1 < base + 2 ^ 28).map fun c => (c.1 - base, c.2)

/-- The data of a system page, relative to its first byte. -/
def State.pageData (s : State) (frame : Nat) : Memory :=
  let base := frame * Config.pageBytes
  (s.sysmem.filter fun c => base ≤ c.1 && c.1 < base + Config.pageBytes).map fun c => (c.1 - base, c.2)

/-- Poisoned lines of a slice and poisoned units of a page, relative to their first. -/
def State.slicePoison (s : State) (key sid : Nat) : List Nat := (s.poisonLines.filter fun l => sliceOfPla l == (key, sid)).map (· % 2 ^ 21)
def State.pagePoison (s : State) (frame : Nat) : List Nat := (s.sysPoison.filter fun u => u / 32768 == frame).map (· % 32768)

/-- What the source sends (R370). -/
def State.transferOf (s : State) (world : Nat) (statement : List Byte) : Transfer :=
  let w := s.worldAt world
  { source := world, foreign := false, stage := .sent, world := w, statement := statement
    wgs := s.wgs.filter fun g => g.world == world
    images := s.images.filter fun m => m.wg.world == world
    launches := s.launches.filter fun l => l.world == world
    pages := w.pages.map fun p => (p.1, s.pageData p.2.frame)
    slices := w.slices.map fun x => (x.1, s.sliceData (pcKey x.2.1 x.2.2.1) x.2.2.2)
    pagePois := w.pages.map fun p => (p.1, s.pagePoison p.2.frame)
    slicePois := w.slices.map fun x => (x.1, s.slicePoison (pcKey x.2.1 x.2.2.1) x.2.2.2) }

/-- With every workgroup sealed, and no slice of the world to be refilled, the meters are frozen, a FROZEN statement is signed, no earlier than 1 s after the last, and the state is sent (R366, R369, R370; log 58, DEDUCED). -/
def State.finishQuiesce (s : State) (world : Nat) : State :=
  if !s.allSealed world || s.statementEarly world || s.filling.any (fun f => f.1 == world) then s
  else
    let n := s.freeRecord 16
    let p := (n.2.modWorld world fun w => { w with metersFrozen := true, migration := .quiesced }).signStatement world flFrozen n.1
    { p.2 with transfers := p.2.transfers ++ [p.2.transferOf world p.1] }.status world 0

/-- MIGRATION_QUIESCE: taken up, it seals every workgroup of the world; taken up again it goes on when they are sealed. With the tree exhausted it is refused before anything is sealed (R358, R370; log 58, DEDUCED). -/
def execMigrationQuiesce (world : Nat) (permitOk : Bool) (s : State) : Out State :=
  let w := s.worldAt world
  if !(isVf world && s.dstat == 5 && w.tdisp == .run) then .next s
  else if w.migration == .quiescing then .next (s.finishQuiesce world)
  else if w.migration != .none then .next s
  else if !permitOk || hssTree ≤ s.hssLeaves then .next (s.status world 1)
  else .next (((s.modWorld world fun w => { w with migration := .quiescing }).sealWorld world).finishQuiesce world)

/-- The transfers of a source of this part that are under way. -/
def Transfer.ofSource (t : Transfer) (world : Nat) : Bool := t.source == world && !t.foreign && (match t.stage with
  | .sent | .taken _ => true
  | .erased _ | .over => false)

/-- A source erases its keys: "confirm" is sent to the world that took its transfer up (R370). -/
def Transfer.confirmed (t : Transfer) : Transfer :=
  { t with stage := match t.stage with
      | .taken w => .erased (some w)
      | .sent => .erased none
      | x => x }

/-- Change the transfers of a source that are under way. -/
def State.modTransfers (s : State) (world : Nat) (f : Transfer → Transfer) : State :=
  { s with transfers := s.transfers.map fun t => if t.ofSource world then f t else t }

/-- A source takes its world back: what it sent will not be confirmed (R371). -/
def State.withdrawTransfers (s : State) (world : Nat) : State := s.modTransfers world fun t => { t with stage := .over }

/-- MIGRATION_ERASE: the acknowledgement verifies; the world's keys are erased and "confirm" is sent (R357, R359, R370). -/
def execMigrationErase (world : Nat) (ackOk : Bool) (s : State) : Out State :=
  if !(isVf world && s.inRun world && (s.worldAt world).migration == .quiesced && ackOk) then .next s
  else .next ((((s.destroyWorld world).modWorld world fun w => { w with migration := .erased }).modTransfers world Transfer.confirmed).status world 0)

/-- The source goes on with its world, and says so in its next statement (R371). -/
def State.resume (s : State) (world : Nat) : State :=
  ((s.withdrawTransfers world).modWorld world fun w =>
    { w with migration := .none, metersFrozen := false, nextFlags := w.nextFlags ||| flResumed }).unsealWorld world

/-- The transfer that a world holds is given up. -/
def State.dropTaken (s : State) (world : Nat) : State :=
  { s with transfers := s.transfers.map fun t => if t.stage == .taken world || t.stage == .erased (some world) then { t with stage := .over } else t }

/-- The source of the transfer that a world holds has erased its keys. -/
def State.sourceErased (s : State) (world : Nat) : Bool := s.transfers.any fun t => t.stage == .erased (some world)

/-- The function takes the commands of a world that is held in ARMED: where the arm was accepted (R355, R357; log 58, DEDUCED). -/
def State.armOpen (s : State) (world : Nat) : Bool :=
  isVf world && s.dstat == 5 && ((s.worldAt world).tdisp == .locked || (s.worldAt world).tdisp == .run)

/-- MIGRATION_ABORT: the source unfreezes and unseals, and goes on with a statement flagged RESUMED; a destination whose acknowledgement was not received discards the world, which it keeps once the source has erased its keys (R357, R371; log 58, DEDUCED). -/
def execMigrationAbort (world : Nat) (s : State) : Out State :=
  match (s.worldAt world).migration with
  | .quiescing => if s.sealing world || !s.inRun world then .next s else .next ((s.resume world).status world 0)
  | .quiesced => if s.inRun world then .next ((s.resume world).status world 0) else .next s
  | .armed _ =>
    if s.sourceErased world || !s.armOpen world then .next s
    else .next (((s.destroyWorld world).modWorld world fun w =>
      { w with migration := .none, metersFrozen := false, meters := [], escrow := none, pwctl := w.pwctl &&& 0x7FFFFFFFFFFFFFFF }).dropTaken world)
  | _ => .next s

/-! ### Migration at the destination (R370, R371) -/

/-- Every page and slice of the transfer has its place here. -/
def World.roomFor (w : World) (t : Transfer) : Bool :=
  (t.pages.all fun p => (SMap.find w.pages p.1).isSome) && t.slices.all fun x => (SMap.find w.slices x.1).isSome

/-- What is sent would lower a meter of the world here (R365). -/
def World.lowered (w : World) (t : Transfer) : Bool := w.meters.any fun m => (SMap.get t.world.meters 0 m.1).toNat < m.2.toNat

/-- Write cells from a base up. -/
def Memory.place (m : Memory) (base : Nat) (cells : Memory) : Memory := cells.foldl (fun (m : Memory) c => Memory.write m (base + c.1) c.2) m

/-- Fresh keys for a world: its slices are filled under them, what its pages held cannot be decrypted, and its free clusters take the new KS (R88, R101, R359, R370). -/
def State.freshKeys (s : State) (world : Nat) : State :=
  let s1 := { s.modWorld world (fun w => { w with keyGen := s.drbg + 1, born := s.drbg + 1 }) with drbg := s.drbg + 1 }
  let w := s1.worldAt world
  let s2 := w.sliceKeys.foldl (fun (s : State) k => s.fillSlice k.1 k.2) s1
  let s3 := w.pages.foldl (fun (s : State) (p : Nat × Page) => s.ownFrame world p.1 p.2.frame) s2
  (w.clusters.filter s3.clusterEmpty).foldl (fun (s : State) k => s.scrubCluster k world) s3

/-- Write a page that was sent to its place. -/
def State.placePage (s : State) (frame : Nat) (cells : Memory) (pois : List Nat) : State :=
  let base := frame * Config.pageBytes
  { s with
    sysmem := Memory.place (Memory.clear s.sysmem base Config.pageBytes) base cells
    sysBad := s.sysBad.filter fun u => u / 32768 != frame
    sysPoison := (s.sysPoison.filter fun u => u / 32768 != frame) ++ pois.map (frame * 32768 + ·) }

/-- Write a slice that was sent to its place, by the rules of a fill (R101, R370). -/
def State.placeSlice (s : State) (key sid : Nat) (cells : Memory) (pois : List Nat) : State :=
  let f := s.fillSlice key sid
  let base := plaOf key sid 0 0 0 0
  { f with dram := Memory.place f.dram (base * 128) cells, poisonLines := f.poisonLines ++ pois.map (base + ·) }

/-- Pages and slices are written to their places (R370). -/
def State.placeData (s : State) (world : Nat) (t : Transfer) : State :=
  let w := s.worldAt world
  let s1 := t.pages.foldl (fun (s : State) p => match SMap.find w.pages p.1 with
    | some e => s.placePage e.frame p.2 (SMap.get t.pagePois [] p.1)
    | none => s) s
  t.slices.foldl (fun (s : State) x => match SMap.find w.slices x.1 with
    | some y => s.placeSlice (pcKey y.1 y.2.1) y.2.2 x.2 (SMap.get t.slicePois [] x.1)
    | none => s) s1

/-- The sealed workgroups, their images and launches, under new numbers. -/
def State.placeWork (s : State) (world : Nat) (t : Transfer) : State :=
  let base := s.nextId
  let launch (id : Nat) : Nat := base + 1 + t.wgs.length + t.launches.findIdx fun l => l.id == id
  let re (g : Workgroup) : Workgroup := { g with world := world, id := base + (t.wgs.findIdx fun h => h.id == g.id), launch := launch g.launch }
  { s with
    nextId := base + t.wgs.length + t.launches.length
    wgs := s.wgs ++ t.wgs.map re
    images := s.images ++ t.images.map fun m => { m with wg := re m.wg }
    launches := s.launches ++ t.launches.map fun l => { l with world := world, id := launch l.id } }

/-- The hash by which a statement is followed in its chain (R369). -/
def statementHash (b : List Byte) : BitVec 256 := sha256 (b.take 3564)

/-- The hash of what was received: the statement, the world's record, its workgroups, images, launches, pages and slices, in an encoding that the manual does not give (R370; log 8, DESIGN CHOICE). -/
def transferHash (t : Transfer) : BitVec 256 := sha256 (Config.wire { t with source := 0, foreign := false, stage := .sent })

/-- The new key set of a world, as the escrow carries it; the manual gives it no layout (R87, R370; log 58, DEDUCED). -/
def World.keySet (w : World) (world : Nat) : List Byte :=
  [keyKX1 world w.keyGen, keyKX2 world w.keyGen, (keyKH world w.keyGen).setWidth 256, keyKM world w.keyGen, keyKS world w.born, keyKB world w.born].flatMap hashBytes

/-- The escrow: the key set under a secret encapsulated to the owner's release key, bound to this device's identity (R370). -/
def World.escrowOf (w : World) (world draw : Nat) : List Byte :=
  let cipher := w.encapsulated draw
  cipher ++ Config.gcmSeal (Config.kemSecret (w.releaseKey.getD []) cipher) 0 (hashBytes Config.deviceIdentity) (w.keySet world)

/-- A world takes what was sent, is held in ARMED, and its new keys are put into escrow (R370). -/
def State.storeTransfer (s : State) (world : Nat) (t : Transfer) : State :=
  let s1 := ((s.freshKeys world).placeData world t).placeWork world t
  { s1 with drbg := s1.drbg + 1 }.modWorld world fun x =>
    { x with
      escrow := some (x.escrowOf world (s1.drbg + 1))
      meters := t.world.meters, bindings := t.world.bindings, chainIndex := t.world.chainIndex, chainSerial := t.world.chainSerial,
      lastStatement := statementHash t.statement, lastBytes := t.statement, epoch := t.world.epoch, shards := t.world.shards,
      manifest := t.world.manifest, domains := t.world.domains, lastQueue := t.world.lastQueue, metersFrozen := true, migration := .armed s.ns }

/-- MIGRATION_ARM: in CONFIG_LOCKED, or in RUN while the world has no workgroup, it takes fresh keys, what was sent is stored and held in ARMED; the acknowledgement, signed with one leaf, carries the hash of what was received and the frozen statement's. With the tree exhausted, or no release key to wrap the escrow to, the arm is refused (R357, R358, R370; log 58, DEDUCED). -/
def execMigrationArm (world image : Nat) (s : State) : Out State :=
  match s.transfers[image]? with
  | none => .next s
  | some t =>
    let w := s.worldAt world
    let idle := w.tdisp == .locked || (w.tdisp == .run && s.wgs.all fun g => g.world != world)
    if !(isVf world && s.dstat == 5 && w.migration == .none && idle && t.stage == .sent && (t.foreign || t.source != world)) then .next s
    else if hssTree ≤ s.hssLeaves || w.releaseKey.isNone || !w.roomFor t || w.lowered t then .next (s.status world 1)
    else .next (({ s.storeTransfer world t with transfers := s.transfers.set image { t with stage := .taken world } }).signedAnswer world (hashBytes (transferHash t) ++ hashBytes (statementHash t.statement)))

/-- The world runs at the destination, one hop further on its chain; the workgroups that the migration sealed are unsealed (R370, R371). -/
def State.runHere (s : State) (world flag : Nat) : State :=
  ((s.dropTaken world).modWorld world fun w =>
    { w with migration := .none, metersFrozen := false, escrow := none, chainIndex := w.chainIndex + 1, chainSerial := 0, nextFlags := flag, tdisp := .run }).unsealWorld world

/-- The source of the transfer that a world holds has erased its keys, or is another device, which alone says so, and the function is not in ERROR, which only a stop leaves: the world may run here (R355, R370, R371). -/
def State.mayRunHere (s : State) (world : Nat) : Bool :=
  (s.sourceErased world || s.transfers.any fun t => t.foreign && t.stage == .taken world) && s.armOpen world

/-- The state of a world of another device arrives, with its frozen statement (R370). -/
def State.transferArrives (s : State) (t : Transfer) : State := { s with transfers := s.transfers ++ [{ t with foreign := true, stage := .sent }] }

/-- MIGRATION_CONFIRM: the source has erased its keys; the escrow is deleted and the world enters RUN (R370, R371). -/
def execMigrationConfirm (world : Nat) (s : State) : Out State :=
  match (s.worldAt world).migration with
  | .armed _ => if s.mayRunHere world then .next (s.runHere world flMigrated) else .next s
  | _ => .next s

/-- ARMED_TIMEOUT: after 60 s the world is in escrow (R371). -/
def execArmedTimeout (world : Nat) (s : State) : Out State :=
  match (s.worldAt world).migration with
  | .armed t => if t + 60000000000 ≤ s.ns then .next (s.modWorld world fun w => { w with migration := .escrow }) else .next s
  | _ => .next s

/-- ESCROW_RELEASE: the release service returns the key set of a world that its source has erased, over the function's SPDM session, and the world runs here, once; it refuses where it has seen a RESUMED statement (R371). -/
def execEscrowRelease (world : Nat) (ok : Bool) (s : State) : Out State :=
  let w := s.worldAt world
  if w.migration == .escrow && w.escrow.isSome && w.session && ok && s.mayRunHere world then .next (s.runHere world flEscrow) else .next s

/-- DRBG_RESEED: every 2^20 requests (R358). -/
def execDrbgReseed (s : State) : Out State := if s.drbgSeed + 2 ^ 20 ≤ s.drbg then .next { s with drbgSeed := s.drbg } else .next s

end Sys2Proof.Machine
end

