-- ==== Sys2Proof/Machine/March.lean ====
section
/-! DEFINITION. The march test of bring-up: the kernel `bootmarch`, its launch on every cluster in a world-0 partition flagged TEST, and what the package controller does with the repair tables (R383, R388, R389). -/

namespace Sys2Proof.Machine

open Sys2Proof

/-! ### The kernel (the listing of 15_programs_streams.md) -/

/-- Source code of a named scalar register (R19). -/
def src (k : Nat) : R5 := BitVec.ofNat 5 (16 + k)

/-- Fields of a scalar syllable over named registers (R18, R19). -/
def sr (d a b : Nat) : SR := { d := BitVec.ofNat 5 d, a := src a, b := src b, c := 0, fn := 0 }
def si (d a imm : Nat) : SI := { d := BitVec.ofNat 5 d, a := src a, imm := BitVec.ofNat 15 imm }
def sl (d : Nat) (imm : Int) : SL := { d := BitVec.ofNat 5 d, imm := BitVec.ofInt 20 imm }

/-- Fields of a vector syllable of type i64 and width 1024 (R20). -/
def vf (vd va vb vc : Nat) : VF :=
  { width := .w1024, dup := false, vd := BitVec.ofNat 5 vd, va := BitVec.ofNat 5 va, vb := BitVec.ofNat 5 vb, vc := BitVec.ofNat 5 vc, ty := .i64 }

/-- A 64-bit atomic on the address in a register (R168). -/
def af (d addr v : Nat) : AtomF := { d := BitVec.ofNat 5 d, addr := src addr, v := src v, c := 0, wide := true }

/-- The code of an atomic's destination that wants no result (R168). -/
def noResult : Nat := 30

/-- Bytes of a bundle of the kernel: its gap, the vector operands a and b that V0 reads, and its syllables (R9, R12, R13, R44). -/
def kernelBundle (gap ports : Nat) (syls : List (Slot × Instr)) : List Byte :=
  let hdr := gap * 2 ^ 27 + (if 1 ≤ ports then 2 ^ 23 else 0) + (if 2 ≤ ports then 2 ^ 21 else 0)
  let syl (sl : Slot) : Syl := ((syls.find? fun p => p.1 == sl).bind fun p => encode sl.cls p.2).getD 0
  leBytes 4 hdr ++ [Slot.s0, .s1, .v0, .v1, .m, .c, .x].flatMap fun sl => leBytes 4 (syl sl).toNat

/-- `bootmarch` up to `ones`: addresses, arguments, the VCTL write and the register test with zeros. -/
def marchHead : List (List Byte) :=
  [kernelBundle 0 0 [(.s0, .li (sl 6 0xFF00)), (.s1, .li (sl 12 2))],
   kernelBundle 0 0 [(.s0, .ptag (si 6 6 (2 ^ 11))), (.s1, .lcat (sl 12 0))],
   kernelBundle 0 0 [(.s1, .lcat (sl 12 0)), (.c, .xcpy { x := src 0, y := src 6, cnt := 1, sync := 0 })],
   kernelBundle 0 0 [(.s0, .shri (si 2 2 2)), (.s1, .lcat (sl 12 0xFFF00))],
   kernelBundle 0 0 [(.s0, .shli (si 14 2 3)), (.s1, .li (sl 13 1)), (.x, .swwait 0 (src 4))],
   kernelBundle 0 0 [(.s0, .add (sr 14 14 6)), (.s1, .shli (si 13 13 63))],
   kernelBundle 0 0 [(.s0, .shli (si 0 2 16)), (.s1, .ldD (si 5 14 0))],
   kernelBundle 6 0 [(.s0, .or (sr 13 13 0)), (.s1, .li (sl 9 1))],
   kernelBundle 0 0 [(.s0, .shl (sr 9 9 2)), (.s1, .li (sl 4 (-1))), (.x, .vctlWrite (src 5))],
   kernelBundle 0 0 [(.s0, .li (sl 3 510)), (.s1, .li (sl 1 16)), (.v0, .vbcst (vf 4 20 0 0))],
   kernelBundle 0 0 [(.s0, .li (sl 5 0)), (.s1, .addi (si 0 12 8)), (.x, .rep 23 1)],
   kernelBundle 0 0 [(.v0, .vbcst (vf 8 21 0 0))],
   kernelBundle 0 0 [(.x, .rep 23 4)],
   kernelBundle 1 2 [(.v0, .vor (vf 1 1 8 0))],
   kernelBundle 9 2 [(.v0, .vcmp (vf 0 1 0 1))],
   kernelBundle 0 0 [(.x, .brcm 2 .i64 2)],
   kernelBundle 0 0 [(.x, .aor (af noResult 0 9))]]

/-- From `ones` to the first element: the register test with ones, and the addresses of the march. -/
def marchOnes : List (List Byte) :=
  [kernelBundle 0 1 [(.v0, .vmov (vf 1 4 0 0)), (.x, .rep 23 1)],
   kernelBundle 0 0 [(.v0, .vbcst (vf 8 20 0 0))],
   kernelBundle 0 0 [(.x, .rep 23 4)],
   kernelBundle 1 2 [(.v0, .vand (vf 1 1 8 0))],
   kernelBundle 9 2 [(.v0, .vcmp (vf 0 1 4 1))],
   kernelBundle 0 0 [(.x, .brcm 2 .i64 2)],
   kernelBundle 0 0 [(.x, .aor (af noResult 0 9))],
   kernelBundle 0 0 [(.s0, .li (sl 7 1)), (.s1, .li (sl 10 0x10000))],
   kernelBundle 0 0 [(.s0, .lcat (sl 7 0)), (.s1, .li (sl 11 1))],
   kernelBundle 0 0 [(.s0, .lcat (sl 7 0)), (.s1, .shli (si 11 11 20))],
   kernelBundle 0 0 [(.s0, .lcat (sl 7 0)), (.s1, .li (sl 2 0x80))],
   kernelBundle 0 1 [(.s0, .sub (sr 11 2 11)), (.s1, .li (sl 4 0)), (.v0, .vmov (vf 3 0 0 0))]]

/-- The six elements of March C−. -/
def marchElements : List (List Byte) :=
  [kernelBundle 0 0 [(.s0, .li (sl 5 1)), (.s1, .li (sl 9 0)), (.x, .call 28)],
   kernelBundle 0 1 [(.s0, .li (sl 4 1)), (.s1, .li (sl 9 1)), (.v0, .vmov (vf 3 4 0 0))],
   kernelBundle 0 0 [(.x, .call 26)],
   kernelBundle 0 1 [(.s1, .li (sl 9 2)), (.v0, .vmov (vf 2 4 0 0))],
   kernelBundle 0 1 [(.v0, .vmov (vf 3 0 0 0)), (.x, .call 24)],
   kernelBundle 0 0 [(.s0, .li (sl 7 1)), (.s1, .li (sl 10 (-0x10000)))],
   kernelBundle 0 0 [(.s0, .lcat (sl 7 0)), (.s1, .li (sl 2 0))],
   kernelBundle 0 0 [(.s0, .lcat (sl 7 0)), (.s1, .sub (sr 11 2 11))],
   kernelBundle 0 1 [(.s0, .lcat (sl 7 0xFFE80)), (.s1, .li (sl 9 3)), (.v0, .vmov (vf 2 0 0 0))],
   kernelBundle 0 1 [(.v0, .vmov (vf 3 4 0 0)), (.x, .call 19)],
   kernelBundle 0 1 [(.s1, .li (sl 9 4)), (.v0, .vmov (vf 2 4 0 0))],
   kernelBundle 0 1 [(.v0, .vmov (vf 3 0 0 0)), (.x, .call 17)],
   kernelBundle 0 1 [(.s0, .li (sl 5 0)), (.s1, .li (sl 9 5)), (.v0, .vmov (vf 2 0 0 0))],
   kernelBundle 0 0 [(.x, .call 15)]]

/-- The summary of rank 0 and the copy of the table. -/
def marchSummary : List (List Byte) :=
  [kernelBundle 0 0 [(.x, .phase)],
   kernelBundle 0 0 [(.x, .sysr 2 0x001)],
   kernelBundle 0 0 [(.x, .brnz (src 2) 11)],
   kernelBundle 0 0 [(.s0, .li (sl 5 0)), (.s1, .addi (si 0 12 8))],
   kernelBundle 0 0 [(.x, .aor (af 4 12 5))],
   kernelBundle 0 0 [(.x, .aor (af 7 0 5))],
   kernelBundle 0 0 [(.s0, .shli (si 14 4 32)), (.s1, .or (sr 2 4 7))],
   kernelBundle 0 0 [(.s0, .or (sr 14 14 7)), (.s1, .sltu (sr 2 5 2))],
   kernelBundle 0 0 [(.s0, .shli (si 2 2 63)), (.s1, .addi (si 0 12 0x10))],
   kernelBundle 7 0 [(.s0, .or (sr 14 14 2)), (.s1, .ldD (si 8 6 0x60))],
   kernelBundle 0 0 [(.x, .aswp (af noResult 0 14))],
   kernelBundle 0 0 [(.s0, .ptag (si 9 12 (2 ^ 11))), (.x, .xfence 64 8)],
   kernelBundle 0 0 [(.c, .xcpy { x := src 9, y := src 8, cnt := 3, sync := 15 })],
   kernelBundle 0 0 [(.x, .endStrand)]]

/-- `elem`: one element of March C−, over 510 offsets and 16 banks. -/
def marchElem : List (List Byte) :=
  [kernelBundle 0 0 [(.s0, .mov { sr 8 7 0 with b := 0 })],
   kernelBundle 0 0 [(.x, .loop (src 3) 16)],
   kernelBundle 0 0 [(.x, .loop (src 1) 14)],
   kernelBundle 0 0 [(.x, .brz (src 4) 11)],
   kernelBundle 7 0 [(.v0, .vld (vf 1 24 0 0))],
   kernelBundle 9 2 [(.v0, .vcmp (vf 0 1 2 1))],
   kernelBundle 0 0 [(.s0, .shri (si 14 8 8)), (.s1, .shli (si 0 9 24)), (.x, .brcm 2 .i64 8)],
   kernelBundle 0 0 [(.s0, .andi (si 14 14 0xFFF)), (.s1, .or (sr 0 0 13))],
   kernelBundle 0 0 [(.s0, .or (sr 14 14 0)), (.s1, .li (sl 2 1))],
   kernelBundle 0 0 [(.x, .aadd (af 0 12 2))],
   kernelBundle 0 0 [(.s0, .shli (si 2 0 3)), (.s1, .sltui (si 0 0 29))],
   kernelBundle 0 0 [(.s0, .addi (si 2 2 0x18)), (.x, .brz (src 0) 3)],
   kernelBundle 0 0 [(.s0, .add (sr 2 2 12))],
   kernelBundle 0 0 [(.x, .aswp (af noResult 2 14))],
   kernelBundle 0 0 [(.x, .brz (src 5) 2)],
   kernelBundle 0 1 [(.v0, .vst (vf 3 24 0 0))],
   kernelBundle 0 0 [(.s0, .add (sr 8 8 10))],
   kernelBundle 0 0 [(.s0, .add (sr 8 8 11))],
   kernelBundle 0 0 [(.x, .ret)]]

/-- The code image of `bootmarch`. -/
def marchImage : List Byte := (marchHead ++ marchOnes ++ marchElements ++ marchSummary ++ marchElem).flatten

/-! ### The runs (R383, R388; log 59, DESIGN CHOICE) -/

/-- The compute die of a cluster (R257). -/
def dieOfCluster (k : Nat) : Nat := k / 32

/-- The pages in which the firmware places the image, the arguments and the tables for the clusters of a die, from the start of the system window on. -/
def marchPage (die i : Nat) : Nat := 3 * die + i
def marchVa (die i : Nat) : Nat := 2 ^ 52 + marchPage die i * Config.pageBytes

/-- Their frames: the first of the remainder of the die's first stack, since the die bridge is not trained yet (R257, R383). -/
def marchFrame (die i : Nat) : Nat := 16384 * die + 2048 + i

/-- Bytes of a cluster's arguments, and of its table (R388). -/
def marchArgBytes : Nat := 128
def marchTableBytes : Nat := 256

/-- Byte of system memory at which a cluster's table stands. -/
def marchTableAt (k : Nat) : Nat := marchFrame (dieOfCluster k) 2 * Config.pageBytes + marchTableBytes * k

/-- The arguments of a cluster: VCTL of each rank, the address of its table, and the pad. -/
def marchArgs (k : Nat) (vctl : List Word) : List Byte :=
  ((List.range 12).flatMap fun r => leBytes 8 (vctl.getD r 0).toNat) ++ leBytes 8 (marchVa (dieOfCluster k) 2 + marchTableBytes * k) ++ List.replicate 24 0

/-- The launch of `bootmarch` on a cluster: one workgroup of twelve cores, one strand each, profile G, SYNC[0] at byte 0xFF00 of bank 1 with a target of 128; no queue of the host holds it. -/
def marchLaunch (k cores : Nat) : Launch :=
  { id := 0, world := 0, queue := 8, seq := k, priority := 0, domain := 0, cmin := 0, cmax := 64, target := 0, allowance := 0, barrier := false, after := none,
    kernel := word (marchVa (dieOfCluster k) 0), code := marchImage.length, grid := 1, cores := cores, strands := 1, mprof := 0x47, chans := [], cstride := 0,
    setup := [(4, 0, word (128 * 2 ^ 32 + 1 * 2 ^ 16 + 0xFF00))], args := word (marchVa (dieOfCluster k) 1 + marchArgBytes * k), measure := 0,
    next := 0, done := 0, ended := 0, faultCode := none, killed := false, budget := false, charge := 0, faults := 0, grains := 0, start := 0,
    failed := none, cut := false, codeFrames := [] }

/-- VCTL arguments of a cluster, by rank. -/
def marchVctl (args : List (Nat × Nat × Word)) (k : Nat) : List Word :=
  (List.range 12).map fun r => ((args.find? fun a => a.1 == k && a.2.1 == r).map (·.2.2)).getD 0

/-- The march starts on a cluster, on its cores that are not fenced. -/
def State.marchOn (s : State) (m : March) (k : Nat) (vctl : List Word) : State × March :=
  let cores := s.freeRanks (s.worldAt 0) k
  if cores.isEmpty then (s, m)
  else
    let s1 := s.putSys (marchFrame (dieOfCluster k) 1 * Config.pageBytes + marchArgBytes * k) (marchArgs k vctl) false
    let s2 := s1.putSys (marchTableAt k) (List.replicate marchTableBytes 0) false
    (s2.startWg (marchLaunch k cores.length) k cores, { m with runs := m.runs ++ [{ cluster := k, wg := s2.nextId, cores := cores, vctl := vctl }] })

/-- World 0, which exists without a write of EN, has its keys drawn when it first needs them: as the march makes its partition (R87, R358; log 113, DESIGN CHOICE). -/
def State.drawWorld0 (s : State) : State :=
  { s.modWorld 0 (fun w => { w with keyGen := s.drbg + 1, born := s.drbg + 1 }) with drbg := s.drbg + 1 }

/-- The firmware maps and writes the pages of a die. -/
def State.marchPages (s : State) (die : Nat) : State :=
  ((List.range 3).foldl (fun (s : State) i => s.mapPage 0 (marchPage die i) (some (marchFrame die i)) false) s).putSys
    (marchFrame die 0 * Config.pageBytes) marchImage false

/-- The march starts on every cluster: the firmware makes a world-0 partition of them, flagged TEST and unprotected, scrubbed and with world 0's key in their slots, and places the kernel and its arguments (R88, R383). -/
def State.startMarch (s : State) (args : List (Nat × Nat × Word)) : State :=
  let m : March := { runs := [], part := (s.worldAt 0).pwpart }
  let s1 := [0, 1].foldl State.marchPages s.drawWorld0
  let s2 := (List.range 64).foldl (fun (s : State) k => s.scrubCluster k 0) (s1.modWorld 0 fun w =>
    { w with pwpart := BitVec.allOnes 64, pwctl := (w.pwctl ||| ((1 : Word) <<< 62)) &&& ~~~((1 : Word) <<< 61) })
  let r := (List.range 64).foldl (fun (r : State × March) k => r.1.marchOn r.2 k (marchVctl args k)) (s2, m)
  { r.1 with march := some r.2 }

/-- Every run has ended. -/
def State.marchOver (s : State) (m : March) : Bool := m.runs.all fun r => (s.wgAt r.wg).isNone

/-! ### The tables (R388, R389) -/

/-- The 32 doublewords of a cluster's table. -/
def State.marchTable (s : State) (k : Nat) : List Word :=
  (List.range 32).map fun i => word (leNat (Memory.readN s.sysmem (marchTableAt k + 8 * i) 8))

/-- Failing scratchpad rows that a table names, by core and its first line: rank, bank and offset bits [15:8] of its entries (R388). -/
def tableRows (cores : List Nat) (table : List Word) : List (Nat × Nat) :=
  (((table.drop 3).filter fun e => e.getLsbD 63).map fun e =>
    (cores.getD (Word.field e 16 4) 768, Word.field e 8 4 * 1024 + Word.field e 0 8 * 4)).eraseDups

/-- Cores whose register test failed: regmask (R388). -/
def tableCores (cores : List Nat) (table : List Word) : List Nat := (cores.zipIdx.filter fun p => (table.getD 1 0).getLsbD p.2).map (·.1)

/-- The package controller acts on a table: the four lines of each failing row go to spares, the core being fenced where there is none left, and cores whose registers fail are fenced (R346, R389; log 59, DESIGN CHOICE). -/
def State.actOnTable (s : State) (cores : List Nat) (table : List Word) : State :=
  let s1 := (tableRows cores table).foldl (fun (s : State) r =>
    (List.range 4).foldl (fun (s : State) i => s.spareLine r.1 (2 + 8 * Word.field (locLine r.1 ((r.2 + i) * 64)) 0 28) (r.2 + i)) s) s
  { s1 with fenced := s1.fenced ++ (tableCores cores table).filter fun c => !s1.fenced.contains c }

/-- A run that enables Vetiver on no rank: its table is acted on (R389). -/
def MarchRun.plain (r : MarchRun) : Bool := r.vctl.all (· == 0)

/-- Elements of March C− that expect zeros (false), or ones (true). -/
def marchReads (ones : Bool) : List Nat := if ones then [2, 4] else [1, 3, 5]

/-- The entries that a rank's injection makes it report, in order. A stuck bit in the bytes under test fails every element that expects its opposite; a single wrong bit is corrected, and an accumulator or a lockstep cycle takes no part in the march. None is given for an injection that faults, or that acts on the march's own arguments, word or table (R349, R388, R389; log 59, DESIGN CHOICE). -/
def rankEntries (rank : Nat) (v : Word) : Option (List Word) :=
  if !vctlEn v || vctlTgt v == 0 || vctlTgt v == 2 || vctlTgt v == 4 then some []
  else if vctlTgt v == 5 && vctlArg v < 2 ^ 24 && vctlArg v % 65536 < 0xFF00 then
    some ((marchReads (vctlArg v / 2 ^ 23 == 0)).map fun m =>
      word (2 ^ 63 + m * 2 ^ 24 + rank * 2 ^ 16 + vctlArg v / 65536 % 16 * 2 ^ 8 + vctlArg v % 65536 / 256))
  else none

/-- The entries that a run's injections make each of its ranks report. -/
def MarchRun.entries (r : MarchRun) : Option (List (List Word)) := (List.range r.cores.length).mapM fun k => rankEntries k (r.vctl.getD k 0)

/-- A table is one that the ranks' entries make: they interleave, those of one rank in its order, and from the thirtieth on they are counted alone (R143, R170, R388, R389). -/
def tablePredicted (ranks : List (List Word)) (table : List Word) : Bool :=
  let n := (ranks.map List.length).foldl (· + ·) 0
  let kept := Nat.min n 29
  let written := (table.drop 3).take kept
  table.take 3 == [word n, 0, if n == 0 then 0 else word (2 ^ 63 + n * 2 ^ 32)]
    && (table.drop (3 + kept)).all (· == 0) && table.length == 32 && written.length == kept
    && ranks.zipIdx.all (fun p => (written.filter fun e => Word.field e 16 4 == p.2).isPrefixOf p.1)
    && written.all fun e => ranks.any fun r => r.contains e

/-- A run's table is judged: one of a Vetiver run is compared with the table that its injections predict, and spares nothing; answers whether the cluster passes. Where the rules of R388 do not give a table in closed form, the firmware's prediction is its own (R389; log 59, DESIGN CHOICE). -/
def State.judgeRun (s : State) (predicted : List (Nat × List Word)) (r : MarchRun) : State × Bool :=
  let table := s.marchTable r.cluster
  if r.plain then (s.actOnTable r.cores table, true)
  else match r.entries with
  | some ranks => (s, tablePredicted ranks table)
  | none => (s, (predicted.find? fun p => p.1 == r.cluster).map (·.2) == some table)

/-- The firmware's pages, its partition and its TEST flag go when the march is over (R383). -/
def State.clearMarch (s : State) (m : March) : State :=
  { s.modWorld 0 (fun w =>
      { w with
        pages := (List.range 6).foldl SMap.erase w.pages, live := (List.range 6).foldl SMap.erase w.live
        pwpart := m.part, pwctl := w.pwctl &&& ~~~((1 : Word) <<< 62), lastQueue := none, finishedAt := [] }) with
    march := none }

/-- The tables of all runs are judged; answers whether every cluster passes step 4 of bring-up (R383, R389). -/
def State.judgeMarch (s : State) (m : March) (predicted : List (Nat × List Word)) : State × Bool :=
  m.runs.foldl (fun (p : State × Bool) r =>
    let q := p.1.judgeRun predicted r
    (q.1, p.2 && q.2)) (s.clearMarch m, true)

end Sys2Proof.Machine
end

