-- ==== Sys2Proof/Machine/Power.lean ====
section
/-! DEFINITION. The Cellar mailbox, power, service life, the patrol of the system channels and bring-up (R71, R342, R379 to R383, R389). -/

namespace Sys2Proof.Machine

open Sys2Proof

/-! ### The mailbox (R379; log 61, DESIGN CHOICE) -/

/-- MBSTAT.BUSY: a command is in progress. -/
def State.mbBusy (s : State) : Bool := s.mbStat.getLsbD 63

/-- Command and stack that MBCMD holds. -/
abbrev mbCommand (v : Word) : Nat := Word.field v 0 16
abbrev mbStack (v : Word) : Nat := Word.field v 16 4

/-- A command of a stack is in progress, and the mailbox answers: in RECOVERY to command 3 alone (R379, R383). -/
def State.mbRuns (s : State) (cmd stack : Nat) : Bool :=
  s.mbBusy && mbCommand s.mbCmd == cmd && mbStack s.mbCmd == stack && (s.dstat != 15 || cmd == 3)

/-- A command ends: BUSY falls, and the status is one that the manual does not give. -/
def State.mbEnd (s : State) : State :=
  let st := s.free
  { st.2 with mbStat := st.1 &&& 0xFF }

/-- A read ends with its payload, in which the values stand in a layout that the manual does not give. -/
def State.mbRead (s : State) (cmd : Nat) (values : List Nat) : State :=
  { s.mbEnd with mbPayload := (List.range 256).map (Config.mailboxWord cmd values) }

/-- Numbers of a sparse map. -/
def mapWords (m : SMap Nat) : List Nat := m.flatMap fun x => [x.1, x.2]

/-- READ_TELEMETRY ends: the Hearth's grants, clocks, activities and floors, and a free word for the temperatures, currents and margins (R379, R380; log 61, DESIGN CHOICE). -/
def execReadTelemetry (stack : Nat) (s : State) : Out State :=
  let f := s.free
  if s.mbRuns 1 stack then
    .next (f.2.mbRead 1 (stack :: s.grantedAt :: f.1.toNat :: [s.watts, s.clocks, s.activity, s.floors].flatMap mapWords))
  else .next s

/-- READ_REPAIR_INVENTORY ends: repaired rows, spare lines in use and fenced cores (R346, R379). -/
def execReadRepairInventory (stack : Nat) (s : State) : Out State :=
  if s.mbRuns 2 stack then
    .next (s.mbRead 2 (stack :: (s.repaired.filter fun r => r.1 / 4096 == stack).flatMap (fun r => [r.1, r.2]) ++ mapWords s.spares ++ s.fenced))
  else .next s

/-- An entry of the ageing record as numbers. -/
def Aged.words : Aged → List Nat
  | .cluster k mhz => [0, k, mhz]
  | .channel key ok => [1, key, if ok then 1 else 0]

/-- READ_AGEING_RECORD ends: the re-plans so far (R379, R382). -/
def execReadAgeingRecord (stack : Nat) (s : State) : Out State :=
  if s.mbRuns 4 stack then .next (s.mbRead 4 (stack :: s.ageing.flatMap Aged.words)) else .next s

/-- STAGE_FIRMWARE_IMAGE ends: the image is kept, with what its verification at the next reset will find (R379, R383; log 59, DESIGN CHOICE). -/
def execStageFirmwareImage (verifies : Bool) (s : State) : Out State :=
  if s.mbBusy && mbCommand s.mbCmd == 3 then .next { s.mbEnd with staged := some verifies } else .next s

/-- MBCMD is written: a command starts; while one is in progress the write is ignored and logged, by a record that the manual does not give; a command that is none of the four ends at once (R379, R383; log 61, DESIGN CHOICE). -/
def State.writeMbcmd (s : State) (v : Word) : State :=
  let cmd := mbCommand v
  if s.mbBusy then
    let f := s.free
    { f.2 with pfEvents := s.pfEvents ++ [leBytes 8 f.1.toNat ++ leBytes 8 v.toNat ++ List.replicate 16 0] }
  else if s.dstat == 15 && cmd != 3 then s
  else
    let s1 := { s with mbCmd := v &&& 0xFFFFF, mbStat := word (2 ^ 63) }
    if 1 ≤ cmd && cmd ≤ 4 then s1 else s1.mbEnd

/-! ### Power (R380, R381) -/

/-- Nominal and floor clock in MHz, and the time between two rounds of grants in ns (R3, R380). -/
abbrev nominalMhz : Nat := 1300
abbrev floorMhz : Nat := 400
abbrev grantPeriod : Nat := 1000

/-- Watts that a cluster holds before the Hearth has granted it any: an equal share of the budget (R380; log 90, DESIGN CHOICE). -/
def shareWatts : Nat := powerBudget / 64

/-- Greatest clock of a cluster, where a re-plan has not lowered it the nominal one (R382). -/
def State.topMhz (s : State) (k : Nat) : Nat := SMap.get s.maxClock nominalMhz k

/-- Clock of a cluster in force: its greatest until the Hearth has stretched it (R3, R380, R382). -/
def State.clockMhz (s : State) (k : Nat) : Nat := SMap.get s.clocks (s.topMhz k) k

/-- Watts granted to a cluster (R380). -/
def State.wattsOf (s : State) (k : Nat) : Nat := SMap.get s.watts shareWatts k

/-- Watts that all clusters hold. -/
def State.wattsHeld (s : State) : Nat := ((List.range 64).map s.wattsOf).foldl (· + ·) 0

/-- The clock at which a cluster of an activity, in watts per 1,000 MHz, stays within a grant: stretched, not below the floor, and never above its greatest (R380; log 90, DESIGN CHOICE). -/
def grantedMhz (watts activity top : Nat) : Nat := if activity == 0 then top else Nat.max floorMhz (Nat.min top (watts * 1000 / activity))

/-- The cluster's clock follows from its grant, its activity and its greatest clock (R380, R382). -/
def State.stretch (s : State) (k : Nat) : State :=
  { s with clocks := SMap.set s.clocks k (grantedMhz (s.wattsOf k) (SMap.get s.activity 0 k) (s.topMhz k)) }

/-- One cluster's grant (R380, R381). -/
def State.grantCluster (s : State) (g : Grant) : State :=
  { s with
    watts := SMap.set s.watts g.cluster g.watts
    activity := SMap.set s.activity g.cluster g.activity
    floors := SMap.set s.floors g.cluster g.floor }.stretch g.cluster

/-- HEARTH_GRANT: every 1 µs the Hearth grants each cluster a share of the budget of 2,400 W, by its activity of the last microsecond; a cluster that the round does not name is granted what it holds. Before the march of bring-up no cluster is active (R380, R381, R383; log 90, DESIGN CHOICE). -/
def execHearthGrant (grants : List Grant) (s : State) : Out State :=
  let t := grants.foldl State.grantCluster s
  if s.dstat < 3 || 5 < s.dstat || s.ns < s.grantedAt + grantPeriod || grants.any (fun g => 64 ≤ g.cluster) || powerBudget < t.wattsHeld then .next s
  else .next { t with grantedAt := s.ns }

/-! ### Service life (R382) -/

/-- Package time within which voltage is planned anew: 24 hours, in ns (R382). -/
abbrev planPeriod : Nat := 86400000000000

/-- VOLTAGE_REPLAN: a cluster without workgroups has its voltage planned anew; its greatest clock may come out lower, which lasts and is recorded; below the floor the cluster is fenced (R346, R382). -/
def execVoltageReplan (cluster slower : Nat) (s : State) : Out State :=
  let cores := (List.range 12).map fun i => cluster * 12 + i
  if 64 ≤ cluster || !s.clusterEmpty cluster then .next s
  else
    let top := Nat.min slower (s.topMhz cluster)
    .next ({ s with
      ageing := s.ageing ++ [Aged.cluster cluster top]
      maxClock := SMap.set s.maxClock cluster top
      plannedAt := SMap.set s.plannedAt cluster s.ns
      fenced := if slower < floorMhz then s.fenced ++ cores.filter (fun c => !s.fenced.contains c) else s.fenced }.stretch cluster)

/-- Voltage is planned anew for a PC that no workgroup owns: it is recorded, and a PC that cannot meet profile G is to be retired (R81, R382). -/
def State.replanPc (s : State) (stack pc : Nat) (meets : Bool) : State :=
  let key := pcKey stack pc
  if 8 ≤ stack || 64 ≤ pc || (s.pcAt key).owner.isSome then s
  else
    let s1 := { s with ageing := s.ageing ++ [Aged.channel key meets], pcPlannedAt := SMap.set s.pcPlannedAt key s.ns }
    if meets then s1 else s1.andThen (execChannelRetirement stack pc)

/-- The re-plans of a reset: every cluster, and every PC (R382). -/
def State.replanAll (s : State) (slower : List (Nat × Nat)) (weak : List Nat) : State :=
  let s1 := (List.range 64).foldl (fun (s : State) k =>
    s.andThen (execVoltageReplan k (((slower.find? fun p => p.1 == k).map (·.2)).getD (s.topMhz k)))) s
  (List.range 512).foldl (fun (s : State) key => s.replanPc (key / 64) (key % 64) (!weak.contains key)) s1

/-- Entries of a list of times that lie 24 hours back. -/
def State.overdue (s : State) (planned : SMap Nat) : List Nat := (planned.filter fun p => p.2 + planPeriod ≤ s.ns).map (·.1)

/-- What has not been planned for 24 hours is planned anew, with the result that it had: clusters that hold no workgroup, and PCs that no workgroup owns (R382; log 90, DESIGN CHOICE). -/
def State.replanDue (s : State) : State :=
  let s1 := (s.overdue s.plannedAt).foldl (fun (s : State) k => s.andThen (execVoltageReplan k (s.topMhz k))) s
  (s.overdue s.pcPlannedAt).foldl (fun (s : State) key => s.replanPc (key / 64) (key % 64) true) s1

/-! ### The patrol of the system channels (R342) -/

/-- A line lies in a system channel of a stack (R46, R48). -/
def systemChannel (stack pla : Nat) : Bool := pla / 2 ^ 29 == stack && 56 ≤ pla / 2 ^ 23 % 64

/-- SYSTEM_CHANNEL_PATROL: the base die finds the next errors of a stack's system channels, counts them and corrects those of one bit (R71, R342, R343). -/
def execSystemChannelPatrol (stack errors : Nat) (s : State) : Out State :=
  let found := (s.dramErrs.filter fun e => systemChannel stack e.1).take errors
  .next (found.foldl State.dramError { s with dramErrs := s.dramErrs.filter fun e => !found.contains e || e.2 })

/-! ### Bring-up (R383, R389) -/

/-- The part stops in RECOVERY at a step, where a mailbox command in progress other than 3 ends, since nothing answers it (R379, R383; log 61, DESIGN CHOICE). -/
def State.recover (s : State) (step : Nat) : State :=
  let s1 := if s.mbBusy && mbCommand s.mbCmd != 3 then s.mbEnd else s
  { s1 with dstat := 15, dstatErr := step }

/-- The links train, on all 20 ports; a partner on one of the named ports declines Shenen (R259, R383). -/
def State.trainLinks (s : State) (base : List Nat) : State := (List.range 20).foldl (fun (s : State) p => s.linkTraining p (!base.contains p)) s

/-- KT is drawn (R87, R358, R383). -/
def State.drawKt (s : State) : State := { s with ktDraw := s.drbg + 1, drbg := s.drbg + 1 }

/-- The Cellars' march tests of the stacks find rows, and the march kernel starts on every cluster; when it has ended, its tables decide (R383, R389). -/
def State.marchStep (s : State) (b : BringUp) : State :=
  match s.march with
  | none => (s.repairRows b.rows).startMarch b.vctl
  | some m =>
    if !s.marchOver m then s
    else
      let r := s.judgeMarch m b.predicted
      if r.2 then { r.1 with dstat := 4 } else r.1.recover 4

/-- The next step of bring-up (R382, R383, R389; log 59, DESIGN CHOICE). 0: the boot ROM's check of the package controller's image; 1: the check of the other images, where a staged image that verifies takes over; 2: training, with faulty rows repaired; 3: the march tests; 4: KT, the die bridge, the links and the re-plans of a reset. -/
def State.bringUp (s : State) (b : BringUp) : State :=
  match s.dstat with
  | 0 => if s.sigFail == 1 then s.recover 1 else { s with dstat := 1 }
  | 1 =>
    if s.sigFail == 2 then s.recover 2
    else { s with dstat := 2, bootGen := if s.staged == some true then s.bootGen + 1 else s.bootGen, staged := none }
  | 2 => { s.repairRows b.rows with dstat := 3 }
  | 3 => s.marchStep b
  | 4 => { (s.drawKt.trainLinks b.base).replanAll b.slower b.weak with dstat := 5, bridgeUp := true }
  | _ => s

/-- RESET: the device starts anew with its boot ROM; `sigOk` says whether the signatures that steps 1 and 2 of bring-up check will verify, and a free value which of the two fails. Repairs, fences, spare lines, withdrawals, the ageing record, lowered clocks, a staged image and the HSS index persist, the index in steps of 1,024 (R346, R358, R382, R383; log 8, DESIGN CHOICE; log 59, DESIGN CHOICE; log 60, DEDUCED). -/
def execReset (sigOk : Bool) (s : State) : Out State :=
  let f := s.free
  .next { State.reset with
    turns := s.turns, freeCount := s.freeCount + 1, drbg := s.drbg, drbgSeed := s.drbgSeed
    sigFail := if sigOk then 0 else if f.1.getLsbD 0 then 1 else 2
    staged := s.staged, bootGen := s.bootGen, ktDraw := s.ktDraw
    hssLeaves := (s.hssLeaves + 1023) / 1024 * 1024
    repaired := s.repaired, fenced := s.fenced, spares := s.spares, goneSlices := s.goneSlices, sysMap := s.sysMap, sysOff := s.sysOff
    ageing := s.ageing, maxClock := s.maxClock
    host := s.host, interrupts := s.interrupts, device := s.device, answers := s.answers, transfers := s.transfers }

end Sys2Proof.Machine
end

