-- ==== Sys2Proof/Machine/Dispatch.lean ====
section
/-! DEFINITION. The dispatch: one arm per row of the operation table. -/

namespace Sys2Proof.Machine

open Sys2Proof

def exec (i : Instr) (s : State) : Host.Outcome State Fault Refusal :=
  match i with
  | .nop => Sys2Proof.Machine.execNop s
  | .add f => Sys2Proof.Machine.execAdd f s
  | .sub f => Sys2Proof.Machine.execSub f s
  | .mul f => Sys2Proof.Machine.execMul f s
  | .mulh f => Sys2Proof.Machine.execMulh f s
  | .mulhu f => Sys2Proof.Machine.execMulhu f s
  | .div f => Sys2Proof.Machine.execDiv f s
  | .divu f => Sys2Proof.Machine.execDivu f s
  | .rem f => Sys2Proof.Machine.execRem f s
  | .remu f => Sys2Proof.Machine.execRemu f s
  | .and f => Sys2Proof.Machine.execAnd f s
  | .or f => Sys2Proof.Machine.execOr f s
  | .xor f => Sys2Proof.Machine.execXor f s
  | .shl f => Sys2Proof.Machine.execShl f s
  | .shr f => Sys2Proof.Machine.execShr f s
  | .sra f => Sys2Proof.Machine.execSra f s
  | .rotr f => Sys2Proof.Machine.execRotr f s
  | .min f => Sys2Proof.Machine.execMin f s
  | .max f => Sys2Proof.Machine.execMax f s
  | .minu f => Sys2Proof.Machine.execMinu f s
  | .maxu f => Sys2Proof.Machine.execMaxu f s
  | .seq f => Sys2Proof.Machine.execSeq f s
  | .sne f => Sys2Proof.Machine.execSne f s
  | .slt f => Sys2Proof.Machine.execSlt f s
  | .sltu f => Sys2Proof.Machine.execSltu f s
  | .sel f => Sys2Proof.Machine.execSel f s
  | .clz f => Sys2Proof.Machine.execClz f s
  | .ctz f => Sys2Proof.Machine.execCtz f s
  | .popc f => Sys2Proof.Machine.execPopc f s
  | .mov f => Sys2Proof.Machine.execMov f s
  | .padd f => Sys2Proof.Machine.execPadd f s
  | .addi f => Sys2Proof.Machine.execAddi f s
  | .andi f => Sys2Proof.Machine.execAndi f s
  | .ori f => Sys2Proof.Machine.execOri f s
  | .xori f => Sys2Proof.Machine.execXori f s
  | .shli f => Sys2Proof.Machine.execShli f s
  | .shri f => Sys2Proof.Machine.execShri f s
  | .srai f => Sys2Proof.Machine.execSrai f s
  | .rotri f => Sys2Proof.Machine.execRotri f s
  | .slti f => Sys2Proof.Machine.execSlti f s
  | .sltui f => Sys2Proof.Machine.execSltui f s
  | .seqi f => Sys2Proof.Machine.execSeqi f s
  | .ptag f => Sys2Proof.Machine.execPtag f s
  | .li f => Sys2Proof.Machine.execLi f s
  | .lcat f => Sys2Proof.Machine.execLcat f s
  | .lpc f => Sys2Proof.Machine.execLpc f s
  | .rng f => Sys2Proof.Machine.execRng f s
  | .ctradd f => Sys2Proof.Machine.execCtradd f s
  | .msave f => Sys2Proof.Machine.execMsave f s
  | .mrest f => Sys2Proof.Machine.execMrest f s
  | .mcomb f => Sys2Proof.Machine.execMcomb f s
  | .mcm f => Sys2Proof.Machine.execMcm f s
  | .fadd f => Sys2Proof.Machine.execFadd f s
  | .fsub f => Sys2Proof.Machine.execFsub f s
  | .fmul f => Sys2Proof.Machine.execFmul f s
  | .ffma f => Sys2Proof.Machine.execFfma f s
  | .fdiv f => Sys2Proof.Machine.execFdiv f s
  | .fsqrt f => Sys2Proof.Machine.execFsqrt f s
  | .fmin f => Sys2Proof.Machine.execFmin f s
  | .fmax f => Sys2Proof.Machine.execFmax f s
  | .feq f => Sys2Proof.Machine.execFeq f s
  | .flt f => Sys2Proof.Machine.execFlt f s
  | .fle f => Sys2Proof.Machine.execFle f s
  | .fclass f => Sys2Proof.Machine.execFclass f s
  | .fcvt f => Sys2Proof.Machine.execFcvt f s
  | .fabs f => Sys2Proof.Machine.execFabs f s
  | .fneg f => Sys2Proof.Machine.execFneg f s
  | .ldB f => Sys2Proof.Machine.execLdB f s
  | .ldH f => Sys2Proof.Machine.execLdH f s
  | .ldW f => Sys2Proof.Machine.execLdW f s
  | .ldD f => Sys2Proof.Machine.execLdD f s
  | .ldnB f => Sys2Proof.Machine.execLdnB f s
  | .ldnH f => Sys2Proof.Machine.execLdnH f s
  | .ldnW f => Sys2Proof.Machine.execLdnW f s
  | .stB f => Sys2Proof.Machine.execStB f s
  | .stH f => Sys2Proof.Machine.execStH f s
  | .stW f => Sys2Proof.Machine.execStW f s
  | .stD f => Sys2Proof.Machine.execStD f s
  | .vadd f => Sys2Proof.Machine.execVadd f s
  | .vsub f => Sys2Proof.Machine.execVsub f s
  | .vmul f => Sys2Proof.Machine.execVmul f s
  | .vfma f => Sys2Proof.Machine.execVfma f s
  | .vfms f => Sys2Proof.Machine.execVfms f s
  | .vfnma f => Sys2Proof.Machine.execVfnma f s
  | .vdiv f => Sys2Proof.Machine.execVdiv f s
  | .vsqrt f => Sys2Proof.Machine.execVsqrt f s
  | .vmin f => Sys2Proof.Machine.execVmin f s
  | .vmax f => Sys2Proof.Machine.execVmax f s
  | .vabs f => Sys2Proof.Machine.execVabs f s
  | .vneg f => Sys2Proof.Machine.execVneg f s
  | .vexp2 f => Sys2Proof.Machine.execVexp2 f s
  | .vlog2 f => Sys2Proof.Machine.execVlog2 f s
  | .vrcp f => Sys2Proof.Machine.execVrcp f s
  | .vrsqrt f => Sys2Proof.Machine.execVrsqrt f s
  | .vand f => Sys2Proof.Machine.execVand f s
  | .vor f => Sys2Proof.Machine.execVor f s
  | .vxor f => Sys2Proof.Machine.execVxor f s
  | .vshl f => Sys2Proof.Machine.execVshl f s
  | .vshr f => Sys2Proof.Machine.execVshr f s
  | .vsra f => Sys2Proof.Machine.execVsra f s
  | .vcmp f => Sys2Proof.Machine.execVcmp f s
  | .vsel f => Sys2Proof.Machine.execVsel f s
  | .vcvt f => Sys2Proof.Machine.execVcvt f s
  | .vbcst f => Sys2Proof.Machine.execVbcst f s
  | .vmov f => Sys2Proof.Machine.execVmov f s
  | .vslide f => Sys2Proof.Machine.execVslide f s
  | .vperm f => Sys2Proof.Machine.execVperm f s
  | .vscan f => Sys2Proof.Machine.execVscan f s
  | .vred f => Sys2Proof.Machine.execVred f s
  | .vpopc f => Sys2Proof.Machine.execVpopc f s
  | .vdot4 f => Sys2Proof.Machine.execVdot4 f s
  | .vclass f => Sys2Proof.Machine.execVclass f s
  | .vadds f => Sys2Proof.Machine.execVadds f s
  | .vmuls f => Sys2Proof.Machine.execVmuls f s
  | .vfmas f => Sys2Proof.Machine.execVfmas f s
  | .vmins f => Sys2Proof.Machine.execVmins f s
  | .vmaxs f => Sys2Proof.Machine.execVmaxs f s
  | .vminn f => Sys2Proof.Machine.execVminn f s
  | .vmaxn f => Sys2Proof.Machine.execVmaxn f s
  | .vld f => Sys2Proof.Machine.execVld f s
  | .vlds f => Sys2Proof.Machine.execVlds f s
  | .vldx f => Sys2Proof.Machine.execVldx f s
  | .vst f => Sys2Proof.Machine.execVst f s
  | .vsts f => Sys2Proof.Machine.execVsts f s
  | .vstx f => Sys2Proof.Machine.execVstx f s
  | .vacr f => Sys2Proof.Machine.execVacr f s
  | .vacw f => Sys2Proof.Machine.execVacw f s
  | .mma f => Sys2Proof.Machine.execMma f s
  | .mmas f => Sys2Proof.Machine.execMmas f s
  | .mzero f => Sys2Proof.Machine.execMzero f s
  | .mgeo f => Sys2Proof.Machine.execMgeo f s
  | .tquant f => Sys2Proof.Machine.execTquant f s
  | .tcast f => Sys2Proof.Machine.execTcast f s
  | .mchk f => Sys2Proof.Machine.execMchk f s
  | .mscl f => Sys2Proof.Machine.execMscl f s
  | .macc f => Sys2Proof.Machine.execMacc f s
  | .mact f => Sys2Proof.Machine.execMact f s
  | .mpre f => Sys2Proof.Machine.execMpre f s
  | .mprea f => Sys2Proof.Machine.execMprea f s
  | .mrd f => Sys2Proof.Machine.execMrd f s
  | .mwr f => Sys2Proof.Machine.execMwr f s
  | .mref f => Sys2Proof.Machine.execMref f s
  | .mrefa f => Sys2Proof.Machine.execMrefa f s
  | .mrdt f => Sys2Proof.Machine.execMrdt f s
  | .mnop f => Sys2Proof.Machine.execMnop f s
  | .xcpy f => Sys2Proof.Machine.execXcpy f s
  | .xcpyt f => Sys2Proof.Machine.execXcpyt f s
  | .xfill f => Sys2Proof.Machine.execXfill f s
  | .tscale x y => Sys2Proof.Machine.execTscale x y s
  | .qcfg x q => Sys2Proof.Machine.execQcfg x q s
  | .qpush q n => Sys2Proof.Machine.execQpush q n s
  | .qpushRef x n => Sys2Proof.Machine.execQpushRef x n s
  | .qpop q n => Sys2Proof.Machine.execQpop q n s
  | .swset x k => Sys2Proof.Machine.execSwset x k s
  | .pput f => Sys2Proof.Machine.execPput f s
  | .pget f => Sys2Proof.Machine.execPget f s
  | .pputv f => Sys2Proof.Machine.execPputv f s
  | .pamo f => Sys2Proof.Machine.execPamo f s
  | .csum f => Sys2Proof.Machine.execCsum f s
  | .cksave x sync => Sys2Proof.Machine.execCksave x sync s
  | .ckload x sync => Sys2Proof.Machine.execCkload x sync s
  | .br off => Sys2Proof.Machine.execBr off s
  | .brz a off => Sys2Proof.Machine.execBrz a off s
  | .brnz a off => Sys2Proof.Machine.execBrnz a off s
  | .brcm cond ty off => Sys2Proof.Machine.execBrcm cond ty off s
  | .call off => Sys2Proof.Machine.execCall off s
  | .ret => Sys2Proof.Machine.execRet s
  | .jmp a => Sys2Proof.Machine.execJmp a s
  | .loop a off => Sys2Proof.Machine.execLoop a off s
  | .rep n step => Sys2Proof.Machine.execRep n step s
  | .repRepetition core strand => Sys2Proof.Machine.execRepRepetition core strand s
  | .endStrand => Sys2Proof.Machine.execEndStrand s
  | .qwait q n => Sys2Proof.Machine.execQwait q n s
  | .qarv q n => Sys2Proof.Machine.execQarv q n s
  | .swwait k g => Sys2Proof.Machine.execSwwait k g s
  | .phase => Sys2Proof.Machine.execPhase s
  | .xfence src dst => Sys2Proof.Machine.execXfence src dst s
  | .ifence => Sys2Proof.Machine.execIfence s
  | .aadd f => Sys2Proof.Machine.execAadd f s
  | .aand f => Sys2Proof.Machine.execAand f s
  | .aor f => Sys2Proof.Machine.execAor f s
  | .axor f => Sys2Proof.Machine.execAxor f s
  | .amin f => Sys2Proof.Machine.execAmin f s
  | .amax f => Sys2Proof.Machine.execAmax f s
  | .aminu f => Sys2Proof.Machine.execAminu f s
  | .amaxu f => Sys2Proof.Machine.execAmaxu f s
  | .aswp f => Sys2Proof.Machine.execAswp f s
  | .acas f => Sys2Proof.Machine.execAcas f s
  | .afadd f => Sys2Proof.Machine.execAfadd f s
  | .atomicPerform core bank => Sys2Proof.Machine.execAtomicPerform core bank s
  | .cropen mask off => Sys2Proof.Machine.execCropen mask off s
  | .crclose => Sys2Proof.Machine.execCrclose s
  | .cmpd reg mask => Sys2Proof.Machine.execCmpd reg mask s
  | .trap imm => Sys2Proof.Machine.execTrap imm s
  | .brk imm => Sys2Proof.Machine.execBrk imm s
  | .sysr d idx => Sys2Proof.Machine.execSysr d idx s
  | .sysw src idx => Sys2Proof.Machine.execSysw src idx s
  | .bwheelWrite src k => Sys2Proof.Machine.execBwheelWrite src k s
  | .syncRegisterWrite src k => Sys2Proof.Machine.execSyncRegisterWrite src k s
  | .repcWrite src => Sys2Proof.Machine.execRepcWrite src s
  | .lcWrite src => Sys2Proof.Machine.execLcWrite src s
  | .mgWrite src => Sys2Proof.Machine.execMgWrite src s
  | .vctlWrite src => Sys2Proof.Machine.execVctlWrite src s
  | .xinvWrite src => Sys2Proof.Machine.execXinvWrite src s
  | .estatWrite src => Sys2Proof.Machine.execEstatWrite src s
  | .scrub a len sync => Sys2Proof.Machine.execScrub a len sync s
  | .krot a sync => Sys2Proof.Machine.execKrot a sync s
  | .metr d a => Sys2Proof.Machine.execMetr d a s
  | .mets a sync => Sys2Proof.Machine.execMets a sync s
  | .seal a sync => Sys2Proof.Machine.execSeal a sync s
  | .unseal a sync => Sys2Proof.Machine.execUnseal a sync s
  | .resultLanding core strand => Sys2Proof.Machine.execResultLanding core strand s
  | .reset sigOk => Sys2Proof.Machine.execReset sigOk s
  | .commandPlay stack pc arrive => Sys2Proof.Machine.execCommandPlay stack pc arrive s
  | .grainLanding stack pc => Sys2Proof.Machine.execGrainLanding stack pc s
  | .lineVerdict stack pc => Sys2Proof.Machine.execLineVerdict stack pc s
  | .lineCommit stack pc => Sys2Proof.Machine.execLineCommit stack pc s
  | .refreshClock stack pc => Sys2Proof.Machine.execRefreshClock stack pc s
  | .rowOpenLimit stack pc bank => Sys2Proof.Machine.execRowOpenLimit stack pc bank s
  | .rowRepair stack pc bank row => Sys2Proof.Machine.execRowRepair stack pc bank row s
  | .withdrawalNotice stack pc sids noticeUs => Sys2Proof.Machine.execWithdrawalNotice stack pc sids noticeUs s
  | .layerMapOut stack sid => Sys2Proof.Machine.execLayerMapOut stack sid s
  | .channelRetirement stack pc => Sys2Proof.Machine.execChannelRetirement stack pc s
  | .withdrawn stack pc sids => Sys2Proof.Machine.execWithdrawn stack pc sids s
  | .logicalChannelMove world lchan stack pc => Sys2Proof.Machine.execLogicalChannelMove world lchan stack pc s
  | .systemSliceMove stack slice pc sid => Sys2Proof.Machine.execSystemSliceMove stack slice pc sid s
  | .sliceFillComplete world lchan sidslot stack pc sid => Sys2Proof.Machine.execSliceFillComplete world lchan sidslot stack pc sid s
  | .syncCount core bank => Sys2Proof.Machine.execSyncCount core bank s
  | .copyComplete core id => Sys2Proof.Machine.execCopyComplete core id s
  | .matrixOperationStart core => Sys2Proof.Machine.execMatrixOperationStart core s
  | .matrixOperationRetire core => Sys2Proof.Machine.execMatrixOperationRetire core s
  | .putRequest r notify data => Sys2Proof.Machine.execPutRequest r notify data s
  | .getRequest r lines => Sys2Proof.Machine.execGetRequest r lines s
  | .pamoRequest r ident aop wide v c => Sys2Proof.Machine.execPamoRequest r ident aop wide v c s
  | .putAcknowledgement id reply => Sys2Proof.Machine.execPutAcknowledgement id reply s
  | .getDataArrival id reply data => Sys2Proof.Machine.execGetDataArrival id reply data s
  | .pamoReply id reply old poison => Sys2Proof.Machine.execPamoReply id reply old poison s
  | .csumResult id total => Sys2Proof.Machine.execCsumResult id total s
  | .retryResend id => Sys2Proof.Machine.execRetryResend id s
  | .frameAuthFailure port => Sys2Proof.Machine.execFrameAuthFailure port s
  | .peerLost device => Sys2Proof.Machine.execPeerLost device s
  | .linkRekey port => Sys2Proof.Machine.execLinkRekey port s
  | .bridgeFailure => Sys2Proof.Machine.execBridgeFailure s
  | .peerBinding world device remote ok => Sys2Proof.Machine.execPeerBinding world device remote ok s
  | .qnotifyWrite world q n => Sys2Proof.Machine.execQnotifyWrite world q n s
  | .submissionFetchRetry world q => Sys2Proof.Machine.execSubmissionFetchRetry world q s
  | .queueEnable world q v => Sys2Proof.Machine.execQueueEnable world q v s
  | .queueDisable world q => Sys2Proof.Machine.execQueueDisable world q s
  | .qconsWrite world q n => Sys2Proof.Machine.execQconsWrite world q n s
  | .workgroupStart world => Sys2Proof.Machine.execWorkgroupStart world s
  | .strandFinish core strand => Sys2Proof.Machine.execStrandFinish core strand s
  | .launchComplete world q seq => Sys2Proof.Machine.execLaunchComplete world q seq s
  | .coalescingTimeout world q => Sys2Proof.Machine.execCoalescingTimeout world q s
  | .allowanceExhausted world q seq => Sys2Proof.Machine.execAllowanceExhausted world q seq s
  | .waitLimitSwitch core => Sys2Proof.Machine.execWaitLimitSwitch core s
  | .governorEvaluation => Sys2Proof.Machine.execGovernorEvaluation s
  | .clusterMove cluster => Sys2Proof.Machine.execClusterMove cluster s
  | .phaseBoundary wg => Sys2Proof.Machine.execPhaseBoundary wg s
  | .faultDelivery core strand => Sys2Proof.Machine.execFaultDelivery core strand s
  | .lockstepMismatch core => Sys2Proof.Machine.execLockstepMismatch core s
  | .scratchpadScrub core bank block => Sys2Proof.Machine.execScratchpadScrub core bank block s
  | .sealNoticeEnd id => Sys2Proof.Machine.execSealNoticeEnd id s
  | .sealStopped id => Sys2Proof.Machine.execSealStopped id s
  | .sealDrainComplete id => Sys2Proof.Machine.execSealDrainComplete id s
  | .sealImageCommitted id => Sys2Proof.Machine.execSealImageCommitted id s
  | .unsealPlacement id => Sys2Proof.Machine.execUnsealPlacement id s
  | .restorePoint wg => Sys2Proof.Machine.execRestorePoint wg s
  | .krotComplete world => Sys2Proof.Machine.execKrotComplete world s
  | .meterStatementSigned world => Sys2Proof.Machine.execMeterStatementSigned world s
  | .cksaveComplete id core => Sys2Proof.Machine.execCksaveComplete id core s
  | .ckloadComplete id result sources plain => Sys2Proof.Machine.execCkloadComplete id result sources plain s
  | .debugResume world core strand => Sys2Proof.Machine.execDebugResume world core strand s
  | .lockInterfaceRequest world => Sys2Proof.Machine.execLockInterfaceRequest world s
  | .startInterfaceRequest world => Sys2Proof.Machine.execStartInterfaceRequest world s
  | .stopInterfaceRequest world => Sys2Proof.Machine.execStopInterfaceRequest world s
  | .ideIntegrityFailure world => Sys2Proof.Machine.execIdeIntegrityFailure world s
  | .functionLevelReset world => Sys2Proof.Machine.execFunctionLevelReset world s
  | .spdmSessionLoss world => Sys2Proof.Machine.execSpdmSessionLoss world s
  | .getMeasurements world index => Sys2Proof.Machine.execGetMeasurements world index s
  | .challenge world => Sys2Proof.Machine.execChallenge world s
  | .keyExchange world => Sys2Proof.Machine.execKeyExchange world s
  | .pwctlWrite world v => Sys2Proof.Machine.execPwctlWrite world v s
  | .frozenRegisterWrite world offset v => Sys2Proof.Machine.execFrozenRegisterWrite world offset v s
  | .vfConfigWrite world item => Sys2Proof.Machine.execVfConfigWrite world item s
  | .meterBind world p => Sys2Proof.Machine.execMeterBind world p s
  | .meterUnbind world meter => Sys2Proof.Machine.execMeterUnbind world meter s
  | .meterPred world values last sigOk => Sys2Proof.Machine.execMeterPred world values last sigOk s
  | .migrationQuiesce world permitOk => Sys2Proof.Machine.execMigrationQuiesce world permitOk s
  | .migrationArm world image => Sys2Proof.Machine.execMigrationArm world image s
  | .migrationErase world ackOk => Sys2Proof.Machine.execMigrationErase world ackOk s
  | .migrationConfirm world => Sys2Proof.Machine.execMigrationConfirm world s
  | .migrationAbort world => Sys2Proof.Machine.execMigrationAbort world s
  | .armedTimeout world => Sys2Proof.Machine.execArmedTimeout world s
  | .escrowRelease world ok => Sys2Proof.Machine.execEscrowRelease world ok s
  | .drbgReseed => Sys2Proof.Machine.execDrbgReseed s
  | .readTelemetry stack => Sys2Proof.Machine.execReadTelemetry stack s
  | .readRepairInventory stack => Sys2Proof.Machine.execReadRepairInventory stack s
  | .stageFirmwareImage verifies => Sys2Proof.Machine.execStageFirmwareImage verifies s
  | .readAgeingRecord stack => Sys2Proof.Machine.execReadAgeingRecord stack s
  | .bar2Access world offset write len => Sys2Proof.Machine.execBar2Access world offset write len s
  | .unsupportedRequest kind => Sys2Proof.Machine.execUnsupportedRequest kind s
  | .hearthGrant grants => Sys2Proof.Machine.execHearthGrant grants s
  | .voltageReplan cluster slower => Sys2Proof.Machine.execVoltageReplan cluster slower s
  | .remoteTokenArrival id => Sys2Proof.Machine.execRemoteTokenArrival id s
  | .replyAcknowledgement src ident => Sys2Proof.Machine.execReplyAcknowledgement src ident s
  | .bridgeLaneRepair => Sys2Proof.Machine.execBridgeLaneRepair s
  | .systemChannelPatrol stack errors => Sys2Proof.Machine.execSystemChannelPatrol stack errors s
  | .lockstepResynchronised core => Sys2Proof.Machine.execLockstepResynchronised core s

end Sys2Proof.Machine
end

