-- ==== Sys2Proof/Machine/Turns.lean ====
section
/-! DEFINITION. One turn of the package: a core's cycle, an event, a step of an engine, passing time, or something that the host, the supervisor or the world outside does (R3, R4, R50, R258, R299, R377 to R383; log 2, DESIGN CHOICE). The order of turns is data of the state, so every interleaving is a run. -/

namespace Sys2Proof.Machine

open Sys2Proof

/-! ### Time (R3, R298) -/

/-- Cores, by rank, that workgroups of a launch hold; a sealed workgroup holds none (R275, R298; log 68, DEDUCED). -/
def State.coresOf (s : State) (l : Launch) : Nat :=
  ((s.wgs.filter fun w => w.launch == l.id).map fun w => w.cores.length).foldl (· + ·) 0

/-- Whole nanoseconds of package time after a number of ticks, of 0.625 ns each (R3, R48). -/
def nsOf (ticks : Nat) : Nat := ticks * 5 / 8

/-- A core cycle at 1 MHz lasts 1,600 ticks; in these units of 8,000ths of a cycle a tick brings 5 for each MHz of the clock (R3). -/
abbrev cycleUnits : Nat := 8000

/-- One tick of a cluster's clock: at the end of a cycle each of its cores that takes cycles has one more to take (R3, R380). -/
def State.clockTick (s : State) (k : Nat) : State :=
  let acc := SMap.get s.clockAcc 0 k + 5 * s.clockMhz k
  if acc < cycleUnits then { s with clockAcc := SMap.set s.clockAcc k acc }
  else
    ((List.range 12).map (k * 12 + ·)).foldl
      (fun (s : State) c => if s.cycles c then s.modCore c fun x => { x with due := x.due + 1 } else s)
      { s with clockAcc := SMap.set s.clockAcc k (acc - cycleUnits) }

/-- A tick passes, and package time with it; every launch is charged for the cores that its workgroups hold, and the clocks of the clusters that hold workgroups go on (R3, R4, R48, R298; log 68, DEDUCED). -/
def State.passTick (s : State) : State :=
  let d := nsOf (s.tick + 1) - nsOf s.tick
  let s1 := { s with
    ns := s.ns + d, tick := s.tick + 1
    launches := s.launches.map fun (l : Launch) => { l with charge := l.charge + d * s.coresOf l } }
  s1.activeClusters.foldl State.clockTick s1

/-- The governor's evaluation that is due is made before time goes on; before READY there is none to make (R303). -/
def State.governDue (s : State) : State :=
  if s.ns < s.governedAt + governorPeriod then s
  else if s.dstat == 5 then s.andThen execGovernorEvaluation
  else { s with governedAt := s.governedAt + governorPeriod }

/-- Cores with a cycle that has come and has not been taken. -/
def State.dueCores (s : State) : List Nat := (s.cores.filter fun p => 0 < p.2.due).map (·.1)

/-- Requests answered with RETRY whose 10 µs are over are sent again (R268). -/
def State.resendDue (s : State) : State :=
  (s.fab.filter fun o => o.resendAt.any fun t => t ≤ s.ns).foldl (fun (s : State) o => s.andThen (execRetryResend o.info.id)) s

/-- What falls due by the clock at the present tick: the governor's evaluation, the Hearth's round of grants, overdue re-plans, requests to be resent, what each PC does, and the cycles of the cores (R3, R63, R64, R72, R268, R299, R303, R380, R382; log 6, DESIGN CHOICE). -/
def State.dueWork (s : State) : State :=
  let s1 := (s.governDue.andThen (execHearthGrant [])).replanDue.resendDue
  let s2 := (List.range 512).foldl State.pcDue s1
  s2.dueCores.foldl State.takeCycle s2

/-- Package time passes, tick by tick, each one after what is due (R3, R4). -/
def State.elapse : State → Nat → State
  | s, 0 => s
  | s, n + 1 => s.dueWork.passTick.elapse n

/-! ### Registers in BAR0 (R282, R344, R356, R378, R383) -/

/-- The error registers (R344): index of an offset. -/
def errorIndex (off : Nat) : Option Nat :=
  if 0x400 ≤ off && off < 0x500 && off % 8 == 0 then some (0x830 + (off - 0x400) / 8) else none

/-- Queue and offset within its registers (R282). -/
def queueOffset (off : Nat) : Option (Nat × Nat) :=
  if 0x1000 ≤ off && off < 0x1400 && off % 8 == 0 then some ((off - 0x1000) / 0x80, (off - 0x1000) % 0x80) else none

/-- World and offset within its registers (R356). -/
def worldOffset (off : Nat) : Option (Nat × Nat) :=
  if 0x8000 ≤ off && off < 0x9000 && off % 8 == 0 then some ((off - 0x8000) / 0x100, (off - 0x8000) % 0x100) else none

/-- Write an error register: ESTAT clears where 1 is written (R344). -/
def State.writeError (s : State) (i : Nat) (v : Word) : State :=
  if i == 0x830 then { s with elogBase := v }
  else if i == 0x832 then { s with elogTail := v }
  else if i == 0x833 then { s with elogOvf := s.elogOvf && !v.getLsbD 63 }
  else s

/-- The error registers as the host reads them (R344). -/
def State.readError (s : State) (i : Nat) : Word :=
  if i == 0x830 then s.elogBase
  else if i == 0x831 then s.elogHead
  else if i == 0x832 then s.elogTail
  else if i == 0x833 then (if s.elogOvf then word (2 ^ 63) else 0)
  else if i == 0x834 then s.eseq
  else if 0x840 ≤ i && i ≤ 0x847 then SMap.get s.ecnt 0 (i - 0x840)
  else 0

/-- The registers of a queue as the host reads them (R282 to R284). -/
def State.readQueue (s : State) (world q off : Nat) : Word :=
  let x := s.queueAt world q
  if off == 0x00 then x.qsub
  else if off == 0x08 then x.qcfg
  else if off == 0x10 then x.qcpl
  else if off == 0x18 then x.qcwa
  else if off == 0x28 then word x.qnext
  else if off == 0x30 then word x.qcons
  else if off == 0x38 then s.qstat world q
  else 0

/-- The per-world registers as the host reads them (R356). -/
def World.readReg (w : World) (off : Nat) : Word :=
  if off == 0x00 then w.pwctl
  else if off == 0x08 then w.pwpart
  else if off == 0x10 then w.pwroot
  else if off == 0x18 then w.pwquota
  else if off == 0x20 then w.pwchan
  else if off == 0x28 then w.pwqueue
  else if off == 0x30 then w.pwpeer
  else 0

/-- DSTAT (R383). -/
def State.dstatWord (s : State) : Word := word (s.dstatErr % 256 * 256 + s.dstat % 16)

/-- The mailbox as the host reads it: MBCMD, MBSTAT and the payload within the window of R378 (R379). -/
def State.readMailbox (s : State) (off : Nat) : Word :=
  if off == 0x800 then s.mbCmd
  else if off == 0x808 then s.mbStat
  else if 0xC00 ≤ off && off % 8 == 0 then s.mbPayload.getD ((off - 0xC00) / 8) 0
  else 0

/-- A write into the mailbox: MBCMD starts its command, which its event ends, and the payload is kept (R379; log 61, DESIGN CHOICE). -/
def State.writeMailbox (s : State) (off : Nat) (v : Word) : State :=
  if off == 0x800 then s.writeMbcmd v
  else if 0xC00 ≤ off && off % 8 == 0 then
    { s with mbPayload := (List.range 256).map fun i => if i == (off - 0xC00) / 8 then v else s.mbPayload.getD i 0 }
  else s

/-- An offset of the mailbox (R378). -/
def mailboxOffset (off : Nat) : Bool := 0x800 ≤ off && off < 0x1000

/-- A write to a register of BAR0 of a world's function; offsets not listed ignore it, as does all but the mailbox in RECOVERY (R378, R383). -/
def State.barWrite (s : State) (world off : Nat) (v : Word) : State :=
  if world == 0 && mailboxOffset off then s.writeMailbox off v
  else if world == 0 && s.dstat != 15 && (errorIndex off).isSome then s.writeError ((errorIndex off).getD 0) v
  else match queueOffset off with
    | some (q, o) => if s.cfgOpen world then s.queueWrite world q o v else s
    | none =>
      match worldOffset off with
      | some (w, o) =>
        if world == 0 then (match execFrozenRegisterWrite w o v s with
          | .next t => t
          | _ => s)
        else s
      | none => s

/-- A read of a register of BAR0 of a world's function; offsets not listed read as zero (R378). In RECOVERY only DSTAT and the mailbox answer (R383). -/
def State.barRead (s : State) (world off : Nat) : Word :=
  if world == 0 && off == 0 then s.dstatWord
  else if world == 0 && mailboxOffset off then s.readMailbox off
  else if s.dstat == 15 then 0
  else if world == 0 && (errorIndex off).isSome then s.readError ((errorIndex off).getD 0)
  else match queueOffset off with
    | some (q, o) => if s.barOpen world then s.readQueue world q o else 0
    | none =>
      match worldOffset off with
      | some (w, o) => if world == 0 then (s.worldAt w).readReg o else 0
      | none => 0

/-- Eight bytes of the debug queue, oldest event first, or of the statement mailbox, with the statement last posted, as a virtual function shows them at 0x2000 and 0x3000 (R338, R355, R378; log 91, DESIGN CHOICE). -/
def World.windowBytes (w : World) (off : Nat) : List Byte :=
  let bytes := if off < 0x3000 then (w.debugQueue.flatten).drop (off - 0x2000) else (w.mailbox.getLast?.getD []).drop (off - 0x3000)
  bytes.take 8 ++ List.replicate (8 - Nat.min 8 bytes.length) 0

/-- A window of a virtual function: the debug queue or the statement mailbox (R378; log 91, DESIGN CHOICE). -/
def vfWindow (world off : Nat) : Bool := world != 0 && 0x2000 ≤ off && off < 0x4000

/-- A host read of BAR0; a virtual function answers reads in RUN alone, and in RECOVERY only DSTAT and the mailbox answer (R378, R383). -/
def State.hostRead (s : State) (world off : Nat) : State :=
  if world != 0 && !s.barOpen world then s
  else if s.dstat == 15 && off != 0 && !mailboxOffset off then s
  else if vfWindow world off then s.reply world ((s.worldAt world).windowBytes off)
  else s.reply world (leBytes 8 (s.barRead world off).toNat)

/-! ### The supervisor and the world outside -/

/-- A stored bit of a scratchpad line turns over (R135). -/
def State.cellError (s : State) (core bank line bit : Nat) : State :=
  let l := bank % 16 * 1024 + line % 1024
  s.modCore core fun k =>
    let m := k.line l
    k.setLine l { m with err := m.err.flip (bit % 512) }

/-- The stored owner-world tag of a scratchpad line is corrupted (R89). -/
def State.tagError (s : State) (core line tag : Nat) : State :=
  s.modCore core fun k => k.setLine (line % 16384) { k.line (line % 16384) with tag := tag }

/-- A stored bit of a scale record turns over; a second one in its word makes the record poisoned and is counted at once, raises no fault, and its location has no kind in the table of R345: the entry's names none of them, and no window counts it (R135, R137, R343, R345, R346; log 8, DESIGN CHOICE; log 76, DEDUCED). -/
def State.recordError (s : State) (core bank rec_ bit : Nat) : State :=
  let i := bank % 16 * 128 + rec_ % 128
  let m := (s.coreAt core).rec_ i
  let e := m.err.flip (bit % 256)
  if e.multiple.isEmpty then s.modCore core fun k => { k with recs := SMap.set k.recs i { m with err := e } }
  else
    let f := s.free
    (f.2.modCore core fun k => { k with recs := SMap.set k.recs i { m with written := true, poison := true, err := Ecc.sound } }).errorEvent
      { cat := 3, code := 0xFF, world := (s.coreAt core).lineTag % 16, corrected := false, injected := false, loc := f.1 ||| word (2 ^ 63) }

/-! ### The turn -/

/-- An event of the table: a row that is no syllable. Where its condition does not hold, it leaves the state as it is (log 11, DESIGN CHOICE). -/
def isEvent (i : Instr) : Bool := i != .nop && i.homeSlot.isNone

/-- One turn (log 2, DESIGN CHOICE). -/
def State.turn (s : State) (u : Turn) : State :=
  match u with
  | .cycle c => s.takeCycle c
  | .event i => if isEvent i then s.andThen (exec i) else s
  | .copyRead c id => (s.copyRead c id).fabRead id
  | .elapse ticks => s.elapse ticks
  | .barWrite world off v => s.barWrite world off v
  | .barRead world off => s.hostRead world off
  | .mapPage world page frame poisoned => s.mapPage world page frame poisoned
  | .route device port => { s with routes := SMap.set s.routes device port }
  | .tamper pla => s.tamper pla
  | .dramFault pla double => s.dramFault pla double
  | .transferIn t => s.transferArrives t
  | .movePage world page frame => s.movePage world page frame
  | .cellError core bank line bit => s.cellError core bank line bit
  | .recordError core bank rec_ bit => s.recordError core bank rec_ bit
  | .tagError core line tag => s.tagError core line tag
  | .rmwArrive core index => s.rmwArrive core index
  | .prefetch core pc => s.prefetch core pc
  | .sliceFill world stack pc sid => s.startFill world stack pc sid
  | .bringUp b => s.bringUp b
  | .linkTraining port accepts => s.linkTraining port accepts
  | .replanPc stack pc meets => s.replanPc stack pc meets
  | .rotateSlice world key => s.rotateSlice world key
  | .rotatePage world page => s.rotatePage world page

/-- A step of bring-up that finds nothing wrong. -/
def BringUp.clean : BringUp := { rows := [], vctl := [], predicted := [], slower := [], weak := [], base := [] }

/-- The march test is under way (R383). -/
def State.marching (s : State) : Bool := s.march.any fun m => !s.marchOver m

/-- What the package does with no turn listed: bring-up, then a core's cycle that has come, or else time passes (R3, R383; log 2, DESIGN CHOICE). -/
def State.idleTurn (s : State) : Turn :=
  if s.dstat < 5 && !s.marching then .bringUp BringUp.clean
  else match s.dueCores with
    | c :: _ => .cycle c
    | [] => .elapse 1

/-- Take the next turn of the list, or else the idle turn (log 2, DESIGN CHOICE). -/
def State.takeTurn (s : State) : State :=
  match s.turns with
  | u :: us => { s with turns := us }.turn u
  | [] => s.turn s.idleTurn

/-! ### A bundle placed for the next step -/

/-- The bundle of a number: 32 bytes, syllable 0 first, each in little-endian order (R9). -/
def bundleBytes (nbits w : Nat) : List Byte := leBytes 32 (w % 2 ^ nbits)

/-- The frame in which a placed bundle stands: the first of the remainder of stack 0 (log 3, DESIGN CHOICE). -/
def placedFrame : Nat := 2048

/-- Core 0 with strand 0 at the first bundle of the system window (log 3, DESIGN CHOICE). -/
def placedCore (wg : Nat) : Core :=
  { Core.reset with wg := some wg, due := 1, strands := [(0, { Strand.reset with status := .running, pc := word (2 ^ 52) })] }

/-- The workgroup of the placed bundle, of world 0, with page 0 of the system window in view. -/
def placedWg (id : Nat) : Workgroup :=
  { id := id, launch := 0, world := 0, queue := 0, seq := 0, index := 0, cluster := 0, cores := [0], strands := 1, mprof := 0x47, state := .running,
    boundary := 0, window := [], remap := false, view := [(0, { frame := placedFrame, poisoned := false, found := false })],
    stale := false, meterGrains := 0, started := 0 }

/-- A bundle in a page frame, the workgroup that runs it on core 0, and the core's cycle as the next turn (log 3, DESIGN CHOICE). -/
def State.placeBundle (s : State) (nbits w : Nat) : State :=
  let id := s.nextId
  let s1 := (s.bumpId.setCore 0 (placedCore id)).modWorld 0 fun x =>
    let e : Page := { frame := placedFrame, poisoned := false, found := false }
    { x with pages := SMap.set x.pages 0 e, live := SMap.set x.live 0 e }
  { s1.putSys (placedFrame * Config.pageBytes) (bundleBytes nbits w ++ List.replicate 32 0) false with
    wgs := s1.wgs ++ [placedWg id]
    resync := s1.resync.filter (· != 0)
    stopped := false
    turns := [.cycle 0] }

end Sys2Proof.Machine
end

