-- ==== Sys2Proof/Machine/Step.lean ====
section
/-! DEFINITION. The step, and the placing of a bundle for the next step. -/

namespace Sys2Proof.Machine

/-- One step of the package: the next turn; nothing after the die bridge has failed for good (R257). -/
def step (s : State) : Host.Outcome State Fault Refusal :=
  if s.stopped then .fault .packageStopped else .next s.takeTurn

/-- The state whose next step fetches and runs the bundle of the given bits (log 3, DESIGN CHOICE). -/
def State.withFetchWord (s : State) (nbits w : Nat) : State := s.placeBundle nbits w

end Sys2Proof.Machine
end

