-- ==== Sys2Proof/Safety.lean ====
section
/-! DEFINITION. The terms in which the claims are made: a syllable that completes, the results it holds, the room that they need, what stays as it was, and the invariants of the machine. -/

namespace Sys2Proof.Machine

open Sys2Proof

/-! ### Turns -/

/-- The state with other turns to come (log 2, DESIGN CHOICE). -/
def State.withTurns (s : State) (us : List Turn) : State := { s with turns := us }

/-! ### A syllable that completes -/

/-- The state after the syllable being issued has left its strand as `x` and nothing else changed: the syllable took its effect. -/
def State.done (s : State) (x : Strand) : State := (s.putStrand x).verdict .ok

/-- The held results of one syllable, due together; its arrivals go with the last (R16, R33). -/
def heldResults (due : Nat) (arrive : List (BitVec 4)) : List Landing → List Held
  | [] => []
  | [l] => [⟨.scalar due l, true, arrive⟩]
  | l :: ls => ⟨.scalar due l, true, []⟩ :: heldResults due arrive ls

/-- The state after a syllable whose results land `lat` context cycles later, and which changes nothing else (R19, R33). -/
def State.holds (s : State) (lat : Nat) (ls : List Landing) : State :=
  s.done { s.strand with held := s.strand.held ++ heldResults (s.strand.ctime + lat) s.cur.arrive ls }

/-- The same for one pushed result, with the named register of a destination code that has one (R19). -/
def State.gives (s : State) (d : R5) (lat : Nat) (v : Word) : State :=
  s.holds lat [.push v (if d.toNat ≤ 15 then some d.toNat else none)]

/-- The strand's held results leave room for `n` more (R33). -/
def State.room (s : State) (n : Nat) : Prop := s.strand.heldCount + n ≤ 64

/-- The result of a syllable that uses divider `unit` of its slot: as `gives`, and the divider notes the cycle (R35). -/
def State.givesDiv (s : State) (unit : Nat) (d : R5) (lat : Nat) (v : Word) : State :=
  s.done { s.strand with
    held := s.strand.held ++ heldResults (s.strand.ctime + lat) s.cur.arrive [.push v (if d.toNat ≤ 15 then some d.toNat else none)]
    divider := SMap.set s.strand.divider unit s.strand.ctime }

/-- The divider was last used at least `n` context cycles ago, or never (R35). -/
def State.divFree (s : State) (unit n : Nat) : Prop := ∀ t, SMap.find s.strand.divider unit = some t → t + n ≤ s.strand.ctime

/-- What a precise fault of the syllable being issued reports (R328, R329). -/
def State.precise (s : State) (code detail : Nat) : FaultRec :=
  { code := code, slot := s.cur.slot.pos, cls := 7, detail := detail, addr := s.cur.pc, imprecise := false, merged := false }

/-- The state after a syllable without a register result: it arrives on the rings of its suffixes, and it has taken its effect (R16). -/
def State.retires (s : State) : State := (s.arriveOn s.cur.core s.cur.strand s.cur.arrive).verdict .ok

/-! ### Bundles -/

/-- What one syllable does after those before it: a wait whose test has passed only retires (R29). -/
def State.slotEffect (s : State) (h : Header) (p : Slot × Instr) : Out State :=
  if isWait p.2 then .next (s.atSlot h p.1).retires else exec p.2 (s.atSlot h p.1)

/-- The syllables take their effects one after the other, in slot order, and lead from `s` to `u` (R26, R32). -/
def State.slotsTake (h : Header) : List (Slot × Instr) → State → State → Prop
  | [], s, u => u = s
  | p :: ps, s, u => ∃ t, s.slotEffect h p = .next t ∧ t.cur.verdict = .ok ∧ State.slotsTake h ps t u

/-- The syllable by itself, on the state before the bundle, ends with the verdict (R26, R29). -/
def State.alone (s : State) (h : Header) (p : Slot × Instr) (v : Verdict) : Prop :=
  ∃ u, exec p.2 (s.atSlot h p.1) = .next u ∧ u.cur.verdict = v

/-! ### Accesses of the S slot -/

/-- The address of a scalar access (R190). -/
def State.access (s : State) (base : R5) (imm : BitVec 15) : Word := padd (s.src base) (BitVec.ofInt 64 imm.toInt)

/-- Nothing holds back or forbids an L access of class `cls` to a bank now (R142, R190, R319). -/
def State.bankOpen (s : State) (cls bank : Nat) : Prop :=
  bfmtValid (s.core.fmt bank) = true ∧ s.lTooSoon bank = false ∧ s.fenceHolds cls = false ∧ s.lLatched bank = false

/-- The access of the syllable being issued for an L position of a bank (R142, R192). -/
def State.lAccess (s : State) (bank cls : Nat) (op : LOp) (arrive : List (BitVec 4)) : LAccess :=
  { info := { s.newInfo cls 0 with arrive := arrive }, cls := cls, bank := bank, op := op }

/-- The state with that access in its bank's latch: the spacing of the strand's accesses starts, the access has the next number, and nothing else changed (R142, R192). -/
def State.latches (s : State) (bank cls : Nat) (op : LOp) (arrive : List (BitVec 4)) : State :=
  { s.putCore ({ s.core with lq := s.core.lq ++ [s.lAccess bank cls op arrive] }.setStrand s.cur.strand
      { s.strand with lastL := SMap.set s.strand.lastL bank (s.strand.ctime + 1) }) with nextId := s.nextId + 1 }

/-- The named register of a destination code, if it has one (R19). -/
def named (d : R5) : Option Nat := if d.toNat ≤ 15 then some d.toNat else none

/-- A scratchpad byte as a reader of a sound line sees it: zero while the line is unwritten (R136). -/
def Core.byteAt (k : Core) (a : Nat) : Byte := if (k.line (a / 64)).written then Memory.read k.spad a else 0

/-- The line has no stored error and no poison, has the world's tag, and no verification mode is on (R89, R135, R137, R348). -/
def Core.sound (k : Core) (world l : Nat) : Prop :=
  (k.line l).err = Ecc.sound ∧ (k.line l).poison = false ∧ (k.line l).tag = world ∧ vctlEn k.vctl = false

/-- Sign- or zero-extension of a little-endian value of `n` bytes (R191). -/
def extended (signed : Bool) (n v : Nat) : Word :=
  if signed && 2 ^ (8 * n - 1) ≤ v then BitVec.ofInt 64 ((v : Int) - 2 ^ (8 * n)) else word v

/-- The state after a syllable that starts to read its columns: the flight is held, and nothing else changed (R30, R33). -/
def State.starts (s : State) (f : Flight) (counts : Bool) : State :=
  s.done { s.strand with held := s.strand.held ++ [⟨.vector f, counts, s.cur.arrive⟩] }

/-- The part of the state outside the cores, the bundle being issued and the counters of free values and operations is that of `s`. -/
def State.sameOutside (s t : State) : Prop :=
  t = { s with cores := t.cores, cur := t.cur }

/-- No core but `c` differs. -/
def State.sameOtherCores (s t : State) (c : Nat) : Prop := ∀ d, d ≠ c → t.coreAt d = s.coreAt d

/-! ### Invariants -/

/-- ESEQ is the sum of the eight category counters (R343). -/
def State.errorsCounted (s : State) : Prop := s.eseq = (List.range 8).foldl (fun n c => n + SMap.get s.ecnt 0 c) 0

end Sys2Proof.Machine
end

