-- ==== Sys2Proof/Certificates/Slice0/Obligations.lean ====
section
/-! DEFINITION. The statements for the provers. Each is a claim about the machine; its docstring says which rules of spec/ it formalises. -/

open Sys2Proof Sys2Proof.Machine

/-! ### Decoding -/

/-- Words that the spec encodes itself decode to the instructions that it gives for them: R9 and the example of the bundle chapter, R183, the scalar, matrix, main-memory, scratchpad, fabric, ordering and fault chapters. -/
def Obligations.SpecWordsDecode : Prop :=
  decodeSyl .s 1 0x404A0040 = .ok (.addi { d := 4, a := 20, imm := 64 })
  ∧ decodeSyl .s 2 0x03F0CC00 = .ok (.add { d := 31, a := 1, b := 19, c := 0, fn := 0 })
  ∧ decodeSyl .v 3 0x12100126 = .ok (.vfma { width := .w1024, dup := false, vd := 4, va := 0, vb := 1, vc := 4, ty := .f32 })
  ∧ decodeSyl .s 1 0x61FFFFFD = .ok (.li { d := 31, imm := 0xFFFFD })
  ∧ decodeSyl .m 5 0x10005400 = .ok (.mgeo { acc := 0, qa := 0, qb := 0, x := 21, y := 0, pa := false, pb := false, z := false, ck := false, neg := false })
  ∧ decodeSyl .m 5 0x04005AD6 = .ok (.mma { acc := 0, qa := 0, qb := 0, x := 22, y := 22, pa := true, pb := false, z := true, ck := true, neg := false })
  ∧ decodeSyl .c 6 0x129618FF = .ok (.mrd { x := 20, y := 22, delta := 24, cnt := 15, sync := 15 })
  ∧ decodeSyl .c 6 0x62A00002 = .ok (.qcfg 21 2)
  ∧ decodeSyl .c 6 0x83198032 = .ok (.pput { x := 24, y := 25, notify := true, cnt := 3, sync := 2 })
  ∧ decodeSyl .x 7 0x10200100 = .ok (.qwait 2 1)
  ∧ decodeSyl .x 7 0x14064000 = .ok (.xfence 3 16)
  ∧ decodeSyl .x 7 0x35202000 = .ok (.sysr 4 0x040)

/-- R11: the all-zero syllable is nop in every slot, and every other word is its own instruction or is refused: decoding an encoded well-formed instruction of a slot class gives it back, with every operand at every value that the encoding admits (R18 to R24). -/
def Obligations.EncodedInstructionDecodes : Prop :=
  ∀ (cls : SlotClass) (pos : Nat) (i : Instr) (w : Syl), i.wf = true → encode cls i = some w → decodeSyl cls pos w = .ok i

/-- A word that decodes is the encoding of the instruction it decodes to, and that instruction is well formed: no bit of a syllable is dropped, and a non-zero bit that a format marks zero is refused (R18 to R24). -/
def Obligations.DecodedWordIsItsEncoding : Prop :=
  ∀ (cls : SlotClass) (pos : Nat) (i : Instr) (w : Syl), decodeSyl cls pos w = .ok i → encode cls i = some w ∧ i.wf = true

/-- A step runs the decoded instruction (R26, R29, R34). When a cycle of core c that has come is the next turn, its selector chooses strand t, the strand owes no cycle, and the bytes at its pc decode to a bundle: with the one syllable i in slot sl that passes the checks of steps 2 and 3 of R26, the step is exec of i in that slot, followed by what the step adds: the bundle's cycles and the next pc (afterIssue), the selector's record of the choice, and the end of the core's cycle (endCycle: L positions, lockstep, the next cycle). With several syllables, each of which would take its effect by itself and takes it after those before it, the step is their effects in slot order, a wait that has passed only retiring; in any state, where one of them blocks by itself, and none is a phase, the attempt to issue the bundle blocks and nothing of it happens; where the last faults by itself, and those before it take their effects, the attempt is that fault alone. Those verdicts of a bundle are log 12 (DEDUCED). -/
def Obligations.StepRunsDecodedInstruction : Prop :=
  (∀ (s : State) (c t : Nat) (us : List Turn) (s2 s0 : State) (e : State × List Nat) (bytes : List Byte) (b : Bundle),
    s.stopped = false → s.turns = .cycle c :: us → 0 < (s.coreAt c).due → (s.coreAt c).wg.isSome = true → s.resync.contains c = false →
    e = ((s.withTurns us).spendDue c).beforeRun c → (e.1.coreAt c).select e.2 = some t →
    s2 = (e.1.modCore c fun k => k.countWaits e.2 (some t)) →
    (s2.strandAt c t).owed = 0 →
    (s2.fetch c t).1 = .ok bytes → s0 = (s2.fetch c t).2.atBundle c t →
    (s0.strandAt c t).decodeNext bytes = .ok b →
    (∀ p ∈ b.syls, p.2.homeSlot.isSome = true ∧ s0.privSyl p.2 = false) →
    (∀ (sl : Slot) (i : Instr) (u : State), b.syls = [(sl, i)] → s0.core.badSuffix b.hdr = false →
      exec i (s0.atSlot b.hdr sl) = .next u → u.cur.verdict = .ok →
      s2.attempt c t = ⟨.ok, b.hdr.yield, b.hdr, u⟩
      ∧ step s = .next ((State.modCore { u.afterIssue c t b.hdr (s2.strandAt c t).repActive with cur := s2.cur } c fun k =>
          { k with runner := some t, lastRan := t, decision := true, lastW := b.hdr.yield }).endCycle c))
    ∧ (∀ u : State, (∀ p ∈ b.syls, s0.alone b.hdr p .ok) → State.slotsTake b.hdr b.syls (s0.verdict .ok) u → s0.core.badSuffix b.hdr = false →
      s2.attempt c t = ⟨.ok, b.hdr.yield, b.hdr, u⟩
      ∧ step s = .next ((State.modCore { u.afterIssue c t b.hdr (s2.strandAt c t).repActive with cur := s2.cur } c fun k =>
          { k with runner := some t, lastRan := t, decision := true, lastW := b.hdr.yield }).endCycle c)))
  ∧ ∀ (s2 s0 : State) (c t : Nat) (bytes : List Byte) (b : Bundle),
    (s2.fetch c t).1 = .ok bytes → s0 = (s2.fetch c t).2.atBundle c t →
    (s0.strandAt c t).decodeNext bytes = .ok b →
    (∀ p ∈ b.syls, p.2.homeSlot.isSome = true ∧ s0.privSyl p.2 = false) →
    (s2.strandAt c t).sent = none →
    ((∃ p ∈ b.syls, s0.alone b.hdr p .blocked) → (∀ p ∈ b.syls, p.2 ≠ .phase) →
      s2.attempt c t = ⟨.blocked, b.hdr.yield, b.hdr, s0⟩)
    ∧ (∀ before sl i t1 u, b.syls = before ++ [(sl, i)] →
      (∀ p ∈ before, s0.alone b.hdr p .ok) → State.slotsTake b.hdr before (s0.verdict .ok) t1 →
      exec i (s0.atSlot b.hdr sl) = .next u → u.cur.verdict = .faulted →
      s2.attempt c t = ⟨.faulted, b.hdr.yield, b.hdr, u⟩)

/-! ### The S slot -/

/-- R180 and R35: the one-cycle integer instructions of two or three operands give d their value of the table one context cycle later and change nothing else, wherever the strand has room for one more held result. Also: R19, R30, R31, R32, R171 and R172: what a source code reads, what a landing does to the strand (a push becomes b0, every position grows one older, a named destination takes the same value, a mask is written whole, and nothing else changes), that of two pushes the later becomes b0, and that the held scalar results that fall due at a context cycle land then, in the order in which they are held, and no other. -/
def Obligations.IntegerInstructionsGiveTheirValue : Prop :=
  (∀ (s : State) (code : R5),
    (code.toNat < 16 → s.src code = s.strand.belt.getD code.toNat 0) ∧ (16 ≤ code.toNat → s.src code = s.strand.n.getD (code.toNat - 16) 0))
  ∧ (∀ (x : Strand) (v w : Word) (d e : Option Nat),
    (x.belt.length = 16 → (x.land (.push v d)).belt.length = 16)
    ∧ (x.land (.push v d)).belt.getD 0 0 = v ∧ (∀ k, k < 15 → (x.land (.push v d)).belt.getD (k + 1) 0 = x.belt.getD k 0)
    ∧ x.land (.push v d) = { x with belt := (x.land (.push v d)).belt, n := (x.land (.push v d)).n }
    ∧ (d = none → (x.land (.push v d)).n = x.n)
    ∧ (∀ r, (d = some r → r < x.n.length → (x.land (.push v d)).n.getD r 0 = v) ∧ (∀ q, d = some r → q ≠ r → (x.land (.push v d)).n.getD q 0 = x.n.getD q 0)
      ∧ (r < x.n.length → (x.land (.named r v)).n.getD r 0 = v) ∧ (∀ q, q ≠ r → (x.land (.named r v)).n.getD q 0 = x.n.getD q 0)
      ∧ x.land (.named r v) = { x with n := (x.land (.named r v)).n })
    ∧ (∀ m, x.land (.mask false m) = { x with em := m } ∧ x.land (.mask true m) = { x with cm := m })
    ∧ ((x.land (.push v d)).land (.push w e)).belt.getD 0 0 = w ∧ ((x.land (.push v d)).land (.push w e)).belt.getD 1 0 = v)
  ∧ (∀ (s : State) (c t : Nat) (hs : List (Nat × Landing)), (s.coreAt c).lq = [] → (s.strandAt c t).past = none →
    (s.strandAt c t).held = hs.map (fun h => ⟨.scalar h.1 h.2, true, []⟩) →
    (s.landDue c t).strandAt c t
      = { (hs.filter fun h => h.1 ≤ (s.strandAt c t).ctime).foldl (fun (x : Strand) h => x.land h.2) (s.strandAt c t) with
          held := (hs.filter fun h => (s.strandAt c t).ctime < h.1).map fun h => ⟨.scalar h.1 h.2, true, []⟩ })
  ∧ ∀ (f : SR) (s : State), s.room 1 →
    exec (.add f) s = .next (s.gives f.d 1 (BitVec.ofNat 64 ((s.src f.a).toNat + (s.src f.b).toNat)))
    ∧ exec (.sub f) s = .next (s.gives f.d 1 (BitVec.ofInt 64 ((s.src f.a).toInt - (s.src f.b).toInt)))
    ∧ exec (.and f) s = .next (s.gives f.d 1 (s.src f.a &&& s.src f.b))
    ∧ exec (.or f) s = .next (s.gives f.d 1 (s.src f.a ||| s.src f.b))
    ∧ exec (.xor f) s = .next (s.gives f.d 1 (s.src f.a ^^^ s.src f.b))
    ∧ exec (.shl f) s = .next (s.gives f.d 1 (BitVec.ofNat 64 ((s.src f.a).toNat * 2 ^ ((s.src f.b).toNat % 64))))
    ∧ exec (.shr f) s = .next (s.gives f.d 1 (BitVec.ofNat 64 ((s.src f.a).toNat / 2 ^ ((s.src f.b).toNat % 64))))
    ∧ exec (.sra f) s = .next (s.gives f.d 1 (BitVec.ofInt 64 ((s.src f.a).toInt / 2 ^ ((s.src f.b).toNat % 64))))
    ∧ exec (.rotr f) s = .next (s.gives f.d 1
        ((s.src f.a >>> ((s.src f.b).toNat % 64)) ||| (s.src f.a <<< (64 - (s.src f.b).toNat % 64))))
    ∧ exec (.min f) s = .next (s.gives f.d 1 (if (s.src f.a).toInt ≤ (s.src f.b).toInt then s.src f.a else s.src f.b))
    ∧ exec (.max f) s = .next (s.gives f.d 1 (if (s.src f.b).toInt ≤ (s.src f.a).toInt then s.src f.a else s.src f.b))
    ∧ exec (.minu f) s = .next (s.gives f.d 1 (BitVec.ofNat 64 (min (s.src f.a).toNat (s.src f.b).toNat)))
    ∧ exec (.maxu f) s = .next (s.gives f.d 1 (BitVec.ofNat 64 (max (s.src f.a).toNat (s.src f.b).toNat)))
    ∧ exec (.seq f) s = .next (s.gives f.d 1 (if s.src f.a = s.src f.b then 1 else 0))
    ∧ exec (.sne f) s = .next (s.gives f.d 1 (if s.src f.a = s.src f.b then 0 else 1))
    ∧ exec (.slt f) s = .next (s.gives f.d 1 (if (s.src f.a).toInt < (s.src f.b).toInt then 1 else 0))
    ∧ exec (.sltu f) s = .next (s.gives f.d 1 (if (s.src f.a).toNat < (s.src f.b).toNat then 1 else 0))
    ∧ exec (.sel f) s = .next (s.gives f.d 1 (if s.src f.c = 0 then s.src f.b else s.src f.a))
    ∧ exec (.mov f) s = .next (s.gives f.d 1 (s.src f.a))
    ∧ exec (.padd f) s = .next (s.gives f.d 1
        (BitVec.ofNat 64 ((s.src f.a).toNat / 2 ^ 60 * 2 ^ 60 + ((s.src f.a).toNat % 2 ^ 60 + (s.src f.b).toNat) % 2 ^ 60)))

/-- R180 and R35: the products land after three cycles and are the halves of the 128-bit product; the bit counts land after one, each the number from 0 to 64 that the table names. Also: R180, R181 and R35: a division whose slot's divider has been free for eight context cycles gives its value after twenty and occupies the divider. -/
def Obligations.ProductsDivisionsAndBitCounts : Prop :=
  (∀ (f : SR) (s : State), s.room 1 →
      (∃ lo hi : Word, hi ++ lo = BitVec.ofInt 128 ((s.src f.a).toInt * (s.src f.b).toInt)
        ∧ exec (.mul f) s = .next (s.gives f.d 3 lo) ∧ exec (.mulh f) s = .next (s.gives f.d 3 hi))
      ∧ (∃ lo hi : Word, hi ++ lo = BitVec.ofNat 128 ((s.src f.a).toNat * (s.src f.b).toNat)
        ∧ exec (.mul f) s = .next (s.gives f.d 3 lo) ∧ exec (.mulhu f) s = .next (s.gives f.d 3 hi))
      ∧ (∃ n ≤ 64, exec (.clz f) s = .next (s.gives f.d 1 (word n))
        ∧ (∀ k, k < n → (s.src f.a).getLsbD (63 - k) = false) ∧ (n < 64 → (s.src f.a).getLsbD (63 - n) = true))
      ∧ (∃ n ≤ 64, exec (.ctz f) s = .next (s.gives f.d 1 (word n))
        ∧ (∀ k, k < n → (s.src f.a).getLsbD k = false) ∧ (n < 64 → (s.src f.a).getLsbD n = true))
      ∧ exec (.popc f) s = .next (s.gives f.d 1 (word ((List.range 64).countP fun k => (s.src f.a).getLsbD k))))
  ∧ ∀ (f : SR) (s : State), s.room 1 → s.divFree (s.cur.slot.divUnit false) 8 →
      exec (.div f) s = .next (s.givesDiv (s.cur.slot.divUnit false) f.d 20
          (if s.src f.b = 0 then 0xFFFFFFFFFFFFFFFF else BitVec.ofInt 64 ((s.src f.a).toInt.tdiv (s.src f.b).toInt)))
      ∧ exec (.divu f) s = .next (s.givesDiv (s.cur.slot.divUnit false) f.d 20
          (if s.src f.b = 0 then 0xFFFFFFFFFFFFFFFF else BitVec.ofNat 64 ((s.src f.a).toNat / (s.src f.b).toNat)))
      ∧ exec (.rem f) s = .next (s.givesDiv (s.cur.slot.divUnit false) f.d 20
          (if s.src f.b = 0 then s.src f.a else BitVec.ofInt 64 ((s.src f.a).toInt.tmod (s.src f.b).toInt)))
      ∧ exec (.remu f) s = .next (s.givesDiv (s.cur.slot.divUnit false) f.d 20
          (if s.src f.b = 0 then s.src f.a else BitVec.ofNat 64 ((s.src f.a).toNat % (s.src f.b).toNat)))

/-- R182, R183 and R35: the immediate instructions give their value one context cycle later. -/
def Obligations.ImmediateInstructionsGiveTheirValue : Prop :=
  (∀ (f : SI) (s : State), s.room 1 →
    exec (.addi f) s = .next (s.gives f.d 1 (BitVec.ofInt 64 ((s.src f.a).toInt + f.imm.toInt)))
    ∧ exec (.andi f) s = .next (s.gives f.d 1 (s.src f.a &&& BitVec.ofInt 64 f.imm.toInt))
    ∧ exec (.ori f) s = .next (s.gives f.d 1 (s.src f.a ||| BitVec.ofInt 64 f.imm.toInt))
    ∧ exec (.xori f) s = .next (s.gives f.d 1 (s.src f.a ^^^ BitVec.ofInt 64 f.imm.toInt))
    ∧ exec (.shli f) s = .next (s.gives f.d 1 (BitVec.ofNat 64 ((s.src f.a).toNat * 2 ^ (f.imm.toNat % 64))))
    ∧ exec (.shri f) s = .next (s.gives f.d 1 (BitVec.ofNat 64 ((s.src f.a).toNat / 2 ^ (f.imm.toNat % 64))))
    ∧ exec (.srai f) s = .next (s.gives f.d 1 (BitVec.ofInt 64 ((s.src f.a).toInt / 2 ^ (f.imm.toNat % 64))))
    ∧ exec (.rotri f) s = .next (s.gives f.d 1 ((s.src f.a >>> (f.imm.toNat % 64)) ||| (s.src f.a <<< (64 - f.imm.toNat % 64))))
    ∧ exec (.slti f) s = .next (s.gives f.d 1 (if (s.src f.a).toInt < f.imm.toInt then 1 else 0))
    ∧ exec (.sltui f) s = .next (s.gives f.d 1 (if (s.src f.a).toNat < (BitVec.ofInt 64 f.imm.toInt).toNat then 1 else 0))
    ∧ exec (.seqi f) s = .next (s.gives f.d 1 (if (s.src f.a).toInt = f.imm.toInt then 1 else 0))
    ∧ exec (.ptag f) s = .next (s.gives f.d 1 (BitVec.ofNat 64 (f.imm.toNat / 2 ^ 7 * 2 ^ 56 + (s.src f.a).toNat % 2 ^ 56))))
  ∧ ∀ (f : SL) (s : State), s.room 1 →
    exec (.li f) s = .next (s.gives f.d 1 (BitVec.ofInt 64 f.imm.toInt))
    ∧ exec (.lcat f) s = .next (s.gives f.d 1 (BitVec.ofNat 64 ((s.strand.n.getD f.d.toNat 0).toNat * 2 ^ 20 + f.imm.toNat)))
    ∧ exec (.lpc f) s = .next (s.gives f.d 1 (BitVec.ofInt 64 (s.cur.pc.toInt + f.imm.toInt * 32)))

/-- R177, R178, R179, R184, R185 and R176: the two-result instructions push lo and then hi and name n(d) and n(d+1), and the pair of rng comes from the four rounds of R184; the mask instructions write all 128 bits of their mask and push their value. -/
def Obligations.PairAndMaskInstructions : Prop :=
  (∀ (c0 c1 key : Word) (y : Nat → Nat → BitVec 32),
    y 0 0 = c0.extractLsb' 0 32 → y 0 1 = c0.extractLsb' 32 32 → y 0 2 = c1.extractLsb' 0 32 → y 0 3 = c1.extractLsb' 32 32 →
    (∀ i, i < 4 → ∀ a0 a1 a2 a3 : BitVec 32, a0 = y i 0 + y i 1 + key.extractLsb' (32 * (i % 2)) 32 → a3 = (y i 3 ^^^ a0).rotateLeft 16 →
      a2 = y i 2 + a3 → a1 = (y i 1 ^^^ a2).rotateLeft 12 →
      y (i + 1) 0 = a0 + a1 ∧ y (i + 1) 3 = (a3 ^^^ y (i + 1) 0).rotateLeft 8
      ∧ y (i + 1) 2 = a2 + y (i + 1) 3 + BitVec.ofNat 32 i ∧ y (i + 1) 1 = (a1 ^^^ y (i + 1) 2).rotateLeft 7) →
    rngPair c0 c1 key = ((y 4 1 ^^^ y 0 1) ++ (y 4 0 ^^^ y 0 0), (y 4 3 ^^^ y 0 3) ++ (y 4 2 ^^^ y 0 2)))
  ∧ ∀ (f : SR) (s : State),
    (s.room 2 → ∀ nd nd1 : Option Nat, nd = (if f.d.toNat ≤ 15 then some f.d.toNat else none) → nd1 = nd.map (· + 1) →
      exec (.rng f) s = .next (s.holds 4
        [.push (rngPair (namedSrc s.strand f.a 0) (namedSrc s.strand f.a 1) (s.src f.b)).1 nd,
         .push (rngPair (namedSrc s.strand f.a 0) (namedSrc s.strand f.a 1) (s.src f.b)).2 nd1])
      ∧ ∃ lo hi : Word, hi ++ lo = BitVec.ofNat 128
            ((namedSrc s.strand f.a 1).toNat * 2 ^ 64 + (namedSrc s.strand f.a 0).toNat + (s.src f.b).toNat)
          ∧ exec (.ctradd f) s = .next (s.holds 1 [.push lo nd, .push hi nd1]))
    ∧ (s.room 1 → exec (.msave f) s = .next (s.gives f.d 1
        ((if f.fn.getLsbD 0 then s.strand.cm else s.strand.em).extractLsb' (if f.fn.getLsbD 1 then 64 else 0) 64)))
    ∧ (s.room 2 → ∃ m : Mask, exec (.mrest f) s = .next (s.holds 1
          [.push ((if f.fn.getLsbD 0 then s.strand.cm else s.strand.em).extractLsb' (if f.fn.getLsbD 1 then 64 else 0) 64)
            (if f.d.toNat ≤ 15 then some f.d.toNat else none), .mask (f.fn.getLsbD 0) m])
        ∧ ∀ k, k < 128 → m.getLsbD k = (if k / 64 = (if f.fn.getLsbD 1 then 1 else 0) then (s.src f.a).getLsbD (k % 64)
            else (if f.fn.getLsbD 0 then s.strand.cm else s.strand.em).getLsbD k))
    ∧ (s.room 2 → f.fn.toNat < 8 → ∀ m : Mask,
        m = [s.strand.em &&& s.strand.cm, s.strand.em &&& ~~~s.strand.cm, s.strand.em ||| s.strand.cm, s.strand.cm, ~~~s.strand.cm,
             BitVec.allOnes 128, s.strand.em, s.strand.cm &&& s.strand.em].getD f.fn.toNat 0 →
        exec (.mcomb f) s = .next (s.holds 1
          [.push (word ((List.range 128).countP fun k => m.getLsbD k)) (if f.d.toNat ≤ 15 then some f.d.toNat else none),
           .mask (f.fn.toNat == 4 || f.fn.toNat == 6 || f.fn.toNat == 7) m]))
    ∧ (s.room 2 → f.fn.toNat < 4 → ∃ m : Mask, exec (.mcm f) s = .next (s.holds 1
          [.push (word ((List.range 128).countP fun k => m.getLsbD k)) (if f.d.toNat ≤ 15 then some f.d.toNat else none),
           .mask (f.fn.toNat % 2 == 0) m])
        ∧ ∀ k, k < 128 → (m.getLsbD k = true ↔
            if f.fn.toNat < 2 then k < (s.src f.a).toNat else (s.src f.a).toNat ≤ k ∧ k < (s.src f.b).toNat))

/-- R186, R187, R188, R189 and R35: the floating-point instructions give the value that the format's arithmetic gives, with the latency of their row; fdiv and fsqrt need their slot's divider free for four cycles; fabs and fneg touch only the sign bit. fcvt converts by its kind: an integer or a value of another format enters the target format once; into an integer a NaN gives 0, and every other value is rounded in the mode to an integer and then clamped to the range. -/
def Obligations.FloatingPointInstructions : Prop :=
  ∀ (f : SR) (s : State), s.room 1 →
    exec (.fadd f) s = .next (s.gives f.d 4 (fpEnc f.dbl (fpMode f) (FVal.add (fpMode f) (fpVal f.dbl (s.src f.a)) (fpVal f.dbl (s.src f.b)))))
    ∧ exec (.fsub f) s = .next (s.gives f.d 4 (fpEnc f.dbl (fpMode f) (FVal.add (fpMode f) (fpVal f.dbl (s.src f.a)) (fpVal f.dbl (s.src f.b)).neg)))
    ∧ exec (.fmul f) s = .next (s.gives f.d 4 (fpEnc f.dbl (fpMode f) (FVal.mul (fpVal f.dbl (s.src f.a)) (fpVal f.dbl (s.src f.b)))))
    ∧ exec (.ffma f) s = .next (s.gives f.d 5 (fpEnc f.dbl (fpMode f)
        (FVal.add (fpMode f) (FVal.mul (fpVal f.dbl (s.src f.a)) (fpVal f.dbl (s.src f.b))) (fpVal f.dbl (s.src f.c)))))
    ∧ (s.divFree (s.cur.slot.divUnit true) 4 →
        exec (.fdiv f) s = .next (s.givesDiv (s.cur.slot.divUnit true) f.d (if f.dbl then 22 else 14)
          (fpEnc f.dbl (fpMode f) (FVal.div (fpVal f.dbl (s.src f.a)) (fpVal f.dbl (s.src f.b)))))
        ∧ exec (.fsqrt f) s = .next (s.givesDiv (s.cur.slot.divUnit true) f.d (if f.dbl then 22 else 14)
          (fpEnc f.dbl (fpMode f) (fpVal f.dbl (s.src f.a)).sqrt)))
    ∧ exec (.fmin f) s = .next (s.gives f.d 4 (word ((fpFmt f.dbl).min (fpBits f.dbl (s.src f.a)) (fpBits f.dbl (s.src f.b)))))
    ∧ exec (.fmax f) s = .next (s.gives f.d 4 (word ((fpFmt f.dbl).max (fpBits f.dbl (s.src f.a)) (fpBits f.dbl (s.src f.b)))))
    ∧ exec (.feq f) s = .next (s.gives f.d 4 (if FVal.eq (fpVal f.dbl (s.src f.a)) (fpVal f.dbl (s.src f.b)) then 1 else 0))
    ∧ exec (.flt f) s = .next (s.gives f.d 4 (if FVal.lt (fpVal f.dbl (s.src f.a)) (fpVal f.dbl (s.src f.b)) then 1 else 0))
    ∧ exec (.fle f) s = .next (s.gives f.d 4 (if FVal.le (fpVal f.dbl (s.src f.a)) (fpVal f.dbl (s.src f.b)) then 1 else 0))
    ∧ (f.b = 0 → exec (.fcvt f) s = .next (s.gives f.d 3 (fpEnc f.dbl (fpMode f) (FVal.ofInt (s.src f.a).toInt))))
    ∧ (f.b = 1 → exec (.fcvt f) s = .next (s.gives f.d 3 (fpEnc f.dbl (fpMode f) (FVal.ofNat (s.src f.a).toNat))))
    ∧ (∀ lo hi : Int, (f.b = 2 ∧ lo = -(2 ^ 63) ∧ hi = 2 ^ 63 - 1) ∨ (f.b = 3 ∧ lo = 0 ∧ hi = 2 ^ 64 - 1) →
        (fpVal f.dbl (s.src f.a) = .nan → exec (.fcvt f) s = .next (s.gives f.d 3 0))
        ∧ (∀ neg, fpVal f.dbl (s.src f.a) = .inf neg → exec (.fcvt f) s = .next (s.gives f.d 3 (BitVec.ofInt 64 (if neg then lo else hi))))
        ∧ ∀ neg n d, fpVal f.dbl (s.src f.a) = .fin neg n d → 0 < d → ∀ x : Int, x = (if neg then -(n : Int) else n) →
          ∃ q : Int, exec (.fcvt f) s = .next (s.gives f.d 3 (BitVec.ofInt 64 (max lo (min hi q))))
            ∧ (fpMode f = .rtz → q = x.tdiv d) ∧ (fpMode f = .rdn → q = x.fdiv d) ∧ (fpMode f = .rup → q = -((-x).fdiv d))
            ∧ (fpMode f = .rne → 2 * (q * d - x).natAbs ≤ d ∧ (2 * (q * d - x).natAbs = d → q % 2 = 0)))
    ∧ (f.b = 4 → exec (.fcvt f) s = .next (s.gives f.d 3 (fpEnc f.dbl (fpMode f) (fpVal (!f.dbl) (s.src f.a)))))
    ∧ (f.b = 5 → exec (.fcvt f) s = .next (s.gives f.d 3 (word (fmtBf16.encode (fpMode f) false (fpVal f.dbl (s.src f.a))))))
    ∧ (f.b = 6 → exec (.fcvt f) s = .next (s.gives f.d 3 (fpEnc f.dbl (fpMode f) (fmtBf16.decode ((s.src f.a).toNat % 65536)))))
    ∧ (f.b = 7 → exec (.fcvt f) s = .next (s.gives f.d 3 (word (fmtF16.encode (fpMode f) false (fpVal f.dbl (s.src f.a))))))
    ∧ (f.b = 8 → exec (.fcvt f) s = .next (s.gives f.d 3 (fpEnc f.dbl (fpMode f) (fmtF16.decode ((s.src f.a).toNat % 65536)))))
    ∧ (f.dbl = true →
        exec (.fabs f) s = .next (s.gives f.d 1 (s.src f.a &&& 0x7FFFFFFFFFFFFFFF))
        ∧ exec (.fneg f) s = .next (s.gives f.d 1 (s.src f.a ^^^ 0x8000000000000000)))
    ∧ (f.dbl = false →
        exec (.fabs f) s = .next (s.gives f.d 1 (s.src f.a &&& 0x7FFFFFFF))
        ∧ exec (.fneg f) s = .next (s.gives f.d 1 ((s.src f.a &&& 0xFFFFFFFF) ^^^ 0x80000000)))

/-- R187: fclass sets the one bit of d that the sign, the exponent and the fraction of its operand select. -/
def Obligations.FclassSetsOneBit : Prop :=
  ∀ (f : SR) (s : State) (x p bias top : Nat) (neg : Bool), s.room 1 → x = fpBits f.dbl (s.src f.a) →
    p = (if f.dbl then 52 else 23) → top = (if f.dbl then 2047 else 255) → bias = x / 2 ^ p % (top + 1) → neg = x.testBit (if f.dbl then 63 else 31) →
    exec (.fclass f) s = .next (s.gives f.d 4 (word (2 ^
      (if bias = top then (if x % 2 ^ p = 0 then (if neg then 0 else 7) else if x.testBit (p - 1) then 9 else 8)
       else if bias = 0 then (if x % 2 ^ p = 0 then (if neg then 3 else 4) else (if neg then 2 else 5))
       else (if neg then 1 else 6)))))

/-- R33 and R34: an S-slot instruction whose result would raise the count of held results above 64 faults with SCHED at its slot, and has no other effect. Also: R35 and R181: a division sooner than its issue interval after the last of its kind in the same slot faults with SCHED. -/
def Obligations.FullResultsAndBusyDividersFaultSched : Prop :=
  (∀ (f : SR) (g : SI) (l : SL) (s : State), ¬ s.room 1 →
      ∀ i ∈ [Instr.add f, .sub f, .mul f, .mulh f, .mulhu f, .and f, .or f, .xor f, .shl f, .shr f, .sra f, .rotr f, .min f, .max f,
             .minu f, .maxu f, .seq f, .sne f, .slt f, .sltu f, .sel f, .clz f, .ctz f, .popc f, .mov f, .padd f,
             .addi g, .andi g, .ori g, .xori g, .shli g, .shri g, .srai g, .rotri g, .slti g, .sltui g, .seqi g, .ptag g,
             .li l, .lcat l, .lpc l, .msave f, .fadd f, .fsub f, .fmul f, .ffma f, .fmin f, .fmax f, .feq f, .flt f, .fle f,
             .fclass f, .fcvt f, .fabs f, .fneg f, .div f, .divu f, .rem f, .remu f, .fdiv f, .fsqrt f],
        exec i s = .next (s.takePrecise (s.precise cSched 0)))
  ∧ ∀ (f : SR) (g : VF) (s : State),
      (¬ s.divFree (s.cur.slot.divUnit false) 8 → ∀ i ∈ [Instr.div f, .divu f, .rem f, .remu f],
        exec i s = .next (s.takePrecise (s.precise cSched 0)))
      ∧ (¬ s.divFree (s.cur.slot.divUnit true) 4 → ∀ i ∈ [Instr.fdiv f, .fsqrt f, .vdiv g, .vsqrt g],
        exec i s = .next (s.takePrecise (s.precise cSched 0)))

/-! ### Loads and stores -/

/-- R190: the checks of a load or a store that is not held at selection (R142, R306) are made at issue, in a bundle whose atomic has not been performed yet (R170), in the order SPACE, ALIGN, BANK, SCHED of the spacing rule, SCHED of the accumulator row, and the first failure is what the instruction faults with; space 1 runs linearly across banks of 65,536 bytes. -/
def Obligations.AccessChecksInOrder : Prop :=
  ∀ (f : SI) (g : SS) (s : State) (i : Instr) (n : Nat) (store : Bool) (p : Word),
    ((i, n, store, p) ∈ [(Instr.ldB f, 1, false, s.access f.a f.imm), (.ldH f, 2, false, s.access f.a f.imm), (.ldW f, 4, false, s.access f.a f.imm),
      (.ldD f, 8, false, s.access f.a f.imm), (.ldnB f, 1, false, s.access f.a f.imm), (.ldnH f, 2, false, s.access f.a f.imm),
      (.ldnW f, 4, false, s.access f.a f.imm), (.stB g, 1, true, s.access g.base g.imm), (.stH g, 2, true, s.access g.base g.imm),
      (.stW g, 4, true, s.access g.base g.imm), (.stD g, 8, true, s.access g.base g.imm)]) →
    s.fenceHolds clsS = false → (∀ l bank, localPtr p = some l → l.bank = some bank → s.lLatched bank = false) →
    (localPtr p = none → exec i s = .next (s.takePrecise (s.precise cSpace 0)))
    ∧ ∀ l, localPtr p = some l →
      (p.toNat % n ≠ 0 → exec i s = .next (s.takePrecise (s.precise cAlign 0)))
      ∧ (p.toNat % n = 0 →
        (∀ bank, l.bank = some bank →
          (bfmtValid (s.core.fmt bank) = false → exec i s = .next (s.takePrecise (s.precise cBank 0)))
          ∧ (bfmtValid (s.core.fmt bank) = true → s.lTooSoon bank = true → exec i s = .next (s.takePrecise (s.precise cSched 0))))
        ∧ ∀ tile off, s.cur.sure = false → l = .acc tile off → (s.core.acc tile).w ≤ off / 256 ∨ (store = true ∧ s.core.engaged tile = true) →
            exec i s = .next (s.takePrecise (s.precise cSched 0)))
      ∧ (Word.space p = 1 ∨ Word.space p = 3 ∨ Word.space p = 4) ∧ (Word.space p = 1 → l = .spad (p.toNat % 2 ^ 60) ∧ bankOf (p.toNat % 2 ^ 60) = p.toNat % 2 ^ 60 / 65536)

/-- R190, R191, R192, R193 and R35: a load that passes its checks puts its access into its bank's latch, holds its result for the eighth context cycle after its issue, and changes no byte; when the access is performed on what is stored then, here the same memory, the held result is its bytes sign- or zero-extended: of a sound scratchpad line, or of a record of the scale store that is not poisoned. A load of an accumulator element below the watermark gives its bytes at issue. Also: R137, R193 and R329: the access of a load to a poisoned line of its own world gives zero and reports POISON to its strand with the line in FADDR. -/
def Obligations.LoadsGiveTheirBytes : Prop :=
  ∀ (f : SI) (s : State) (i : Instr) (n : Nat) (signed : Bool) (p : Word),
    ((i, n, signed) ∈ [(Instr.ldB f, 1, true), (.ldH f, 2, true), (.ldW f, 4, true), (.ldD f, 8, false), (.ldnB f, 1, false),
      (.ldnH f, 2, false), (.ldnW f, 4, false)]) →
    s.room 1 → p = s.access f.a f.imm → p.toNat % n = 0 →
    (∀ l bank a t, localPtr p = some l → l.bank = some bank → s.bankOpen clsS bank → a = s.lAccess bank clsS (.load p n signed) [] →
      t = (s.latches bank clsS (.load p n signed) []).done { (s.latches bank clsS (.load p n signed) []).strand with
        held := s.strand.held ++ [⟨.load s.nextId (s.strand.ctime + 8) (named f.d), true, s.cur.arrive⟩] } →
      exec i s = .next t
      ∧ ((∀ h ∈ s.strand.held, ∀ due d, h.kind ≠ .load s.nextId due d) →
        (∀ addr, l = .spad addr → s.core.sound s.strand.world (addr / 64) →
          (t.performL s.cur.core a).strand.held = s.strand.held ++ [⟨.scalar (s.strand.ctime + 8)
            (.push (extended signed n (leNat ((List.range n).map fun j => s.core.byteAt (addr + j)))) (named f.d)), true, s.cur.arrive⟩])
        ∧ (∀ rc b, l = .scale bank rc b → (s.core.rec_ (bank * 128 + rc)).poison = false →
          (t.performL s.cur.core a).strand.held = s.strand.held ++ [⟨.scalar (s.strand.ctime + 8)
            (.push (extended signed n (leNat ((List.range n).map fun j =>
              if (s.core.rec_ (bank * 128 + rc)).written then Memory.read s.core.scale (scaleAddr bank rc b + j) else 0))) (named f.d)), true, s.cur.arrive⟩])
        ∧ (∀ addr, l = .spad addr → s.strand.status = .running → s.strand.reports = [] →
          (s.core.line (addr / 64)).written = true → (s.core.line (addr / 64)).tag = s.strand.world → (s.core.line (addr / 64)).err = Ecc.sound →
          (s.core.line (addr / 64)).poison = true → vctlEn s.core.vctl = false →
          (t.performL s.cur.core a).strand.held = s.strand.held ++ [⟨.scalar (s.strand.ctime + 8) (.push 0 (named f.d)), true, s.cur.arrive⟩]
          ∧ (t.performL s.cur.core a).strand.reports = [imprecise cPoison 0 (word (2 ^ 60 + addr / 64 * 64))])))
    ∧ (∀ tile off, localPtr p = some (.acc tile off) → off / 256 < (s.core.acc tile).w → s.fenceHolds clsS = false →
      exec i s = .next (s.gives f.d 8 (extended signed n
        (leNat (((leBytes 8 ((s.core.acc tile).get (off / 256) (off % 256 / 8)).toNat).drop (off % 8)).take n)))))

/-- R146, R191, R192, R193 and R136: a store that passes its checks reads its data at issue, puts its access into its bank's latch, and changes no byte; performed, the access writes the low bytes of the data at the address that access gives, and no other byte of the core; a store into the scratchpad marks its line written, leaves its tag, and leaves a poisoned line poisoned; a store into the scale store writes bytes 0 to 16 and 18 of a record and leaves the others, which are zero in a record not yet written. A store to an accumulator element below the watermark of a tile that is not engaged is written at issue. -/
def Obligations.StoresWriteTheirBytes : Prop :=
  ∀ (f : SS) (s : State) (i : Instr) (n : Nat) (p : Word),
    ((i, n) ∈ [(Instr.stB f, 1), (.stH f, 2), (.stW f, 4), (.stD f, 8)]) → p = s.access f.base f.imm → p.toNat % n = 0 →
    (∀ l bank op a t, localPtr p = some l → l.bank = some bank → s.bankOpen clsS bank →
      op = .store p ((List.range n).map fun j => (s.src f.data).extractLsb' (8 * j) 8) → a = s.lAccess bank clsS op s.cur.arrive →
      t = (s.latches bank clsS op s.cur.arrive).verdict .ok →
      exec i s = .next t
      ∧ (∀ addr, l = .spad addr →
        ∃ k : Core, t.performL s.cur.core a = (t.putCore k).arriveOp a.info
          ∧ k = { t.core with lq := k.lq, spad := k.spad, lines := k.lines }
          ∧ (∀ b, k.byteAt b = if addr ≤ b ∧ b < addr + n then (s.src f.data).extractLsb' (8 * (b - addr)) 8 else s.core.byteAt b)
          ∧ (k.line (addr / 64)).written = true ∧ (k.line (addr / 64)).poison = (s.core.line (addr / 64)).poison
          ∧ (k.line (addr / 64)).tag = (s.core.line (addr / 64)).tag
          ∧ ∀ l, l ≠ addr / 64 → k.line l = s.core.line l)
      ∧ (∀ rc b, l = .scale bank rc b →
        ∃ k : Core, t.performL s.cur.core a = (t.putCore k).arriveOp a.info
          ∧ k = { t.core with lq := k.lq, scale := k.scale, recs := k.recs }
          ∧ (∀ x, (s.core.rec_ (x / 32)).written = true → ¬ (scaleAddr bank rc b ≤ x ∧ x < scaleAddr bank rc b + n) →
              Memory.read k.scale x = Memory.read s.core.scale x)
          ∧ (∀ j, j < n → b + j ≤ 16 ∨ b + j = 18 → Memory.read k.scale (scaleAddr bank rc b + j) = (s.src f.data).extractLsb' (8 * j) 8)
          ∧ (∀ j, j < n → b + j = 17 ∨ 19 ≤ b + j → Memory.read k.scale (scaleAddr bank rc b + j)
              = if (s.core.rec_ (bank * 128 + rc)).written then Memory.read s.core.scale (scaleAddr bank rc b + j) else 0)
          ∧ (k.rec_ (bank * 128 + rc)).written = true))
    ∧ (∀ tile off, localPtr p = some (.acc tile off) → off / 256 < (s.core.acc tile).w → s.core.engaged tile = false →
      s.fenceHolds clsS = false →
      ∃ a : Acc, exec i s = .next (s.putCore (s.core.setAcc tile a)).retires
        ∧ a = { s.core.acc tile with el := a.el }
        ∧ (∀ r c, r < 32 → c < 32 → ¬ (r = off / 256 ∧ c = off % 256 / 8) → a.get r c = (s.core.acc tile).get r c)
        ∧ ∀ j, j < 8 → (a.get (off / 256) (off % 256 / 8)).extractLsb' (8 * j) 8
            = if off % 8 ≤ j ∧ j < off % 8 + n then (s.src f.data).extractLsb' (8 * (j - off % 8)) 8
              else ((s.core.acc tile).get (off / 256) (off % 256 / 8)).extractLsb' (8 * j) 8)

/-! ### The V slot -/

/-- R21, R30, R33 and R35: wherever the strand has room for one more held result, an arithmetic, logical, move, conversion, scan or reduction syllable of the V slot starts to read its columns, which V0 counts from 0 and V1 up to 7, with the latency of its row, and changes nothing else. Also: R212, R35: vdiv and vsqrt do the same on their slot's divider, which must have been free for four cycles. -/
def Obligations.VectorInstructionsStart : Prop :=
  (∀ (f : VF) (s : State) (i : Instr) (lat : Nat), s.room 1 →
      (i, lat) ∈ [(Instr.vadd f, if f.ty.isF then 4 else 2), (.vsub f, if f.ty.isF then 4 else 2), (.vmul f, 4), (.vfma f, 5), (.vfms f, 5), (.vfnma f, 5),
        (.vmin f, if f.ty.isF then 4 else 2), (.vmax f, if f.ty.isF then 4 else 2), (.vabs f, 2), (.vneg f, 2), (.vexp2 f, 8), (.vlog2 f, 8), (.vrcp f, 8),
        (.vrsqrt f, 8), (.vand f, 2), (.vor f, 2), (.vxor f, 2), (.vshl f, 2), (.vshr f, 2), (.vsra f, 2), (.vcmp f, 3), (.vsel f, 2), (.vcvt f, 4),
        (.vbcst f, 2), (.vmov f, 2), (.vslide f, 4), (.vperm f, 4), (.vscan f, 4), (.vred f, if f.ty.isF then 4 else 2), (.vpopc f, 2), (.vdot4 f, 5),
        (.vclass f, 4), (.vadds f, if f.ty.isF then 4 else 2), (.vmuls f, 4), (.vfmas f, 5), (.vmins f, if f.ty.isF then 4 else 2),
        (.vmaxs f, if f.ty.isF then 4 else 2), (.vminn f, 2), (.vmaxn f, 2)] →
      ∃ F : Flight, exec i s = .next (s.starts F true)
        ∧ F.t = s.strand.ctime ∧ F.instr = i ∧ F.lat = lat ∧ F.s = s.src f.va ∧ F.u = s.src f.vb ∧ F.seen = 0
        ∧ F.cols = f.width.bits / 128 ∧ F.c0 = (if s.cur.slot = .v1 then 8 - f.width.bits / 128 else 0))
  ∧ ∀ (f : VF) (s : State) (i : Instr), s.room 1 → s.divFree (s.cur.slot.divUnit true) 4 → i ∈ [Instr.vdiv f, .vsqrt f] →
      ∃ F : Flight, exec i s = .next (s.done { s.strand with
          held := s.strand.held ++ [⟨.vector F, true, s.cur.arrive⟩]
          divider := SMap.set s.strand.divider (s.cur.slot.divUnit true) s.strand.ctime })
        ∧ F.t = s.strand.ctime ∧ F.instr = i ∧ F.lat = (if f.ty = .f64 then 22 else 14)

/-- R211, R213, R214, R216, R219, R220 and R224: the element results of every integer form and every moving form, by the elements of the flight's sources, signed where the form is; an inactive element has none (R207). R210, R211, R213 and R225: those of every floating-point form, the operation of the exact values rounded once, and the class bits. R217 and R218: those of the conversions. R215: landing column j of a vcmp gives CM the condition of each active element of the column, 0 for each inactive one, and leaves every other bit. R221, R222 and R223: a scan's elements and its carry, and the pushed values of vred and vpopc, by the accumulator that runs over the elements. Also: R31 and R207: landing column j of a flight writes each active element of the column whole and leaves the bits of every inactive element as they are. -/
def Obligations.VectorElementsAndTheirLanding : Prop :=
  (∀ (v : VF) (F : Flight) (m : Nat),
      (F.active m = false → F.value m = none)
      ∧ (F.active m = true → ∀ (e M a b c s u : Nat) (el : VReg → Nat → Nat),
        e = v.ty.bits → M = 2 ^ e → (el = fun r k => bitsAt r (128 * F.c0 + e * k) e) →
        a = el F.a m → b = el F.b m → c = el F.c m → s = F.s.toNat % M → u = F.u.toNat % M →
        -- the moves, of every type
        (F.instr = .vmov v → F.value m = some a) ∧ (F.instr = .vbcst v → F.value m = some s)
        ∧ (F.instr = .vsel v → F.value m = some (if F.cm.getLsbD (128 * F.c0 / e + m) then a else b))
        ∧ (F.instr = .vslide v → ∀ j : Int, j = (m : Int) + v.vc.toInt →
          ((F.count : Int) ≤ j → F.value m = some (el F.b (j - F.count).toNat))
          ∧ (j < 0 → 0 ≤ j + F.count → F.value m = some (el F.b (j + F.count).toNat))
          ∧ (0 ≤ j → j < F.count → F.value m = some (el F.a j.toNat)))
        ∧ (F.instr = .vperm v → F.value m = some (if b < F.count then el F.a b else 0))
        -- the integer forms
        ∧ (v.ty.isF = false → ∀ A B C S : Int, A = (BitVec.ofNat e a).toInt → B = (BitVec.ofNat e b).toInt → C = (BitVec.ofNat e c).toInt →
            S = (BitVec.ofNat e s).toInt →
          (F.instr = .vadd v → F.value m = some ((a + b) % M))
          ∧ (F.instr = .vsub v → F.value m = some (((a : Int) - b) % M).toNat)
          ∧ (F.instr = .vmul v → F.value m = some (a * b % M))
          ∧ (F.instr = .vfma v → F.value m = some ((a * b + c) % M))
          ∧ (F.instr = .vfms v → F.value m = some (((a : Int) * b - c) % M).toNat)
          ∧ (F.instr = .vfnma v → F.value m = some (((c : Int) - a * b) % M).toNat)
          ∧ (F.instr = .vmin v → F.value m = some (if B < A then b else a)) ∧ (F.instr = .vmax v → F.value m = some (if A < B then b else a))
          ∧ (F.instr = .vabs v → F.value m = some A.natAbs)
          ∧ (F.instr = .vneg v → F.value m = some ((-(a : Int)) % M).toNat)
          ∧ (F.instr = .vand v → F.value m = some (a &&& b)) ∧ (F.instr = .vor v → F.value m = some (a ||| b)) ∧ (F.instr = .vxor v → F.value m = some (a ^^^ b))
          ∧ (F.instr = .vshl v → F.value m = some (a * 2 ^ (b % e) % M)) ∧ (F.instr = .vshr v → F.value m = some (a / 2 ^ (b % e)))
          ∧ (F.instr = .vsra v → F.value m = some (A / 2 ^ (b % e) % M).toNat)
          ∧ (F.instr = .vminn v → F.value m = some (min a b)) ∧ (F.instr = .vmaxn v → F.value m = some (max a b))
          ∧ (F.instr = .vadds v → F.value m = some ((c + s) % M)) ∧ (F.instr = .vmuls v → F.value m = some (c * s % M))
          ∧ (F.instr = .vfmas v → F.value m = some ((c * s + u) % M))
          ∧ (F.instr = .vmins v → F.value m = some (if S < C then s else c)) ∧ (F.instr = .vmaxs v → F.value m = some (if C < S then s else c))
          ∧ (F.instr = .vdot4 v → v.ty = .i32 → F.value m = some ((((c : Int) + ((List.range 4).map fun q =>
              (BitVec.ofNat 8 (a / 2 ^ (8 * q))).toInt * (BitVec.ofNat 8 (b / 2 ^ (8 * q))).toInt).sum) % M).toNat)))
        -- the floating-point forms
        ∧ (v.ty.isF = true → ∀ (x y z t w : FVal) (R : FVal → Nat), x = v.ty.flt.decode a → y = v.ty.flt.decode b → z = v.ty.flt.decode c →
            t = v.ty.flt.decode s → w = v.ty.flt.decode u → R = v.ty.flt.encode .rne false →
          (F.instr = .vadd v → F.value m = some (R (FVal.add .rne x y))) ∧ (F.instr = .vsub v → F.value m = some (R (FVal.add .rne x y.neg)))
          ∧ (F.instr = .vmul v → F.value m = some (R (FVal.mul x y))) ∧ (F.instr = .vdiv v → F.value m = some (R (FVal.div x y)))
          ∧ (F.instr = .vfma v → F.value m = some (R (FVal.add .rne (FVal.mul x y) z)))
          ∧ (F.instr = .vfms v → F.value m = some (R (FVal.add .rne (FVal.mul x y) z.neg)))
          ∧ (F.instr = .vfnma v → F.value m = some (R (FVal.add .rne (FVal.mul x y).neg z)))
          ∧ (F.instr = .vsqrt v → F.value m = some (R x.sqrt)) ∧ (F.instr = .vexp2 v → F.value m = some (R x.exp2))
          ∧ (F.instr = .vlog2 v → F.value m = some (R x.log2)) ∧ (F.instr = .vrcp v → F.value m = some (R (FVal.div FVal.one x)))
          ∧ (F.instr = .vrsqrt v → F.value m = some (R x.rsqrt))
          ∧ (F.instr = .vmin v → F.value m = some (v.ty.flt.min a b)) ∧ (F.instr = .vmax v → F.value m = some (v.ty.flt.max a b))
          ∧ (F.instr = .vabs v → F.value m = some (a % 2 ^ (e - 1))) ∧ (F.instr = .vneg v → F.value m = some (a ^^^ 2 ^ (e - 1)))
          ∧ (F.instr = .vadds v → F.value m = some (R (FVal.add .rne z t))) ∧ (F.instr = .vmuls v → F.value m = some (R (FVal.mul z t)))
          ∧ (F.instr = .vfmas v → F.value m = some (R (FVal.add .rne (FVal.mul z t) w)))
          ∧ (F.instr = .vmins v → F.value m = some (v.ty.flt.min c s)) ∧ (F.instr = .vmaxs v → F.value m = some (v.ty.flt.max c s))
          ∧ (F.instr = .vclass v → ∀ (p top bias : Nat) (neg : Bool), (v.ty, p) ∈ [(VType.bf16, 7), (.f16, 10), (.f32, 23), (.f64, 52)] →
            top = 2 ^ (e - 1 - p) - 1 → bias = a / 2 ^ p % (top + 1) → neg = a.testBit (e - 1) →
            F.value m = some (2 ^ (if bias = top then (if a % 2 ^ p = 0 then (if neg then 0 else 7) else if a.testBit (p - 1) then 9 else 8)
              else if bias = 0 then (if a % 2 ^ p = 0 then (if neg then 3 else 4) else (if neg then 2 else 5))
              else (if neg then 1 else 6)))))
        -- the conversions
        ∧ (F.instr = .vcvt v → ∀ r n : Nat, r = bitsAt F.a (128 * F.c0 + v.srcTy.bits * m) v.srcTy.bits →
            n = bitsAt F.b (128 * F.c0 + v.srcTy.bits * m) v.srcTy.bits →
          (v.cvtMode = 0 → F.value m = some ((v.ty.elem true).encode .rne false ((v.srcTy.elem true).decode r)))
          ∧ (v.cvtMode = 1 → F.value m = some ((v.ty.elem true).encode .rtz false ((v.srcTy.elem true).decode r)))
          ∧ (v.cvtMode = 2 → F.value m = some ((v.ty.elem true).encode (.sr (n % 2 ^ 16)) false ((v.srcTy.elem true).decode r)))
          ∧ (v.cvtMode = 3 → F.value m = some ((v.ty.elem false).encode .rne false ((v.srcTy.elem false).decode r))))))
  -- vcmp
  ∧ (∀ (v : VF) (F : Flight) (j k : Nat) (old : Mask) (per : Nat), F.instr = .vcmp v → F.c0 ≤ j → k < 128 → per = 128 / v.ty.bits →
      (∀ m, m < F.count → m / per = j - F.c0 → k = 128 * F.c0 / v.ty.bits + m →
        ∀ a b e : Nat, e = v.ty.bits → a = bitsAt F.a (128 * F.c0 + e * m) e → b = bitsAt F.b (128 * F.c0 + e * m) e →
        (v.ty.isF = false → ∀ A B : Int, A = (BitVec.ofNat e a).toInt → B = (BitVec.ofNat e b).toInt → ∀ h : Bool,
          (v.vc.toNat, h) ∈ [(0, decide (a = b)), (1, decide (a ≠ b)), (2, decide (A < B)), (3, decide (A ≤ B)), (4, decide (B < A)), (5, decide (B ≤ A)),
            (6, decide (a < b)), (7, decide (a ≤ b)), (8, decide (b < a)), (9, decide (b ≤ a))] →
          (F.landCmp v j old).getLsbD k = (F.active m && h))
        ∧ (v.ty.isF = true → ∀ x y : FVal, x = v.ty.flt.decode a → y = v.ty.flt.decode b → ∀ h : Bool,
          (v.vc.toNat, h) ∈ [(0, FVal.eq x y), (1, !FVal.eq x y), (2, FVal.lt x y), (3, FVal.le x y), (4, FVal.lt y x), (5, FVal.le y x),
            (10, x.isNan || y.isNan), (11, !x.isNan && !y.isNan)] →
          (F.landCmp v j old).getLsbD k = (F.active m && h)))
      ∧ ((∀ m, m < F.count → m / per = j - F.c0 → k ≠ 128 * F.c0 / v.ty.bits + m) → (F.landCmp v j old).getLsbD k = old.getLsbD k))
  -- scans and reductions
  ∧ (∀ (v : VF) (F : Flight) (e M : Nat) (el : Nat → Nat) (op : Nat → Nat → Nat) (idn : Nat), e = v.ty.bits → M = 2 ^ e →
      (el = fun m => bitsAt F.a (128 * F.c0 + e * m) e) →
      ((v.ty.isF = false ∧ ((vcOp v = 0 ∧ idn = 0 ∧ op = fun x y => (x + y) % M)
          ∨ (vcOp v = 1 ∧ idn = 2 ^ (e - 1) ∧ op = fun x y => if (BitVec.ofNat e x).toInt < (BitVec.ofNat e y).toInt then y else x)
          ∨ (vcOp v = 2 ∧ idn = 2 ^ (e - 1) - 1 ∧ op = fun x y => if (BitVec.ofNat e y).toInt < (BitVec.ofNat e x).toInt then y else x)))
        ∨ (∃ i, (v.ty, i) ∈ [(VType.bf16, 0x7F80), (.f16, 0x7C00), (.f32, 0x7F800000), (.f64, 0x7FF0000000000000)]
          ∧ ((vcOp v = 0 ∧ idn = 2 ^ (e - 1) ∧ op = fun x y => v.ty.flt.encode .rne false (FVal.add .rne (v.ty.flt.decode x) (v.ty.flt.decode y)))
            ∨ (vcOp v = 1 ∧ idn = 2 ^ (e - 1) + i ∧ op = v.ty.flt.max) ∨ (vcOp v = 2 ∧ idn = i ∧ op = v.ty.flt.min)))) →
      (F.instr = .vscan v → ∀ acc g : Nat → Nat, acc 0 = (if v.vc.getLsbD 0 then F.sc.toNat % M else idn) →
        (∀ m, g m = if v.vc.getLsbD 1 && F.cm.getLsbD (128 * F.c0 / e + m) then idn else acc m) →
        (∀ m, acc (m + 1) = if F.active m then op (g m) (el m) else g m) →
        (∀ m, F.value m = if F.active m then some (if v.vc.getLsbD 2 then g m else acc (m + 1)) else none)
        ∧ ∀ (st : Strand) (j : Nat), j + 1 = F.c0 + F.cols → (st.landColumn F j).sc = word (acc F.count))
      ∧ (F.instr = .vred v → ∀ acc : Nat → Nat, acc 0 = idn → (∀ m, acc (m + 1) = if F.active m then op (acc m) (el m) else acc m) →
        ∀ (s : State) (c t : Nat) (before : List Held) (h : Held), h.kind = .vector F → F.t + F.lat + 8 ≤ (s.strandAt c t).ctime →
        s.landOne c t before h = ((s.setStrandAt c t ((s.strandAt c t).land
          (.push (if v.ty.isF then word (acc F.count) else BitVec.ofInt 64 (BitVec.ofNat e (acc F.count)).toInt) (named v.vd)))).arriveOn c t h.arrive, none)))
  ∧ (∀ (v : VF) (F : Flight) (s : State) (c t : Nat) (before : List Held) (h : Held), F.instr = .vpopc v → h.kind = .vector F →
      F.t + F.lat + 8 ≤ (s.strandAt c t).ctime →
      s.landOne c t before h = ((s.setStrandAt c t ((s.strandAt c t).land
        (.push (word ((List.range F.count).countP fun m => F.active m && F.cm.getLsbD (128 * F.c0 / v.ty.bits + m))) (named v.vd)))).arriveOn c t h.arrive, none))
  ∧ ∀ (F : Flight) (j : Nat) (old : BitVec 128) (i m : Nat), F.c0 ≤ j → i < 128 / F.dbits → m = (j - F.c0) * (128 / F.dbits) + i → m < F.count →
      (F.landCol j old).extractLsb' (F.dbits * i) F.dbits
        = match F.value m with
          | none => old.extractLsb' (F.dbits * i) F.dbits
          | some x => BitVec.ofNat F.dbits x

/-- R226, R227, R229 and R230: a vector access that is not held at selection and passes its checks issues. A load of the scratchpad or the scale store puts its access into its bank's latch and is held to land from the eighth cycle on; performed on sound lines of an unscaled bank, the same memory, it finds every byte of its footprint as that memory has it, and nothing to report; a load of an accumulator row holds what the row has at issue. A store reads its columns, puts its access into the latch, and changes no byte at issue; a store to an accumulator row needs no latch. -/
def Obligations.VectorAccessesStart : Prop :=
  ∀ (f : VF) (s : State) (i : Instr) (kind lat : Nat) (store : Bool) (l : Local) (F : Flight),
    (i, kind, lat, store) ∈ [(Instr.vld f, 0, 8, false), (.vlds f, 1, 8, false), (.vldx f, 2, 8, false),
      (.vst f, 0, 0, true), (.vsts f, 1, 0, true), (.vstx f, 2, 0, true)] →
    s.fenceHolds clsV = false → (∀ b, l.bank = some b → s.lLatched b = false ∧ s.lTooSoon b = false) →
    vecAddr s (s.src f.va) (kind == 0) = .ok l →
    F = { s.newFlight i f lat with
      fmt := accessFmt s.core l, u := if kind == 2 then 0 else s.src f.vb, opId := s.nextId
      emFixed := l.bank.isNone, em := if l.bank.isNone then s.strand.em else 0 } →
    footprintBad F kind l.off = false → accBlocked s F l store = false →
    (store = false → s.room 1 →
      (∀ b, l.bank = some b →
        exec i s = .next ((s.latches b clsV (.vload kind) []).done { (s.latches b clsV (.vload kind) []).strand with
          held := s.strand.held ++ [⟨.vector F, true, s.cur.arrive⟩] }))
      ∧ (∀ a, kind = 0 → l = .spad a → bfmtScaled (s.core.fmt (bankOf a)) = false →
        (∀ x, a / 64 ≤ x → x ≤ (a + F.count * accessBits F.fmt f.ty / 8 - 1) / 64 → s.core.sound s.strand.world x) →
        (s.performVload s.cur.core s.cur.strand s.strand.world s.core.vctl kind F).2.flags = []
        ∧ ∀ b, b < F.count * accessBits F.fmt f.ty / 8 →
          (s.performVload s.cur.core s.cur.strand s.strand.world s.core.vctl kind F).2.block.getD (a % 256 + b) 0 = s.core.byteAt (a + b))
      ∧ (∀ tile off, l = .acc tile off → exec i s = .next (State.starts { s with nextId := s.nextId + 1 }
          { F with block := (List.range 32).flatMap fun j => leBytes 8 ((s.core.acc tile).get (off / 256) j).toNat } true)))
    ∧ (store = true →
      (∀ b, l.bank = some b →
        exec i s = .next ((s.latches b clsV (.vstore none) s.cur.arrive).done { (s.latches b clsV (.vstore none) s.cur.arrive).strand with
          held := s.strand.held ++ [⟨.vector F, false, []⟩] }))
      ∧ (l.bank = none → exec i s = .next (State.starts { s with nextId := s.nextId + 1 } F false)))

/-- R232 and R35: vacr of a row below the watermark holds the row's elements as they stand, to land from the sixth cycle on; vacw of a tile that no matrix operation engages starts to write its columns. Both need their elements to lie in the row. -/
def Obligations.AccumulatorRowsMove : Prop :=
  ∀ (f : VF) (s : State), Word.field (s.src f.va) 5 5 + f.width.bits / f.ty.bits ≤ 32 → s.fenceHolds clsV = false →
    (s.room 1 → Word.field (s.src f.va) 0 5 < (s.core.acc (f.vc.toNat % 8)).w →
      ∃ F : Flight, exec (.vacr f) s = .next (s.starts F true) ∧ F.t = s.strand.ctime ∧ F.lat = 6 ∧ F.em = s.strand.em
        ∧ F.block = (List.range 32).flatMap fun j => leBytes 8 ((s.core.acc (f.vc.toNat % 8)).get (Word.field (s.src f.va) 0 5) j).toNat)
    ∧ (s.core.engaged (f.vc.toNat % 8) = false →
      ∃ F : Flight, exec (.vacw f) s = .next (s.bumpId.starts F false) ∧ F.t = s.strand.ctime ∧ F.em = s.strand.em ∧ F.opId = s.nextId)

/-- R146, R230 and R231: a vector store performed into the scratchpad leaves every byte outside its 256-byte block, every other store and every register of the core as they were. -/
def Obligations.VectorStoreStaysInItsBlock : Prop :=
  ∀ (k : Core) (world : Nat) (F : Flight) (addr : Nat), localPtr F.s = some (.spad addr) →
    k.performStore world F = { k with spad := (k.performStore world F).spad, lines := (k.performStore world F).lines }
    ∧ ∀ a, a / 256 ≠ addr / 256 → (k.performStore world F).byteAt a = k.byteAt a
        ∧ (k.performStore world F).line (a / 64) = k.line (a / 64)

/-! ### The M slot -/

/-- R234, R236, R242, R243 and R250: an M syllable that passes its checks, with a place in the queue of 16 that no bundle with a sent atomic keeps (R170; log 66, DEDUCED) and, for each operand ring, a token, issues: its operation joins the queue with its sources as they stand, a writer takes the watermark of its tile to 0, and each popped ring is consumed once. Also: R150, R238, R240, R249, R251 and R252: tquant, tcast and mchk issue with a permit of their ring, whose tail slot they take; mgeo writes MG whole. None of them changes an accumulator. -/
def Obligations.MatrixInstructionsIssue : Prop :=
  (∀ (f : MF) (s : State), s.core.mq.length + s.core.mplaces < 16 →
      (∀ (i : Instr) (qs pops : List Nat) (hi : Nat) (mask : Option Nat),
        (i, qs, pops, hi, mask) ∈ [(Instr.mma f, [f.qa.toNat, f.qb.toNat], popsOf f none, 7, none),
          (.mmas f, [f.qa.toNat, f.qb.toNat], popsOf f (some (mgMQ s.core.mg)), 7, some (mgMQ s.core.mg)),
          (.macc f, [f.qa.toNat], if f.pa then [f.qa.toNat] else [], 10, none)] →
        operandFault s.core qs hi mask = none → (∀ q ∈ qs ++ mask.toList, s.tokensOf s.cur.core q ≠ 0) →
        exec i s = .next (State.verdict (pops.foldl (fun s q => s.consume s.cur.core q 1 true) (s.queueM (s.newMOp i f) f true)) .ok))
      ∧ (∀ i ∈ [Instr.mzero f, .mscl f], exec i s = .next ((s.queueM (s.newMOp i f) f true).verdict .ok))
      ∧ ∀ i : Instr, (s.newMOp i f).x = s.src f.x ∧ (s.newMOp i f).y = s.src f.y ∧ (s.newMOp i f).mg = s.core.mg ∧ (s.newMOp i f).started = false
          ∧ (s.queueM (s.newMOp i f) f true).core.mq = s.core.mq ++ [s.newMOp i f]
          ∧ ((s.queueM (s.newMOp i f) f true).core.acc f.acc.toNat).w = 0
          ∧ (∀ a, a ≠ f.acc.toNat → (s.queueM (s.newMOp i f) f true).core.acc a = s.core.acc a)
          ∧ (s.queueM (s.newMOp i f) f true).strand = s.strand ∧ (s.queueM (s.newMOp i f) f true).nextId = s.nextId + 1)
  ∧ ∀ (f : MF) (s : State), s.core.mq.length + s.core.mplaces < 16 →
      (∀ (i : Instr) (bad : Word → Bool) (size : Word → Nat),
        ((i = .tquant f ∧ bad = (fun w => !bfmtScaled w) ∧ size = tileBytes)
          ∨ (i = .tcast f ∧ bad = (fun w => bfmtScaled w || bfmtElem w == 0) ∧ size = tileBytes)
          ∨ (i = .mchk f ∧ bad = bfmtScaled ∧ size = fun _ => 1024)) →
        outputFault s.core f.qa.toNat bad size = none → s.permitsOf s.cur.core f.qa.toNat ≠ 0 →
        ∃ t, exec i s = .next t ∧ t.cur.verdict = .ok ∧ t.strand = s.strand
          ∧ t.core.mq = s.core.mq ++ [{ s.newMOp i f with slotA := (s.core.ring f.qa.toNat).tail }]
          ∧ t.core.ring f.qa.toNat = (s.core.ring f.qa.toNat).takeTail 1 false
          ∧ (∀ q, q ≠ f.qa.toNat → t.core.ring q = s.core.ring q)
          ∧ (∀ a, t.core.acc a = s.core.acc a) ∧ t.core.spad = s.core.spad)
      ∧ (mgOk (s.src f.x) = true → exec (.mgeo f) s = .next (s.putCore { s.core with mg := s.src f.x }).retires)
      ∧ (mgOk (s.src f.x) = false → exec (.mgeo f) s = .next (s.takePrecise (s.precise cIlleg 0)))

/-- R152 and R151: tokens consumed at the head return as permits when no plain arrival waits, and no other ring changes. Also: R157: a space-7 arrival reaches its configured ring with as many permits free: its tokens are placed, and it is no longer on its way. -/
def Obligations.TokensReturnAndArrive : Prop :=
  (∀ (s : State) (c q n : Nat), ((s.coreAt c).ring q).queue = [] →
      (((s.consume c q n true).coreAt c).ring q) = { (s.coreAt c).ring q with
          tokens := ((s.coreAt c).ring q).tokens - n
          permits := ((s.coreAt c).ring q).permits + n
          head := (((s.coreAt c).ring q).head + n) % ((s.coreAt c).ring q).size }
      ∧ (∀ p, p ≠ q → ((s.consume c q n true).coreAt c).ring p = (s.coreAt c).ring p)
      ∧ ∀ d, d ≠ c → (s.consume c q n true).coreAt d = s.coreAt d)
  ∧ ∀ (s : State) (id c q n : Nat) (k : Core) (i : OpInfo), SMap.rising s.cores →
      s.cores.find? (fun k => k.2.remote.any fun r => r.1.id == id) = some (c, k) → s.coreAt c = k →
      k.remote.find? (fun r => r.1.id == id) = some (i, q, n) → (k.ring q).configured = true → n ≤ ringCount (k.ring q).desc →
      n ≤ s.permitsOf c q → (k.ring q).taken = [] → i.arrive = [] →
      ∃ r : Ring, exec (.remoteTokenArrival id) s = .next (s.setCore c
          ({ k with remote := k.remote.filter fun r => r.1.id != id }.setRing q r))
        ∧ r.tokens = (k.ring q).tokens + n ∧ r.permits = (k.ring q).permits - n

/-! ### The C slot: memory commands -/

/-- R61, R67, R69, R70, R71 and R78: a row command whose address, delta and events break no rule is accepted: it joins the queue of 64 at the nominal tick of the last command plus delta, the nominal bank state follows its events, and nothing else changes; a delta of 0 faults with TIMING, code 24. Also: R58, R61, R72, R73, R75, R76 and R367: a read or a write that passes its address, target and timing checks is accepted with one grain event every four ticks; a ring target gives its tail slot, a ring source its head slot, whose token is taken and whose permit is given back in that cycle, and a write carries its bytes as they stood at issue. That a write waits while a bank of its source has no position to read it is log 95 (DESIGN CHOICE). -/
def Obligations.MemoryCommandsAreAccepted : Prop :=
  (∀ (f : MemF) (s : State) (ch : Chan) (key sid : Nat) (i : Instr) (needSid : Bool) (evs : List TEvent) (P : Pc) (T : Nat),
      P = s.pcAt key → T = P.nominal + f.delta.toNat →
      ((i = .mact f ∧ needSid = true ∧ vaCol (s.src f.x) = 0 ∧ vaByte (s.src f.x) = 0
          ∧ evs = [⟨.a, sid, vaBg (s.src f.x), vaBank (s.src f.x), vaRow (s.src f.x), T⟩])
        ∨ (i = .mpre f ∧ needSid = true
          ∧ evs = if (SMap.find P.openRow (bankNo sid (vaBg (s.src f.x)) (vaBank (s.src f.x)))).isSome
              then [⟨.p, sid, vaBg (s.src f.x), vaBank (s.src f.x), vaRow (s.src f.x), T⟩] else [])
        ∨ (i = .mprea f ∧ needSid = false ∧ evs = P.openRow.map fun r => ⟨.p, bankSid r.1, bankBg r.1, r.1 % 4, r.2, T⟩)
        ∨ (i = .mref f ∧ needSid = true ∧ evs = [⟨.f, sid, vaBg (s.src f.x), vaBank (s.src f.x), vaRow (s.src f.x), T⟩])
        ∨ (i = .mrefa f ∧ needSid = false ∧ evs = [⟨.fa, 0, 0, 0, 0, T⟩] ∧ sid = 0)
        ∨ (i = .mnop f ∧ needSid = false ∧ evs = [])) →
      s.window (s.src f.x) needSid = .ok (ch, key, sid) → P.queue.length < 64 → s.fenceHolds clsD = false →
      (f.delta = 0 → exec i s = .next (s.takePrecise (s.precise cTiming 24)))
      ∧ (f.delta ≠ 0 → timingFault (Config.profile ((s.wg.map (·.mprof)).getD 0x47)) P.openRow P.events evs = none →
        ∃ (P' : Pc) (cmd : Cmd), exec i s = .next ((s.bumpId.setPc key P').verdict .ok)
          ∧ P' = { P with nominal := T, openRow := evs.foldl recordRow P.openRow, events := P'.events, queue := P.queue ++ [cmd] }
          ∧ (∀ e ∈ P.events ++ evs, T ≤ e.tick + eventSpan → e ∈ P'.events)
          ∧ cmd.instr = i ∧ cmd.info = s.newInfo clsD (s.syncPtr f.sync) ∧ cmd.sid = sid ∧ cmd.row = vaRow (s.src f.x) ∧ cmd.delta = f.delta.toNat)
      ∧ (∀ code, f.delta ≠ 0 → timingFault (Config.profile ((s.wg.map (·.mprof)).getD 0x47)) P.openRow P.events evs = some code →
        exec i s = .next (s.takePrecise (s.precise cTiming code))))
  ∧ ∀ (f : MemF) (s : State) (ch : Chan) (key sid : Nat) (P : Pc),
      P = s.pcAt key → s.window (s.src f.x) true = .ok (ch, key, sid) → P.queue.length < 64 → s.fenceHolds clsD = false →
      (∀ (i : Instr) (transpose : Bool) (place : Place) (fmt : Word), (i, transpose) ∈ [(Instr.mrd f, false), (.mrdt f, true)] →
        dataFault s ch f (s.src f.x) false = none → s.landing transpose (s.src f.y) (vaCol (s.src f.x)) (f.cnt.toNat + 1) = .ok (place, fmt) →
        (∀ c q sl, place = .ring c q sl → s.permitsOf c q ≠ 0) →
        (f.delta = 0 → exec i s = .next (s.takePrecise (s.precise cTiming 24)))
        ∧ (f.delta ≠ 0 → timingFault (Config.profile ((s.wg.map (·.mprof)).getD 0x47)) P.openRow P.events
          (grainEvents .rg sid (s.src f.x) (footprint (vaCol (s.src f.x)) (f.cnt.toNat + 1)).2 (P.nominal + f.delta.toNat)) = none →
        ∃ t cmd, exec i s = .next t ∧ t.cur.verdict = .ok ∧ t.strand = s.strand ∧ t.dram = s.dram
          ∧ (t.pcAt key).nominal = P.nominal + f.delta.toNat ∧ (t.pcAt key).queue = P.queue ++ [cmd] ∧ (t.pcAt key).openRow = P.openRow
          ∧ cmd.instr = i ∧ cmd.target = place ∧ cmd.fmt = fmt ∧ cmd.n = f.cnt.toNat + 1 ∧ cmd.col = vaCol (s.src f.x) ∧ cmd.row = vaRow (s.src f.x)
          ∧ cmd.meter = SMap.find ch.metered (vaSlot (s.src f.x))
          ∧ (∀ c q sl, place = .ring c q sl → (t.coreAt c).ring q = ((s.coreAt c).ring q).takeTail 1 false)
          ∧ ((∀ c q sl, place ≠ .ring c q sl) → t.cores = s.cores)))
      ∧ (∀ (c : Nat) (lines : Nat → Nat) (ring : Option Nat) (place : Place),
        dataFault s ch f (s.src f.x) true = none → s.writeSource (s.src f.y) (f.cnt.toNat + 1) = .ok (c, lines, ring, place) →
        (∀ q, ring = some q → s.tokensOf s.cur.core q ≠ 0 ∧ (s.core.ring q).queue = []) → s.strand.status = .running → s.sourceServed place = true →
        (f.delta = 0 → exec (.mwr f) s = .next (s.takePrecise (s.precise cTiming 24)))
        ∧ (f.delta ≠ 0 → timingFault (Config.profile ((s.wg.map (·.mprof)).getD 0x47)) P.openRow P.events
          (grainEvents .wg sid (s.src f.x) (f.cnt.toNat + 1) (P.nominal + f.delta.toNat)) = none →
        ∃ t cmd, exec (.mwr f) s = .next t ∧ t.cur.verdict = .ok ∧ t.dram = s.dram
          ∧ (t.pcAt key).nominal = P.nominal + f.delta.toNat ∧ (t.pcAt key).queue = P.queue ++ [cmd]
          ∧ cmd.instr = .mwr f ∧ cmd.data = (s.readRun c s.strand.world (s.coreAt c).vctl lines 0 (f.cnt.toNat + 1)).bytes
          ∧ cmd.poison = (s.readRun c s.strand.world (s.coreAt c).vctl lines 0 (f.cnt.toNat + 1)).bad ∧ cmd.row = vaRow (s.src f.x) ∧ cmd.col = vaCol (s.src f.x)
          ∧ (∀ q, ring = some q → t.core.ring q = { s.core.ring q with
              tokens := (s.core.ring q).tokens - 1, permits := (s.core.ring q).permits + 1, head := ((s.core.ring q).head + 1) % (s.core.ring q).size })
          ∧ ∀ q, ring ≠ some q → t.core.ring q = s.core.ring q))

/-! ### The C slot: copies, rings and sync words -/

/-- R162 to R167: a copy, a transposing copy, a fill or a rescale whose operands pass the checks of R163 and R167, with a token at a ring source and a permit at a ring destination, joins the copy port with its places and sizes; its ring slots are the head of the source and the tail of the destination, which it has taken (takeSide), and no byte is moved yet. COPY_COMPLETE of an operation that has started and read its source, and whose next write is its last, with positions for it in its destination's banks under the wheels it started with, and for a rescale in its source's, no popped slot in its way, and the die bridge trained where it crosses it, makes that write, reports SCALE where the copied values have it, leaves the port, counts its destination bytes, makes a ring slot a token, and arrives. The last write of a fill leaves the bytes that it covers of a scratchpad destination as the bytes of x in turn; that of a raw copy to system memory leaves there the bytes that the copy read. That an access's lines may be written one by one before it is log 4 (DEDUCED). -/
def Obligations.CopiesJoinThePortAndComplete : Prop :=
  (∀ (f : CopyF) (s : State),
      (∀ (i : Instr) (transpose : Bool) (srcs dsts : List Nat) (a b a1 b1 : Place) (len : Nat × Nat),
        (i, transpose, srcs, dsts) ∈ [(Instr.xcpy f, false, [0, 1, 2, 4, 5], [0, 1, 2, 4, 5, 7]), (.xcpyt f, true, [1, 2, 5], [1, 2, 5, 7])] →
        srcs.contains (Word.space (s.src f.x)) = true → dsts.contains (Word.space (s.src f.y)) = true →
        s.sidePlace (s.src f.x) = .ok a → s.sidePlace (s.src f.y) = .ok b →
        len = copySizes transpose (s.placeFmt a) (s.placeFmt b) (f.cnt.toNat + 1) →
        s.placeSys a len.1 false = .ok a1 → s.placeSys b len.2 true = .ok b1 →
        s.sideFault a1 b1 len.1 len.2 = none → s.sidesBlocked a1 b1 = false →
        copyFault s transpose (s.placeFmt a) (s.placeFmt b) a1 b1 len.1 len.2 f.sync = none →
        ∃ o : CopyOp, exec i s = .next (State.verdict (State.takeSide (State.takeSide
            { s.putCore { s.core with copies := s.core.copies ++ [o] } with nextId := s.nextId + 1 } o.src false) o.dst true) .ok)
          ∧ o = { info := s.newInfo clsC (s.syncPtr f.sync), kind := if transpose then .transpose else .copy,
                  src := s.withSlot a1 false, dst := s.withSlot b1 true, len := len.1, dlen := len.2,
                  sfmt := 0, dfmt := 0, arg := 0, read := none, got := 0, put := 0, ahead := [], vctl := 0, srcWheels := [], dstWheels := [] })
      ∧ (∀ (b : Place) (n : Nat), n = 64 * (f.cnt.toNat + 1) → [1, 2, 5, 7].contains (Word.space (s.src f.y)) = true → s.sidePlace (s.src f.y) = .ok b →
        s.sideFault .none b n n = none → s.sidesBlocked .none b = false → copyFault s false 0 0 .none b n n f.sync = none →
        ∃ o : CopyOp, exec (.xfill f) s = .next (State.verdict (State.takeSide
            { s.putCore { s.core with copies := s.core.copies ++ [o] } with nextId := s.nextId + 1 } o.dst true) .ok)
          ∧ o = { info := s.newInfo clsC (s.syncPtr f.sync), kind := .fill, src := .none, dst := s.withSlot b true,
                  len := 0, dlen := n, sfmt := 0, dfmt := 0, arg := s.src f.x, read := none, got := 0, put := 0, ahead := [],
                  vctl := 0, srcWheels := [], dstWheels := [] })
      ∧ (∀ (c addr : Nat) (fmt : Word), s.resolve (s.src f.y) = some (c, addr) → fmt = (s.coreAt c).fmt (bankOf addr) → bfmtValid fmt = true →
        bfmtScaled fmt = true → addr % 65536 % tileBytes fmt = 0 →
        ∃ o : CopyOp, exec (.tscale f.x f.y) s = .next (State.verdict
            { s.putCore { s.core with copies := s.core.copies ++ [o] } with nextId := s.nextId + 1 } .ok)
          ∧ o.kind = .rescale ∧ o.src = .spad c (bankOf addr) (addr % 65536) ∧ o.arg = s.src f.x ∧ o.info = s.newInfo clsC 0 ∧ o.read = none))
  ∧ ∀ (s : State) (core id : Nat) (o : CopyOp) (d : CopyData) (s1 s2 s3 s4 : State),
      (s.coreAt core).copies.find? (fun o => o.info.id == id) = some o → o.read = some d → o.len ≤ o.got → s.lastWrite o = true → s.bridgeWaits o = false →
      s.destPending o = false → s.dstServed o = true → (o.kind = .rescale → s.srcServed o = true) →
      s1 = (match o.kind with
        | .rescale => s.rescale o
        | .scrub => s.scrubRange o o.put (s.nextBytes o)
        | _ => s.writeLines o (copyOut o d) (s.nextWrite o)) →
      s2 = (if (copyOut o d).scale then s1.report o.info.core o.info.strand (imprecise cScale 0 0) else s1) →
      s3 = State.countFor (s2.modCore core fun k => { k with copies := k.copies.filter fun e => e.info.id != id }) o.info o.dlen (!(copyOut o d).bad.isEmpty) →
      s4 = (match o.dst with
        | .ring k q sl => s3.completeSlot k q sl
        | _ => s3) →
      exec (.copyComplete core id) s = .next (s4.arriveOp o.info)
      ∧ (o.kind = .fill → o.ahead = [] → o.put % 64 = 0 → o.dlen % 64 = 0 → ∀ k bank off, o.dst = .spad k bank off → off % 64 = 0 →
        ∀ j, o.put ≤ j → j < o.dlen → (s1.coreAt k).byteAt (bank * 65536 + off + j) = o.arg.extractLsb' (8 * (j % 8)) 8)
      ∧ (o.kind = .copy → rawCopy o.sfmt o.dfmt = true → o.ahead = [] → o.put % 64 = 0 → o.dlen % 64 = 0 → d.bytes.length = o.dlen → ∀ a, o.dst = .sys a →
        ∀ j, o.put ≤ j → j < o.dlen → Memory.read s1.sysmem (a + j) = d.bytes.getD j 0)

/-- R147, R149, R152, R153, R156, R157, R158 and R159: qcfg makes a ring of the descriptor with its full permits, where nothing of the old ring is taken, lent, or held for a sent atomic's bundle (log 66, DEDUCED); qpop takes tokens and gives their permits; qwait passes with the tokens there and takes none; qpush, qarv and an own-ring reference place their tokens, and wait at a ring without a permit; a space-7 reference sends them on their way. That qpop, qwait, qpush and qarv complete whatever the format of the ring's bank is log 18 (DEDUCED). -/
def Obligations.RingInstructionsComplete : Prop :=
  ∀ (s : State) (x : R5) (q : BitVec 4) (n : BitVec 8) (m : BitVec 12), s.fenceHolds clsC = false →
    ((ringSizeCode (s.src x) = 0 ∨ bfmtValid (s.core.fmt (ringBank (s.src x))) = true) → ringDescOk (s.core.fmt (ringBank (s.src x))) (s.src x) = true →
      (s.core.ring q.toNat).taken = [] → (s.core.ring q.toNat).lent = 0 →
      s.heldTokens s.cur.core q.toNat = 0 → s.heldPermits s.cur.core q.toNat = 0 →
      exec (.qcfg x q) s = .next (s.putCore (s.core.setRing q.toNat
        { configured := true, desc := s.src x, head := 0, tail := 0, tokens := 0,
          permits := Word.field (s.src x) 40 8 + 1, taken := [], queue := [], lent := 0 })).retires)
    ∧ ((s.core.ring q.toNat).configured = true → n.toNat + 1 ≤ ringCount (s.core.ring q.toNat).desc → n.toNat + 1 ≤ s.tokensOf s.cur.core q.toNat →
      exec (.qpop q n) s = .next (s.consume s.cur.core q.toNat (n.toNat + 1) true).retires)
    ∧ ((s.core.ring q.toNat).configured = true → m.toNat ≤ ringCount (s.core.ring q.toNat).desc → m.toNat ≤ (s.core.ring q.toNat).tokens →
      exec (.qwait q m) s = .next s.retires)
    ∧ ((s.core.ring q.toNat).configured = true → n.toNat + 1 ≤ ringCount (s.core.ring q.toNat).desc →
      n.toNat + 1 ≤ s.permitsOf s.cur.core q.toNat → s.cur.arrive = [] → (s.core.ring q.toNat).taken = [] →
      ∀ i ∈ [Instr.qpush q n, .qarv q n],
        ∃ r : Ring, exec i s = .next ((s.putCore (s.core.setRing q.toNat r)).verdict .ok)
          ∧ r.tokens = (s.core.ring q.toNat).tokens + (n.toNat + 1) ∧ r.permits = (s.core.ring q.toNat).permits - (n.toNat + 1) ∧ r.taken = []
          ∧ r.tail = ((s.core.ring q.toNat).tail + (n.toNat + 1)) % (s.core.ring q.toNat).size ∧ r.head = (s.core.ring q.toNat).head)
    ∧ (∀ p, ringPtr (s.src x) = some p → (s.core.ring p).configured = true → n.toNat + 1 ≤ ringCount (s.core.ring p).desc →
      n.toNat + 1 ≤ s.permitsOf s.cur.core p → s.cur.arrive = [] → (s.core.ring p).taken = [] →
        ∃ r : Ring, exec (.qpushRef x n) s = .next ((s.putCore (s.core.setRing p r)).verdict .ok)
          ∧ r.tokens = (s.core.ring p).tokens + (n.toNat + 1) ∧ r.permits = (s.core.ring p).permits - (n.toNat + 1) ∧ r.taken = []
          ∧ r.tail = ((s.core.ring p).tail + (n.toNat + 1)) % (s.core.ring p).size ∧ r.head = (s.core.ring p).head)
    -- with no permit free, and fewer than eight arrivals waiting, the whole arrival waits at the ring
    ∧ (∀ i p, (i = .qpush q n ∧ p = q.toNat) ∨ (i = .qarv q n ∧ p = q.toNat) ∨ (i = .qpushRef x n ∧ ringPtr (s.src x) = some p) →
      (s.core.ring p).configured = true → n.toNat + 1 ≤ ringCount (s.core.ring p).desc → s.permitsOf s.cur.core p = 0 → (s.core.ring p).queue.length < 8 →
      (s.core.ring p).taken = [] → (s.core.ring p).tail < (s.core.ring p).size →
        exec i s = .next ((s.putCore (s.core.setRing p { s.core.ring p with
          queue := (s.core.ring p).queue ++ [⟨n.toNat + 1, s.cur.arrive, s.cur.core, s.cur.strand⟩] })).verdict .ok))
    ∧ (∀ c p, ringPtr (s.src x) = none → s.ringTarget (s.src x) = some (c, p) →
      exec (.qpushRef x n) s = .next ((s.bumpId.setCore c { s.coreAt c with
        remote := (s.coreAt c).remote ++ [(s.newInfo clsNone 0, p, n.toNat + 1)] }).verdict .ok))

/-- R160 and R161: with a sync word in its slot whose bank has a window, swset that is not held at selection puts its write at the end of the word's read-modify-write queue, retiring at issue (R306; log 32, DEDUCED), and faults with WHEEL where the bank has none and its bundle has no performed atomic. Performed on a sound line, with no verification mode in force at its issue, that write makes the word's target x[31:0] and its count and flags 0, and leaves its generation and every other byte of the core as they were. swwait passes where the generation, after every update now in the bank's queue, differs from g[31:0], and blocks where it does not. With SYNC[k] zero both fault with SPACE, swset where it is not held at selection. That neither checks the format of the word's bank is log 18 (DEDUCED). -/
def Obligations.SyncWordInstructionsComplete : Prop :=
  (∀ (s : State) (x g : R5) (k : BitVec 4), 
    (SMap.get s.strand.sync 0 k.toNat = 0 → exec (.swwait k g) s = .next (s.takePrecise (s.precise cSpace 0))
      ∧ (s.fenceHolds clsC = false → exec (.swset x k) s = .next (s.takePrecise (s.precise cSpace 0))))
    ∧ ∀ c addr, SMap.get s.strand.sync 0 k.toNat ≠ 0 → s.resolve (SMap.get s.strand.sync 0 k.toNat) = some (c, addr) →
      (wheelHasWindow ((s.coreAt c).wheel (bankOf addr)) = true → s.fenceHolds clsC = false →
        exec (.swset x k) s = .next (s.setCore c { s.coreAt c with
          rmw := (s.coreAt c).rmw ++ [(bankOf addr, .swset addr ((s.src x).setWidth 32) (s.coreAt c).vctl)] }).retires)
      ∧ (wheelHasWindow ((s.coreAt c).wheel (bankOf addr)) = false → s.fenceHolds clsC = false → s.cur.sure = false → exec (.swset x k) s = .next (s.takePrecise (s.precise cWheel 0)))
      ∧ (s.generation c addr ≠ (s.src g).toNat % 2 ^ 32 → exec (.swwait k g) s = .next s.retires)
      ∧ (s.generation c addr = (s.src g).toNat % 2 ^ 32 → exec (.swwait k g) s = .next (s.verdict .blocked)))
  ∧ ∀ (s : State) (core addr : Nat) (t : BitVec 32) (v : Word), addr % 16 = 0 → (s.coreAt core).sound (s.worldOfCore core) (addr / 64) → vctlEn v = false →
      ∃ k : Core, s.performSwset core addr t v = s.setCore core k ∧ k = { s.coreAt core with spad := k.spad, lines := k.lines }
        ∧ ∀ a, k.byteAt a =
          if addr ≤ a ∧ a < addr + 4 then t.extractLsb' (8 * (a - addr)) 8
          else if (addr + 4 ≤ a ∧ a < addr + 8) ∨ (addr + 12 ≤ a ∧ a < addr + 16) then 0
          else (s.coreAt core).byteAt a

/-! ### Atomics -/

/-- R168, R170, R140 and R143: an atomic whose address passes its checks joins the read-modify-write queue of its bank where that is in its own core, and is put on its way to the bank where it is in another core of the cluster: one without a return has then issued; one with a return is sent, and the bundle waits. Once it has been performed, the bundle issues and the old value lands one cycle later. -/
def Obligations.AtomicsIssue : Prop :=
  ∀ (f : AtomF) (s : State), ∀ i ∈ [Instr.aadd f, .aand f, .aor f, .axor f, .amin f, .amax f, .aminu f, .amaxu f, .aswp f, .acas f, .afadd f],
    (∀ x, s.strand.sent = some x → x.done = true → s.room 1 →
      exec i s = .next ((s.putStrand { s.strand with sent := none }).gives f.d 1 x.old))
    ∧ (∀ x, s.strand.sent = some x → x.done = false → exec i s = .next (s.verdict .blocked))
    ∧ ∀ c addr, s.strand.sent = none → s.resolve (s.src f.addr) = some (c, addr) → addr % (if f.wide then 8 else 4) = 0 →
      bfmtValid ((s.coreAt c).fmt (bankOf addr)) = true → wheelHasWindow ((s.coreAt c).wheel (bankOf addr)) = true → s.fenceHolds clsA = false →
      ∀ (info : OpInfo) (entry : Nat × Rmw) (k : Core),
        info = { s.newInfo clsA 0 with arrive := if f.d = 30 then s.cur.arrive else [], vctl := (s.coreAt c).vctl } →
        entry = (bankOf addr, .atomic info addr i f.wide (s.src f.v) (s.src f.c) (decide (f.d ≠ 30))) →
        k = (if c = s.cur.core then { s.coreAt c with rmw := (s.coreAt c).rmw ++ [entry] }
          else { s.coreAt c with inbound := (s.coreAt c).inbound ++ [entry] }) →
        (f.d = 30 → exec i s = .next ((s.bumpId.setCore c k).verdict .ok))
        ∧ (f.d ≠ 30 → s.room 1 → ∃ x : Sent, x.id = s.nextId ∧ x.done = false ∧ ∀ t, t = s.bumpId.setCore c k →
          exec i s = .next ((t.putStrand { t.strand with sent := some x }).verdict .send))

/-- R169: performed on a sound line, with no verification mode in force at its issue, an atomic reads the old value of its four or eight bytes, writes the new one that its row names, and leaves every other byte of the core as it was. -/
def Obligations.AtomicsPerform : Prop :=
  ∀ (s : State) (core addr : Nat) (info : OpInfo) (f : AtomF) (op : Instr) (wide : Bool) (v c : Word) (n old new V C : Nat),
    n = (if wide then 64 else 32) → addr % (n / 8) = 0 → (s.coreAt core).sound info.world (addr / 64) → vctlEn info.vctl = false →
    old = leNat ((List.range (n / 8)).map fun j => (s.coreAt core).byteAt (addr + j)) → V = v.toNat % 2 ^ n → C = c.toNat % 2 ^ n →
    (op, new) ∈ [(Instr.aadd f, (old + V) % 2 ^ n), (.aand f, old &&& V), (.aor f, old ||| V), (.axor f, old ^^^ V),
      (.amin f, if (BitVec.ofNat n V).toInt < (BitVec.ofNat n old).toInt then V else old),
      (.amax f, if (BitVec.ofNat n old).toInt < (BitVec.ofNat n V).toInt then V else old),
      (.aminu f, min old V), (.amaxu f, max old V), (.aswp f, V), (.acas f, if old = C then V else old),
      (.afadd f, (if wide then fmtF64 else fmtF32).encode .rne false
        (FVal.add .rne ((if wide then fmtF64 else fmtF32).decode old) ((if wide then fmtF64 else fmtF32).decode V)))] →
    ∃ k : Core, s.performAtomic core info addr op wide v c = (s.setCore core k, word old)
      ∧ k = { s.coreAt core with spad := k.spad, lines := k.lines }
      ∧ (∀ a, k.byteAt a = if addr ≤ a ∧ a < addr + n / 8 then BitVec.ofNat 8 (new / 256 ^ (a - addr)) else (s.coreAt core).byteAt a)

/-- R143 and R170: in a window of the bank's wheel, ATOMIC_PERFORM performs the oldest operation of the bank's queue when it is an atomic: one without a return arrives; the bundle of one with a return issues, with the old value kept for it, in a cycle of its core that has come (log 94, DESIGN CHOICE). SYNC_COUNT does the same for a count and a swset. -/
def Obligations.BankQueueHeadIsPerformed : Prop :=
  ∀ (s : State) (core bank : Nat), wheelHasWindow ((s.coreAt core).wheel bank) = true →
    (∀ i addr op wide v c ret, (s.coreAt core).rmwHead bank = some (.atomic i addr op wide v c ret) →
      ∀ p s1, p = s.performAtomic core i addr op wide v c → s1 = p.1.setCore core ((p.1.coreAt core).rmwPop bank) →
      (ret = false → exec (.atomicPerform core bank) s = .next (s1.arriveOp i))
      ∧ (ret = true → (s.coreAt i.core).due = 0 → exec (.atomicPerform core bank) s = .next s)
      ∧ (ret = true → 0 < (s.coreAt i.core).due → ∀ x, (s1.strandAt i.core i.strand).sent = some x → x.id = i.id →
          exec (.atomicPerform core bank) s = .next ((s1.setStrandAt i.core i.strand
            { s1.strandAt i.core i.strand with sent := some { x with done := true, old := p.2 } }).issueSent i.core i.strand x)))
    ∧ (∀ addr bytes p x, (s.coreAt core).rmwHead bank = some (.count addr bytes p x) →
      exec (.syncCount core bank) s = .next ((s.setCore core ((s.coreAt core).rmwPop bank)).performCount core addr bytes p x))
    ∧ (∀ addr t v, (s.coreAt core).rmwHead bank = some (.swset addr t v) →
      exec (.syncCount core bank) s = .next ((s.setCore core ((s.coreAt core).rmwPop bank)).performSwset core addr t v))

/-- R154 and R155: counting bytes into a sync word adds them to the count; with a target, every whole target in the sum raises the generation by one and the remainder stays, and with none the count runs modulo 2^32; the flags only grow. -/
def Obligations.SyncWordCounts : Prop :=
  ∀ (w : SyncWord) (n : Nat) (p x : Bool),
    (w.target ≠ 0 → (w.add n p x).count < w.target
      ∧ ((w.add n p x).gen + 2 ^ 32 - w.gen % 2 ^ 32) % 2 ^ 32 = ((w.count + n) / w.target) % 2 ^ 32
      ∧ (w.count + n) / w.target * w.target + (w.add n p x).count = w.count + n)
    ∧ (w.target = 0 → (w.add n p x).count = (w.count + n) % 2 ^ 32 ∧ (w.add n p x).gen = w.gen)
    ∧ (w.add n p x).target = w.target
    ∧ (∀ b, w.flags.testBit b = true → (w.add n p x).flags.testBit b = true)
    ∧ (p = true → (w.add n p x).flags.testBit 0 = true) ∧ (x = true → (w.add n p x).flags.testBit 1 = true)

/-! ### The C slot: fabric and checkpoints -/

/-- R262, R264, R266, R267 and R271: a fabric operation that passes its checks, with fewer than 32 of its strand in progress, joins the fabric queue with its own number; pput and pget take their ring's slot, pamo with a return takes a permit, and pputv starts to read its columns. That csum, which names its group in a descriptor in the scratchpad, issues with no check of its group or its route is log 23 (DEDUCED). -/
def Obligations.FabricOperationsIssue : Prop :=
  ∀ (s : State), s.fabFull = false →
    (∀ (f : PutF) (i : Instr) (kind : FabKind) (peer side : Word) (spaces : List Nat) (writes : Bool) (p : Place),
      (i, kind, peer, side, spaces, writes) ∈ [(Instr.pput f, FabKind.put, s.src f.y, s.src f.x, [1, 2, 5], false),
        (.pget f, .get, s.src f.x, s.src f.y, [1, 2, 5, 7], true)] →
      s.peerFault peer kind = none → spaces.contains (Word.space side) = true → s.sidePlace side = .ok p →
      s.sideFault p .none (64 * (f.cnt.toNat + 1)) 0 = none → s.sideBlocked p writes = false → s.localFault p f.sync = none →
      peerRangeBad peer (64 * (f.cnt.toNat + 1)) 64 = false →
      ∀ t, t = s.queueFab (s.newFab kind peer (s.withSlot p writes) (64 * (f.cnt.toNat + 1)) f.notify f.sync) →
        (∀ k b off, p = .spad k b off → exec i s = .next (t.verdict .ok))
        ∧ ∀ k q sl, p = .ring k q sl → exec i s = .next (State.verdict (if writes
            then t.setCore k ((s.coreAt k).setRing q (((s.coreAt k).ring q).takeTail 1 false)) else t.consume k q 1 false) .ok))
    ∧ (∀ f : PutvF, s.peerFault (s.src f.x) .putv = none → s.syncMissing f.sync = false →
      peerRangeBad (s.src f.x) (16 * (2 * 2 ^ f.width.toNat)) (16 * (2 * 2 ^ f.width.toNat)) = false →
      ∃ F : Flight, exec (.pputv f) s = .next (((s.queueFab (s.newFab .putv (s.src f.x) .none (16 * (2 * 2 ^ f.width.toNat)) f.notify f.sync)).putStrand
          { s.strand with held := s.strand.held ++ [⟨.vector F, false, []⟩] }).verdict .ok)
        ∧ F.t = s.strand.ctime ∧ F.cols = 2 * 2 ^ f.width.toNat ∧ F.opId = s.nextId)
    ∧ (∀ f : PamoF, s.peerFault (s.src f.x) .amo = none → s.syncMissing f.sync = false →
      peerRangeBad (s.src f.x) (if f.wide then 8 else 4) (if f.wide then 8 else 4) = false →
      (f.ret = true → (s.core.ring f.q.toNat).configured = true ∧ ringSizeCode (s.core.ring f.q.toNat).desc ≠ 0
        ∧ bfmtValid (s.core.fmt (ringBank (s.core.ring f.q.toNat).desc)) = true ∧ s.permitsOf s.cur.core f.q.toNat ≠ 0) →
      ∀ o t, o = { s.newFab .amo (s.src f.x) (if f.ret then .ring s.cur.core f.q.toNat (s.core.ring f.q.toNat).tail else .none) 8 false f.sync with
          wide := f.wide, ret := if f.ret then some f.q.toNat else none, aop := f.aop, v := s.src f.y, c := s.src (f.y + 1) } →
        t = s.queueFab o →
        exec (.pamo f) s = .next (State.verdict (if f.ret
          then t.setCore s.cur.core (s.core.setRing f.q.toNat ((s.core.ring f.q.toNat).takeTail 1 false)) else t) .ok))
    ∧ (∀ (f : CopyF) (d p : Place), Word.space (s.src f.x) = 1 → Word.space (s.src f.y) = 1 →
      s.sidePlace (s.src f.x) = .ok d → s.sidePlace (s.src f.y) = .ok p → rangeBad d 64 = false → rangeBad p (64 * (f.cnt.toNat + 1)) = false →
      s.placeBad d = false → s.localFault p f.sync = none →
      exec (.csum f) s = .next ((s.queueFab (s.newFab .sum (s.src f.x) p (64 * (f.cnt.toNat + 1)) false f.sync)).verdict .ok))

/-! ### The X slot: control -/

/-- R11, R194, R195, R196, R197 and R198: nop does nothing; a branch whose condition fails goes on; a taken transfer whose target passes the checks of R195 is noted as the bundle's next pc and pops the loop entries it leaves (ret pops none), and call also gives n15 and the belt the pc of the next bundle. A taken transfer, or a call, whose target fails is a precise fault of the whole bundle, SLOT 0 (R328), with the fault's code; a poisoned entry gives XPOISON, and the first walk that finds it records one event of category 6 (R347): one that no copy of the world's map has as unfound records none. -/
def Obligations.TransfersComplete : Prop :=
  ∀ (s : State) (a : R5) (off24 : BitVec 24) (off : BitVec 19) (cond : BitVec 2) (ty : VType),
    exec .nop s = .next (s.verdict .ok)
    ∧ (∀ (i : Instr) (taken pops : Bool) (target : Word),
      (i, taken, pops, target) ∈ [(Instr.br off24, true, true, BitVec.ofInt 64 (s.cur.pc.toInt + off24.toInt * 32)),
        (.brz a off, decide (s.src a = 0), true, BitVec.ofInt 64 (s.cur.pc.toInt + off.toInt * 32)),
        (.brnz a off, decide (s.src a ≠ 0), true, BitVec.ofInt 64 (s.cur.pc.toInt + off.toInt * 32)),
        (.brcm cond ty off, brcmHolds cond ty s.strand.em s.strand.cm, true, BitVec.ofInt 64 (s.cur.pc.toInt + off.toInt * 32)),
        (.jmp a, true, true, s.src a), (.ret, true, false, s.strand.n.getD 15 0)] →
      (taken = false → exec i s = .next s.retires)
      ∧ (taken = true → s.targetFault s.cur.core target = none →
        exec i s = .next (State.retires { (if pops then s.putStrand { s.strand with lc := popLoops target s.strand.lc } else s) with
          cur := { s.cur with taken := some target } })))
    ∧ (∀ target : Word, target = BitVec.ofInt 64 (s.cur.pc.toInt + off24.toInt * 32) → s.targetFault s.cur.core target = none → s.room 1 →
      exec (.call off24) s = .next (State.gives { s with cur := { s.cur with taken := some target } } 15 1 (s.cur.pc + 32)))
    -- a target that fails its check: a precise fault of the whole bundle, after the walk that found a poisoned entry
    ∧ ∀ (i : Instr) (taken : Bool) (target : Word) (e : Nat),
      (i, taken, target) ∈ [(Instr.br off24, true, BitVec.ofInt 64 (s.cur.pc.toInt + off24.toInt * 32)),
        (.brz a off, decide (s.src a = 0), BitVec.ofInt 64 (s.cur.pc.toInt + off.toInt * 32)),
        (.brnz a off, decide (s.src a ≠ 0), BitVec.ofInt 64 (s.cur.pc.toInt + off.toInt * 32)),
        (.brcm cond ty off, brcmHolds cond ty s.strand.em s.strand.cm, BitVec.ofInt 64 (s.cur.pc.toInt + off.toInt * 32)),
        (.call off24, true, BitVec.ofInt 64 (s.cur.pc.toInt + off24.toInt * 32)), (.jmp a, true, s.src a), (.ret, true, s.strand.n.getD 15 0)] →
      taken = true → s.targetFault s.cur.core target = some e →
      ∃ u : State, exec i s = .next (u.takePrecise ⟨e, 0, 7, 0, s.cur.pc, false, false⟩)
        ∧ (e ≠ cXpoison → u = s)
        ∧ (e = cXpoison → ∀ (w : World) (seen : Bool), w = s.worldAt s.strand.world →
          seen = ([w.pages, w.live, w.fabView] ++ (s.wgs.filter fun g => g.world = s.strand.world).map fun g => g.view).all
            (fun m => !unfound (pageOf target.toNat) m) →
          (seen = true → u = s) ∧ (seen = false → u.eseq = s.eseq + 1 ∧ SMap.get u.ecnt 0 6 = SMap.get s.ecnt 0 6 + 1))

/-- R195: the checks of a transfer's target, in order: a tag or cluster bits above bit 55 give SPACE, region 0 CHOWN, a region other than the system window XLATE, a pc that is no multiple of 32 ALIGN, and an address that does not translate XLATE, or XPOISON for a poisoned entry; every other target is accepted. -/
def Obligations.TransferTargetChecksInOrder : Prop :=
  ∀ (s : State) (c : Nat) (t : Word),
    (t.toNat / 2 ^ 56 ≠ 0 → s.targetFault c t = some cSpace)
    ∧ (t.toNat / 2 ^ 56 = 0 → t.toNat / 2 ^ 52 = 0 → s.targetFault c t = some cChown)
    ∧ (t.toNat / 2 ^ 56 = 0 → 1 < t.toNat / 2 ^ 52 → s.targetFault c t = some cXlate)
    ∧ (t.toNat / 2 ^ 52 = 1 → t.toNat % 32 ≠ 0 → s.targetFault c t = some cAlign)
    ∧ (t.toNat / 2 ^ 52 = 1 → t.toNat % 32 = 0 → t.toNat % 2 ^ 52 / 2 ^ 39 ≠ 0 → s.targetFault c t = some cXlate)
    ∧ (t.toNat / 2 ^ 52 = 1 → t.toNat % 32 = 0 → t.toNat % 2 ^ 52 / 2 ^ 39 = 0 →
      (SMap.find (s.viewOf c) (pageOf t.toNat) = none → s.targetFault c t = some cXlate)
      ∧ ∀ p, SMap.find (s.viewOf c) (pageOf t.toNat) = some p →
        s.targetFault c t = if p.poisoned then some cXpoison else none)

/-- R198, R199, R200 and R204: loop with a count opens an entry whose body starts at the next bundle, and with 0 skips the body, of which the target is not checked there (log 99, DEDUCED); it faults with SCHED above 0xFFFFF or at depth 3; rep sets up the repetition of the next bundle; end closes every region and ends the strand. Also: R198 and R200: the pc after a bundle without a transfer. At the last bundle of the innermost loop body the count decides between the body's start and leaving the entry; a repetition keeps the pc until its index reaches its count. -/
def Obligations.LoopsRepetitionsAndEnd : Prop :=
  (∀ (s : State) (a : R5) (off : BitVec 19) (n : BitVec 6) (step : BitVec 18),
      (0 < (s.src a).toNat → (s.src a).toNat ≤ 0xFFFFF → s.strand.lc.length < 3 →
        exec (.loop a off) s = .next (s.putStrand { s.strand with
          lc := { count := (s.src a).toNat, start := s.cur.pc + 32, last := BitVec.ofNat 64 (s.cur.pc.toNat + off.toNat * 32) } :: s.strand.lc }).retires)
      ∧ ((s.src a).toNat = 0 → s.strand.lc.length < 3 →
        exec (.loop a off) s = .next (State.retires { s with
          cur := { s.cur with taken := some (BitVec.ofNat 64 (s.cur.pc.toNat + (off.toNat + 1) * 32)) } }))
      ∧ (0xFFFFF < (s.src a).toNat ∨ 3 ≤ s.strand.lc.length → exec (.loop a off) s = .next (s.takePrecise (s.precise cSched 0)))
      ∧ ((∀ e ∈ s.strand.lc, e.last ≠ s.cur.pc) →
        exec (.rep n step) s = .next (s.putStrand { s.strand with
          repActive := true, repCount := n.toNat, repIndex := 0, repStep := step, repAddr := some (s.cur.pc + 32) }).retires)
      ∧ exec .endStrand s = .next (s.putStrand { s.strand with status := .ended, regions := [] }).retires)
  ∧ ∀ (x : Strand) (e : LoopEntry) (es : List LoopEntry),
      (x.repActive = false → x.lc = e :: es → e.last = x.pc → 1 < e.count →
        (x.goOn none false).pc = e.start ∧ (x.goOn none false).lc = { e with count := e.count - 1 } :: es)
      ∧ (x.repActive = false → x.lc = e :: es → e.last ≠ x.pc → (x.goOn none false).pc = x.pc + 32 ∧ (x.goOn none false).lc = x.lc)
      ∧ (x.repActive = false → x.lc = [e] → e.last = x.pc → e.count ≤ 1 → (x.goOn none false).pc = x.pc + 32 ∧ (x.goOn none false).lc = [])
      ∧ (x.repActive = true → x.repIndex < x.repCount → (x.goOn none true).pc = x.pc ∧ (x.goOn none true).repIndex = x.repIndex + 1
          ∧ (x.goOn none true).repActive = true)
      ∧ (x.repActive = true → x.repCount ≤ x.repIndex → x.lc = [] → (x.goOn none true).pc = x.pc + 32 ∧ (x.goOn none true).repActive = false)
      ∧ ∀ target was, (x.goOn (some target) was).pc = target

/-! ### The X slot: phases and fences -/

/-- R316, R317, R319, R320 and R321: a released phase goes on with the boundary's number, one that is not released arrives and blocks; xfence puts the unperformed accesses of its from-classes that the strand issued in earlier bundles before later ones of its to-classes; ifence empties the core's instruction buffer. Also: R316, R317, R318 and R325: PHASE_BOUNDARY of a running workgroup, or of one that a seal has given notice and not yet stopped, whose present strands have all arrived, with everything before it performed, numbers the boundary, releases the strands and takes the translation in force; while they have not all arrived it does nothing. -/
def Obligations.PhasesAndFencesComplete : Prop :=
  (∀ (s : State) (src dst : BitVec 7),
      (s.strand.released = true → ∀ w, s.wg = some w → w.boundary < 2 ^ 64 →
        exec .phase s = .next (s.putStrand { s.strand with released := false, phasen := w.boundary }).retires)
      ∧ (s.strand.released = false →
        exec .phase s = .next ((s.putStrand { s.strand with arrived := true, notified := false }).verdict .blocked))
      ∧ (∃ fs : List Fence, exec (.xfence src dst) s = .next (s.putStrand { s.strand with
            fences := fs ++ [{ waits := (s.unperformed s.cur.core s.cur.strand src).filter (fun n => decide (n < s.cur.firstId)), dst := dst }] }).retires
          ∧ (∀ g, g ∈ fs ↔ g ∈ s.strand.fences ∧ g.waits.any s.inFlight = true))
      ∧ exec .ifence s = .next (s.putCore { s.core with ibuf := [] }).retires)
  ∧ ∀ (s : State) (id : Nat) (w : Workgroup), s.wgAt id = some w →
      (w.state = .running ∨ (w.state = .sealing ∧ s.sealStopped id = false) → s.boundaryDue w = true →
        ∃ t w', exec (.phaseBoundary id) s = .next t ∧ t.wgAt id = some w' ∧ w'.boundary = w.boundary + 1 ∧ w'.stale = false
          ∧ w'.view = (s.worldAt w.world).live ∧ t.sysmem = s.sysmem ∧ t.dram = s.dram
          ∧ (∀ c t', c ∈ w.cores → (t', s.strandAt c t') ∈ (s.coreAt c).strands → (s.strandAt c t').arrived = true →
              (t.strandAt c t').released = true ∧ (t.strandAt c t').arrived = false))
      ∧ (s.boundaryDue w = false → exec (.phaseBoundary id) s = .next s)

/-! ### The X slot: containment and the system registers -/

/-- R335, R336, R338 and R340: cropen opens a region with its mask, its handler and the bundle's first operation, and faults with CRDEPTH at four open regions; crclose closes the innermost, and faults with CRDEPTH at none; cmpd starts to compare eight columns; brk goes on where the world has no debug enable, and halts the strand where it has: its debug event is posted to the world, or kept for the unseal. That it is kept unposted exactly while the workgroup is being sealed is log 25 (DEDUCED). -/
def Obligations.RegionsAndBreakpoints : Prop :=
  ∀ (s : State) (mask mask2 : BitVec 8) (off imm : BitVec 16) (reg : R5),
    (s.strand.regions.length < 4 → exec (.cropen mask off) s = .next (s.putStrand { s.strand with
      regions := { mask := mask, handler := BitVec.ofInt 64 (s.cur.pc.toInt + off.toInt * 32), firstId := s.cur.firstId } :: s.strand.regions }).retires)
    ∧ (4 ≤ s.strand.regions.length → exec (.cropen mask off) s = .next (s.takePrecise (s.precise cCrdepth 0)))
    ∧ (∀ r outer, s.strand.regions = r :: outer → exec .crclose s = .next (s.putStrand { s.strand with regions := outer }).retires)
    ∧ (s.strand.regions = [] → exec .crclose s = .next (s.takePrecise (s.precise cCrdepth 0)))
    ∧ (∃ F : Flight, exec (.cmpd reg mask2) s = .next (s.starts F false) ∧ F.t = s.strand.ctime ∧ F.instr = .cmpd reg mask2 ∧ F.c0 = 0 ∧ F.cols = 8)
    ∧ ((s.worldAt s.strand.world).debug = false → exec (.brk imm) s = .next s.retires)
    ∧ ((s.worldAt s.strand.world).debug = true → ∀ w, s.wg = some w →
      (w.state ≠ .sealing → ∃ e : List Byte, exec (.brk imm) s = .next (((s.putStrand { s.strand with status := .halted }).setWorld s.strand.world
        { s.worldAt s.strand.world with debugQueue := (s.worldAt s.strand.world).debugQueue ++ [e] }).retires))
      ∧ (w.state = .sealing → exec (.brk imm) s = .next (s.putStrand { s.strand with
          status := .halted, debugUnposted := some (imm, s.cur.pc, s.strand.ctime) }).retires))

/-- R337: trap is a precise fault with code TRAP, class 7, its immediate as DETAIL and slot 7, and the rest of its bundle has no effect: where the slots before it would all take their effect, no one of them blocking or faulting by itself or after the others, the attempt to issue the bundle is this fault alone. -/
def Obligations.TrapTakesItsFault : Prop :=
  ∀ (s : State) (imm : BitVec 16), s.cur.slot = .x →
    exec (.trap imm) s = .next (s.takePrecise { code := 0, slot := 7, cls := 7, detail := imm.toNat, addr := s.cur.pc, imprecise := false, merged := false })
    ∧ ∀ (s0 : State) (b before : Bundle) (bytes : List Byte), b = { before with syls := before.syls ++ [(Slot.x, Instr.trap imm)] } →
        s0.strand.sent = none → (∀ p ∈ before.syls, s0.privSyl p.2 = false) →
        (∀ p ∈ before.syls, (s0.runSlot b.hdr p).cur.verdict ≠ .blocked) →
        (s0.passSlots before (s0.tried before)).blocked = false → (s0.passSlots before (s0.tried before)).fault = none →
        s0.attemptBundle b bytes = ⟨.faulted, b.hdr.yield, b.hdr, (s0.atSlot b.hdr .x).takePrecise
          { code := 0, slot := 7, cls := 7, detail := imm.toNat, addr := s0.cur.pc, imprecise := false, merged := false }⟩

/-- R339 and R40: sysr gives the value of its register at issue one cycle later, for every register that R39 lists, and zero for a supervisor index that is not listed; sysw writes the registers that have no row of their own (BFMT, FAULT, FADDR, FCOUNT, ELOGBASE, ELOGTAIL), reserved bits of BFMT and FAULT staying zero. Also: R52, R86, R138, R141, R154, R199, R202, R238, R324, R344, R348 and R349: each register write that has a row of its own completes under its conditions and writes its register. -/
def Obligations.SystemRegisterMoves : Prop :=
  (∀ (s : State) (d src : R5) (idx : BitVec 12), s.sysPriv idx.toNat = false →
      (s.room 1 → exec (.sysr d idx) s = .next (s.gives d 1 (s.sysReg idx.toNat)))
      -- what each register reads as
      ∧ (∀ n v, (n, v) ∈ [(0x000, word s.strand.ctime), (0x001, word s.strand.strandId), (0x002, word s.strand.world), (0x003, word s.strand.phasen),
          (0x030, word ((s.wg.map (·.mprof)).getD 0x47)), (0x040, s.strand.fault), (0x041, s.strand.faddr), (0x042, s.strand.fcount), (0x060, s.core.mg),
          (0x080, s.core.vctl), (0x828, 0), (0x829, word ((s.wgs.filter fun w => w.world == s.xinvWorld && w.stale && w.state != .sealed).length % 65536)),
          (0x830, s.elogBase), (0x831, s.elogHead), (0x832, s.elogTail), (0x833, if s.elogOvf then 0x8000000000000000 else 0), (0x834, s.eseq)] → s.sysReg n = v)
      ∧ (∀ k, k < 16 → s.sysReg (0x010 + k) = SMap.get s.core.bfmt 0 k ∧ s.sysReg (0x020 + k) = SMap.get s.core.bwheel Config.defaultWheel k
          ∧ s.sysReg (0x070 + k) = SMap.get s.strand.sync 0 k ∧ (k < 8 → s.sysReg (0x840 + k) = SMap.get s.ecnt 0 k))
      ∧ (∀ v, v = s.sysReg 0x004 → v.getLsbD 32 = s.strand.repActive ∧ Word.field v 26 6 = s.strand.repCount % 64 ∧ Word.field v 20 6 = s.strand.repIndex % 64
          ∧ Word.field v 0 18 = s.strand.repStep.toNat ∧ Word.field v 33 31 = 0 ∧ Word.field v 18 2 = 0)
      ∧ (∀ v, v = s.sysReg 0x005 → s.strand.lc.length ≤ 3 → Word.field v 62 2 = s.strand.lc.length ∧ Word.field v 60 2 = 0
          ∧ ∀ i, i < 3 → Word.field v (20 * i) 20 = ((s.strand.lc.reverse.map (·.count)).getD i 0) % 2 ^ 20)
      ∧ (∀ v w own, v = s.sysReg 0x031 → s.wg = some w → own = (w.window.filter fun ch => ch.rank == s.core.rank && ch.strand == s.cur.strand).map (·.lchan) →
          w.window.length ≤ 64 → (∀ x ∈ own, x < 512) →
          v.getLsbD 32 = w.remap ∧ Word.field v 25 7 = w.window.length ∧ Word.field v 18 7 = own.length ∧ Word.field v 33 31 = 0
          ∧ (own = [] → Word.field v 0 18 = 0) ∧ (own ≠ [] → Word.field v 0 9 ∈ own ∧ Word.field v 9 9 ∈ own)
          ∧ ∀ x ∈ own, Word.field v 0 9 ≤ x ∧ x ≤ Word.field v 9 9)
      ∧ (∀ v (gone : Nat → Nat → Nat), v = s.sysReg 0x820 → (gone = fun st pc => (s.goneSlices.filter fun g => g.1 == st && g.2.1 == pc).length) →
          Word.field v 48 16 = s.mcapEvents % 2 ^ 16 ∧ (∀ k, k < 8 → (v.getLsbD (40 + k) = true ↔ ∃ pc, pc < 64 ∧ gone k pc < 4))
          ∧ Word.field v 16 12 = 1792 - (s.goneSlices.filter fun g => g.2.1 < 56).length ∧ Word.field v 28 12 = 0 ∧ Word.field v 9 7 = 0
          ∧ Word.field v 0 9 = ((List.range 8).map fun k => (List.range 56).countP fun pc => gone k pc < 4).sum)
      ∧ (∀ n, 0x800 ≤ n → n ∉ [0x820, 0x829, 0x830, 0x831, 0x832, 0x833, 0x834, 0x840, 0x841, 0x842, 0x843, 0x844, 0x845, 0x846, 0x847] → s.sysReg n = 0)
      ∧ (∀ k : Nat, k < 16 → idx.toNat = 0x010 + k →
        exec (.sysw src idx) s = .next (s.putCore { s.core with bfmt := SMap.set s.core.bfmt k (s.src src &&& 0xFFFFFFFC) }).retires)
      ∧ (idx.toNat = 0x040 → exec (.sysw src idx) s = .next (s.putStrand { s.strand with fault := s.src src &&& 0xE0FFE0FFFFFFFFFF }).retires)
      ∧ (idx.toNat = 0x041 → exec (.sysw src idx) s = .next (s.putStrand { s.strand with faddr := s.src src }).retires)
      ∧ (idx.toNat = 0x042 → exec (.sysw src idx) s = .next (s.putStrand { s.strand with fcount := s.src src }).retires)
      ∧ (idx.toNat = 0x830 → exec (.sysw src idx) s = .next (State.retires { s with elogBase := s.src src }))
      ∧ (idx.toNat = 0x832 → exec (.sysw src idx) s = .next (State.retires { s with elogTail := s.src src })))
  ∧ ∀ (s : State) (src : R5) (k : BitVec 4) (v : Word), v = s.src src →
      (wheelOk (v &&& 0xFFFFFFFFFFFF) = true → (wheelHasWindow (v &&& 0xFFFFFFFFFFFF) = true ∨ s.syncInto k.toNat = false) →
        exec (.bwheelWrite src k) s = .next (s.putCore { s.core with bwheel := SMap.set s.core.bwheel k.toNat (v &&& 0xFFFFFFFFFFFF) }).retires)
      ∧ ((v = 0 ∨ ∃ c addr, s.resolve v = some (c, addr) ∧ addr % 16 = 0 ∧ wheelHasWindow ((s.coreAt c).wheel (bankOf addr)) = true) →
        exec (.syncRegisterWrite src k) s = .next (s.putStrand { s.strand with sync := SMap.set s.strand.sync k.toNat v }).retires)
      ∧ (Word.field v 20 6 ≤ Word.field v 26 6 →
        (v.getLsbD 32 = false → exec (.repcWrite src) s = .next (s.putStrand { s.strand with
          repActive := false, repCount := Word.field v 26 6, repIndex := Word.field v 20 6, repStep := (v.extractLsb' 0 15).setWidth 18 }).retires)
        ∧ (v.getLsbD 32 = true → ∀ a, s.strand.repAddr = some a → s.targetFault s.cur.core a = none →
          exec (.repcWrite src) s = .next (State.retires { s.putStrand { s.strand with
            repActive := true, repCount := Word.field v 26 6, repIndex := Word.field v 20 6, repStep := (v.extractLsb' 0 15).setWidth 18 } with
            cur := { s.cur with taken := some a } })))
      ∧ (Word.field v 62 2 ≤ s.strand.lc.length →
        exec (.lcWrite src) s = .next (s.putStrand { s.strand with
          lc := lcCounts v (s.strand.lc.drop (s.strand.lc.length - Word.field v 62 2)) }).retires)
      ∧ (mgOk v = true → exec (.mgWrite src) s = .next (s.putCore { s.core with mg := v }).retires)
      ∧ ((s.worldAt s.strand.world).test = true → vctlTgt v ≤ 5 → Word.field v 32 20 = 0 → (vctlTgt v = 5 → Word.field v 24 8 = 0) →
        exec (.vctlWrite src) s = .next (s.putCore { s.core with vctl := v, vctlEvent := 1 }).retires)
      ∧ (s.strand.world = 0 →
        (xinvOk v = false → exec (.xinvWrite src) s = .next s.retires)
        ∧ (xinvOk v = true → ∀ s1 gs, s1 = (if Word.field v 62 2 = 1 then s.invalidate (Word.field v 56 4) (fun page => page == Word.field v 0 31)
              else if Word.field v 62 2 = 3 then s.invalidate (Word.field v 56 4) (fun _ => true) else s) →
            gs = s1.wgs.map (fun g => if g.world = Word.field v 56 4 ∧ g.state ≠ .sealed ∧ Word.field v 62 2 ≠ 0 then { g with stale := true } else g) →
          exec (.xinvWrite src) s = .next (State.retires { s1 with xinvWorld := Word.field v 56 4, wgs := gs }))
        ∧ exec (.estatWrite src) s = .next (State.retires { s with elogOvf := s.elogOvf && !v.getLsbD 63 }))

/-- R25 and R40: seal, unseal, and a read or write of a register of index 0x800 or more, by a strand of a world other than 0, fault with PRIV, and so does VCTL in a partition that is not flagged TEST; nothing else of the instruction happens. That an index that no sysw may write is refused as the encoding ILLEG, before privilege, so that no write of such an index reaches this check, is log 29 (DEDUCED). -/
def Obligations.SupervisorInstructionsFaultPriv : Prop :=
  ∀ (s : State) (d src : R5) (idx : BitVec 12) (sync : BitVec 4),
    (((0x800 ≤ idx.toNat ∧ s.strand.world ≠ 0) ∨ (idx.toNat = 0x080 ∧ (s.worldAt s.strand.world).test = false)) →
      ∀ i ∈ [Instr.sysr d idx, .sysw src idx], exec i s = .next (s.takePrecise (s.precise cPriv 0)))
    ∧ (s.strand.world ≠ 0 → ∀ i ∈ [Instr.xinvWrite src, .estatWrite src, .seal d sync, .unseal d sync],
        exec i s = .next (s.takePrecise (s.precise cPriv 0)))
    ∧ ((s.worldAt s.strand.world).test = false → exec (.vctlWrite src) s = .next (s.takePrecise (s.precise cPriv 0)))

/-! ### The X slot: trust; checkpoints -/

/-- R362, R363, R368, R369 and R372: the trust and checkpoint syllables that pass their checks: scrub of a scratchpad or scale range joins the copy port, and of accumulator tiles zeroes them at once with their watermarks kept; krot draws the next key set; metr gives a value that is at most the meter and, where the meter has not fallen, at least what the cluster has seen; mets, cksave and ckload are noted as requests. -/
def Obligations.TrustSyllablesComplete : Prop :=
  ∀ (s : State) (a d len x : R5) (k : BitVec 4), s.syncMissing k = false →
    (∀ side, [1, 2, 4].contains (Word.space (s.src a)) = true → s.sidePlace (s.src a) = .ok side →
      (∀ off, (∃ c b, side = .spad c b off ∨ side = .scale c b off) → scrubBad (Word.space (s.src a)) off (s.src len).toNat = false) →
      (∃ c b off, side = .spad c b off ∨ side = .scale c b off) → s.copiesOf s.cur.core s.cur.strand < 32 →
      exec (.scrub a len k) s = .next ((s.queueCopy .scrub .none side 0 (s.src len).toNat 0 k).verdict .ok))
    ∧ (∀ tile off, Word.space (s.src a) = 3 → localPtr (s.src a) = some (.acc tile off) → scrubBad 3 (tile * 8192 + off) (s.src len).toNat = false →
      (∀ i, i < (s.src len).toNat / 8192 → s.core.engaged (tile + i) = false) → s.fenceHolds clsV = false →
      ∃ c : Core, exec (.scrub a len k) s = .next (State.retires ((s.putCore c).countFor (s.newInfo clsV (s.syncPtr k)) (s.src len).toNat false))
        ∧ (∀ t, tile ≤ t → t < tile + (s.src len).toNat / 8192 → c.acc t = { s.core.acc t with el := [], rs := [], cs := [], ckv := true })
        ∧ (∀ t, ¬ (tile ≤ t ∧ t < tile + (s.src len).toNat / 8192) → c.acc t = s.core.acc t))
    ∧ (∀ w, w = Word.field (s.src a) 0 4 → (s.strand.world = 0 ∨ s.strand.world = w) → (s.worldAt w).rotating = none →
      exec (.krot a k) s = .next (State.verdict { s.bumpId.setWorld w { s.worldAt w with
        rotating := some (s.drbg + 1, s.syncPtr k, s.newInfo clsNone (s.syncPtr k)) } with drbg := s.drbg + 1 } .ok))
    ∧ (s.room 1 → ∃ t v, exec (.metr d a) s = .next t ∧ t.cur.verdict = .ok
        ∧ t.strand.held = s.strand.held ++ heldResults (s.strand.ctime + 1) s.cur.arrive [.push v (if d.toNat ≤ 15 then some d.toNat else none)]
        ∧ v.toNat ≤ (SMap.get (s.worldAt s.strand.world).meters 0 (Word.field (s.src a) 0 4)).toNat
        ∧ (∀ seen : Word, seen = SMap.get (SMap.get (s.worldAt s.strand.world).mirror [] (s.cur.core / 12)) 0 (Word.field (s.src a) 0 4) →
            seen.toNat ≤ (SMap.get (s.worldAt s.strand.world).meters 0 (Word.field (s.src a) 0 4)).toNat → seen.toNat ≤ v.toNat))
    ∧ (∀ addr, ownAddr (s.src a) = some addr → addr % 4096 = 0 →
      ((s.worldAt s.strand.world).mets.filter fun m => m.1.core == s.cur.core && m.1.strand == s.cur.strand).length < 4 → s.fenceHolds clsC = false →
      s.core.sound s.strand.world (addr / 64 + 3) → s.core.sound s.strand.world (addr / 64 + 4) →
      ∃ t, exec (.mets a k) s = .next t ∧ t.cur.verdict = .ok ∧ t.strand = s.strand
        ∧ (t.worldAt s.strand.world).mets = (s.worldAt s.strand.world).mets
          ++ [(s.newInfo clsNone (s.syncPtr k), addr, (List.range 16).map fun j => s.core.byteAt (addr + 248 + j))])
    ∧ ∀ addr, ownAddr (s.src x) = some addr → addr % 128 = 0 →
      (s.cks.filter fun o => o.info.core == s.cur.core && o.info.strand == s.cur.strand).length < 4 →
      exec (.cksave x k) s = .next (State.verdict { s.bumpId with cks := s.cks ++ [{ info := s.newInfo clsF (s.syncPtr k), load := false, block := addr, puts := [], failed := false, pending := none }] } .ok)
      ∧ exec (.ckload x k) s = .next (State.verdict { s.bumpId with cks := s.cks ++ [{ info := s.newInfo clsF (s.syncPtr k), load := true, block := addr, puts := [], failed := false, pending := none }] } .ok)

/-- R350, R351, R352 and R353: seal and unseal read their block and go on; that it is read at issue, and that the statuses are decided in this order and a request that has one ends at once, is log 44 (DEDUCED). A seal of a running workgroup that terminates it, or whose area translates, puts it into sealing and notes the request, with the notice given first where the block asks for it; a seal that terminates a sealed workgroup discards its image and ends with status 0; one that names no workgroup, or one that is not running, otherwise ends with status 1, and one whose area does not translate with 3. An unseal of an image is noted for verification; one that asks to terminate ends with status 7, one without an image with 1, one that names a cluster that is not the world's with 2, and one whose area does not translate with 3. -/
def Obligations.SealRequestsIssue : Prop :=
  ∀ (s : State) (a : R5) (k : BitVec 4) (addr : Nat), ownAddr (s.src a) = some addr → addr % 64 = 0 → s.strand.world = 0 → s.core.sound 0 (addr / 64) →
    ∀ (b : SealBlock) (isUnseal : Bool) (q : SealReq) (s1 : State), b = SealBlock.ofBytes ((List.range 64).map fun j => s.core.byteAt (addr + j)) →
      q = { info := s.newInfo clsNone (s.syncPtr k), isUnseal := isUnseal, block := addr, world := b.world, queue := b.queue, seq := b.seq,
            wgIndex := b.wg, flags := b.flags, area := b.area, cluster := b.cluster, grace := b.grace, wg := 0, endedBy := none,
            stage := .verify, since := s.ns, bytes := 0, rows := [], silent := false } →
      s1 = (s.setCore s.cur.core s.core).bumpId →
      (isUnseal = false →
        (s.wgs.find? q.names = none → exec (.seal a k) s = .next ((s1.sealEnd q 1 0).verdict .ok))
        ∧ ∀ w, s.wgs.find? q.names = some w →
          (w.state = .running → (q.terminates = true ∨ s.areaOk q.world q.area w.cores.length = true) →
            ∀ s2, s2 = { s1.modWg w.id (fun w => { w with state := .sealing }) with
                seals := s.seals ++ [{ q with wg := w.id, stage := if q.notice then .notice else .stop }] } →
            exec (.seal a k) s = .next (State.verdict (if q.notice then s2.giveNotice w else s2) .ok))
          ∧ (w.state = .running → q.terminates = false → s.areaOk q.world q.area w.cores.length = false →
            exec (.seal a k) s = .next ((s1.sealEnd q 3 0).verdict .ok))
          ∧ (w.state = .sealed → q.terminates = true → exec (.seal a k) s = .next (((s1.discard w).sealEnd q 0 0).verdict .ok))
          ∧ (w.state ≠ .running → (w.state = .sealed → q.terminates = false) → exec (.seal a k) s = .next ((s1.sealEnd q 1 0).verdict .ok)))
      ∧ (isUnseal = true →
        (q.terminates = true → exec (.unseal a k) s = .next ((s1.sealEnd q 7 0).verdict .ok))
        ∧ (q.terminates = false → s.imageOf q = none → exec (.unseal a k) s = .next ((s1.sealEnd q 1 0).verdict .ok))
        ∧ (q.terminates = false → ∀ m, s.imageOf q = some m →
          (q.cluster ≠ 0xFFFF → (s.worldAt q.world).hasCluster q.cluster = false → exec (.unseal a k) s = .next ((s1.sealEnd q 2 0).verdict .ok))
          ∧ (q.cluster = 0xFFFF ∨ (s.worldAt q.world).hasCluster q.cluster = true →
            (s.areaOk q.world q.area m.cores.length = false → exec (.unseal a k) s = .next ((s1.sealEnd q 3 0).verdict .ok))
            ∧ (s.areaOk q.world q.area m.cores.length = true → exec (.unseal a k) s = .next (State.verdict { s1 with seals := s.seals ++ [q] } .ok)))))

/-! ### Events: sealing -/

/-- R351, R352, R354, R386: a seal goes through its states. The notice ends when every notified strand has arrived or finished, or the grace has passed; the stop ends when no sent atomic is left; a workgroup whose strands have then all finished completes and its seal ends; the drain ends when nothing of the workgroup is in flight, and either terminates it or records its open rows and releases its grants; the commit writes the image, frees the cores and leaves the workgroup sealed with its image and status 0; a workgroup that a fault ends meanwhile has its seal end with status 6 and the code. Also: R80, R353: an unseal whose image verifies, whose channels are grantable, whose world may run and for which a cluster has room is placed: the workgroup runs on its new cores with the view in force; an image that does not verify ends it with status 4, its failing lines logged, a named cluster that has left the world's partition with 2, and with no room it ends with 5, and while a channel is not grantable or the world may not run it waits; the wait for a world that may not run, and the end with 2 at the placement, are logs 52 and 58 (DEDUCED). Past the restore point of its channels it ends with status 0 and what was saved for its strands is delivered. -/
def Obligations.SealsAndUnsealsAdvance : Prop :=
  (∀ (s : State) (id : Nat) (q : SealReq) (w : Workgroup), q.endedBy = none → s.wgAt q.wg = some w →
      (s.findSeal id .notice = some q → (s.noticeMet w = true ∨ q.since + q.grace * 1000 ≤ s.ns) →
        (s.allFinished w = false → exec (.sealNoticeEnd id) s = .next (s.modSeal id fun q => { q with stage := .stop }))
        ∧ (s.allFinished w = true → exec (.sealNoticeEnd id) s = .next ((s.endWg w true).sealEnd q 1 0)))
      ∧ (s.findSeal id .stop = some q → (∀ p ∈ s.strandsOf w, p.2.2.sent = none) →
        ((q.notice = true ∨ s.allFinished w = false) → ∀ t, t = s.modSeal id (fun q => { q with stage := .drain }) →
          exec (.sealStopped id) s = .next (if q.terminates then t.abandonWg q.wg else t))
        ∧ (q.notice = false → s.allFinished w = true → exec (.sealStopped id) s = .next ((s.endWg w true).sealEnd q 1 0)))
      ∧ (s.findSeal id .drain = some q → s.drained w = true →
        (q.terminates = true → exec (.sealDrainComplete id) s = .next ((s.killWg w).sealEnd q 0 0))
        ∧ (q.terminates = false → ∀ rows, rows = w.window.filterMap (fun ch => ch.pc.map fun p => (ch.lchan, (s.pcAt (pcKey p.1 p.2)).rowOrder)) →
          exec (.sealDrainComplete id) s = .next ((s.releasePcs w.id).modSeal id fun q => { q with stage := .save, rows := rows })))
      ∧ (s.findSeal id .save = some q →
        ∃ (s2 : State) (m : Image), exec (.sealImageCommitted id) s = .next (s2.sealEnd q 0 m.bytes) ∧ m.bytes ≤ imageBound w.cores.length
          ∧ m.wg = w ∧ m.cores = w.cores.map s.coreAt ∧ m.rows = q.rows ∧ m.area = q.area ∧ m.discarded = false ∧ m ∈ s2.images
          ∧ s2.wgAt q.wg = some { w with state := .sealed, cores := [] }))
  ∧ (∀ (s : State) (id : Nat) (q : SealReq) (code : Nat), q.endedBy = some code → ∀ p ∈ [(Stage.notice, Instr.sealNoticeEnd id), (.stop, .sealStopped id),
      (.drain, .sealDrainComplete id), (.save, .sealImageCommitted id)], s.findSeal id p.1 = some q →
      exec p.2 s = .next (s.sealEnd q (6 + 256 * (code % 256)) 0))
  ∧ ∀ (s : State) (id : Nat) (q : SealReq),
      (∀ (m : Image) (w0 : Workgroup), s.findSeal id .verify = some q → s.imageOf q = some m → s.wgAt m.wg.id = some w0 →
        (s.imageGood q m = false → exec (.unsealPlacement id) s = .next ((s.sysChecked q.world q.area.toNat m.bytes).sealEnd q 4 m.bytes))
        ∧ (s.imageGood q m = true →
          ((m.wg.window.map fun ch => (s.worldAt q.world).chan ch.lchan ch.rank ch.strand).all (s.grantable q.world m.wg.id) = false
              ∨ (s.worldAt q.world).migration ≠ .none ∨ (s.worldAt q.world).tdisp ≠ .run) →
          exec (.unsealPlacement id) s = .next s)
        ∧ (s.imageGood q m = true →
          (m.wg.window.map fun ch => (s.worldAt q.world).chan ch.lchan ch.rank ch.strand).all (s.grantable q.world m.wg.id) = true →
          (s.worldAt q.world).migration = .none → (s.worldAt q.world).tdisp = .run →
          q.cluster ≠ 0xFFFF → (s.worldAt q.world).hasCluster q.cluster = false → exec (.unsealPlacement id) s = .next (s.sealEnd q 2 m.bytes))
        ∧ (s.imageGood q m = true →
          (m.wg.window.map fun ch => (s.worldAt q.world).chan ch.lchan ch.rank ch.strand).all (s.grantable q.world m.wg.id) = true →
          (s.worldAt q.world).migration = .none → (s.worldAt q.world).tdisp = .run →
          (q.cluster = 0xFFFF ∨ (s.worldAt q.world).hasCluster q.cluster = true) →
          (s.unsealRanks q m.wg.launch m.cores.length = none → q.silent = false → exec (.unsealPlacement id) s = .next (s.sealEnd q 5 m.bytes))
          ∧ ∀ k new, s.unsealRanks q m.wg.launch m.cores.length = some (k, new) →
            ∃ (s3 : State) (w : Workgroup), exec (.unsealPlacement id) s = .next (s3.modSeal id fun q => { q with wg := w.id, stage := .restore, bytes := m.bytes })
              ∧ s3.wgAt m.wg.id = some w ∧ w.state = .running ∧ w.cores = new ∧ w.cluster = k ∧ w.stale = false ∧ w.strands = m.wg.strands
              ∧ w.view = (s.worldAt m.wg.world).live))
      ∧ (∀ (wg : Nat) (w : Workgroup), s.seals.find? (fun q => q.isUnseal && q.wg == wg && q.stage == .restore) = some q → s.wgAt wg = some w →
        (∀ ch ∈ w.window, ∀ p, ch.pc = some p → (s.pcAt (pcKey p.1 p.2)).ready ≤ s.tick) →
        exec (.restorePoint wg) s = .next ((((s.sealEnd q 0 q.bytes).strandsOf w).foldl
          (fun (s : State) p => (s.postDebug w p.1 p.2.1).deliverEnded p.1 p.2.1) (s.sealEnd q 0 q.bytes)).completeIf wg))

/-! ### Events: main memory -/

/-- R62, R65, R69, R70, R71, R72, R76 and R78: COMMAND_PLAY first does what the base die must do at this tick (pcDeadlines: the refresh clock, rows open too long, forced actions, any of which may hold the channel), which is nothing where no deadline has come; it then plays the channel's next command at the tick at which it may play, and takes it from the queue; before or after that tick it plays nothing. mact opens its bank's row, mpre closes its bank, mprea closes every bank, mref lowers its bank's debt and mrefa every bank's by one, to -8 at the least, and the refreshed banks are patrolled; mnop does nothing more. From a slice in service a read of a bank that was not closed by force keeps the bytes of its grains as they are then, with the lines that fail: those that were changed, those below a node at which a check has failed before (R96), and of those whose tag or version chain was changed a free choice, the failed check leaving its node, or the line, failed from then on (log 73, DEDUCED); and a write of one joins the writes to be committed and brings to data memory, line by line, every line whose version can advance. That a write's data enters data memory as it plays, and a read's lines are judged on what they are then, is log 67 (DEDUCED). -/
def Obligations.CommandsPlay : Prop :=
  (∀ (s u : State) (stack pc arrive key : Nat) (P : Pc), key = pcKey stack pc → u = s.pcDeadlines key → P = u.pcAt key →
    ((s.pcAt key).closing = [] → (s.pcAt key).refreshing = [] → s.tick < ((s.pcAt key).refreshes + 1) * 6240 →
      (∀ r ∈ (s.pcAt key).played, SMap.find (s.pcAt key).played r.1 = some r.2 ∧ s.tick < r.2.2 + 56160) → u = s)
    ∧ (P.queue = [] → exec (.commandPlay stack pc arrive) s = .next u)
    ∧ ∀ c rest, P.queue = c :: rest →
      (c.issued ≤ arrive → u.tick = max (max (P.lastPlay + c.delta) arrive) P.ready →
        exec (.commandPlay stack pc arrive) s = .next ((u.play key u.tick c).dataFrame key c))
      ∧ (arrive < c.issued ∨ u.tick ≠ max (max (P.lastPlay + c.delta) arrive) P.ready → exec (.commandPlay stack pc arrive) s = .next u))
  ∧ ∀ (s : State) (t key : Nat) (c : Cmd) (rest : List Cmd) (P : Pc), P = s.pcAt key → P.queue = c :: rest →
    (∀ f, c.instr = .mact f → ∃ P', s.play key t c = (s.setPc key P').arriveOp c.info
      ∧ P'.queue = rest ∧ P'.lastPlay = t ∧ SMap.find P'.played c.bankNo = some (c.row, t) ∧ P'.debt = P.debt)
    ∧ (∀ f, c.instr = .mpre f → ∃ P', s.play key t c = (s.setPc key P').arriveOp c.info
      ∧ P'.queue = rest ∧ P'.lastPlay = t ∧ SMap.find P'.played c.bankNo = none ∧ P'.debt = P.debt)
    ∧ (∀ f, c.instr = .mprea f → ∃ P', s.play key t c = (s.setPc key P').arriveOp c.info
      ∧ P'.queue = rest ∧ P'.lastPlay = t ∧ (∀ b, b < 64 → SMap.find P'.played b = none) ∧ P'.debt = P.debt)
    ∧ (∀ f, c.instr = .mnop f → s.play key t c = (s.setPc key { P with queue := rest, lastPlay := t }).arriveOp c.info)
    ∧ (∀ f, c.instr = .mref f → ∃ P', s.play key t c = ((s.setPc key P').arriveOp c.info).patrolBank key c.bankNo
      ∧ P'.queue = rest ∧ P'.lastPlay = t ∧ SMap.get P'.debt 0 c.bankNo = max (SMap.get P.debt 0 c.bankNo - 1) (-8)
      ∧ (∀ b, b ≠ c.bankNo → SMap.get P'.debt 0 b = SMap.get P.debt 0 b) ∧ P'.played = P.played)
    ∧ (∀ f, c.instr = .mrefa f → ∃ P', s.play key t c = ((s.setPc key P').arriveOp c.info).patrolPc key
      ∧ P'.queue = rest ∧ P'.lastPlay = t ∧ (∀ b, b < 64 → SMap.get P'.debt 0 b = max (SMap.get P.debt 0 b - 1) (-8)) ∧ P'.played = P.played)
    ∧ (∀ f, c.instr = .mrd f ∨ c.instr = .mrdt f → s.goneSlices.contains (key / 64, key % 64, c.sid) = false → P.forced.contains c.bankNo = false →
      ∃ n bl ns P' d, s.play key t c = State.setPc { s with freeCount := n, badLines := bl, failedNodes := ns } key P' ∧ P'.queue = rest ∧ P'.lastPlay = t ∧ P'.reads = P.reads ++ [d]
        ∧ d.cmd = c ∧ d.tick = t ∧ d.landed = 0 ∧ d.judged = 0 ∧ d.bad = false ∧ d.data = s.grains key c
        ∧ (∀ x ∈ s.badLines, x ∈ bl) ∧ (∀ x ∈ s.failedNodes, x ∈ ns)
        ∧ ∀ j, j < c.lines → (s.lineChanged (c.pla key j) = true ∨ s.belowFailed (c.pla key j) = true → j ∈ d.fails)
          ∧ (s.lineChanged (c.pla key j) = false → s.belowFailed (c.pla key j) = false → s.lineUntrusted (c.pla key j) = false → j ∉ d.fails)
          ∧ (j ∈ d.fails → c.pla key j ∈ bl ∨ (c.pla key j, true) ∈ s.dramErrs ∨ ns.any (inChain (c.pla key j)) = true)
          ∧ (j ∈ d.pois ↔ c.pla key j ∈ s.poisonLines))
    ∧ (∀ f, c.instr = .mwr f → s.goneSlices.contains (key / 64, key % 64, c.sid) = false → P.forced.contains c.bankNo = false →
      ∃ P' d, s.play key t c = (s.setPc key P').putGrains key c d.fails ∧ P'.queue = rest ∧ P'.lastPlay = t ∧ P'.writes = P.writes ++ [d]
        ∧ d.cmd = c ∧ d.tick = t ∧ d.judged = 0
        ∧ (d.fails = [] → c.data.length = 128 * c.lines → ∀ j, j < 128 * c.lines →
          Memory.read (s.play key t c).dram (c.pla key 0 * 128 + j) = c.data.getD j 0))

/-- R72, R73, R74, R75, R77, R97 and R99: the next grain due of a read that was not closed by force, of a sound line, lands in its target, and a transposed payload whole; the next line in play-out order is judged when its grains have landed, which counts them, and with its last line the read retires; the next line of a write is committed once its data is in, under its line's next version, and counted. Also: R55, R62, R63, R64 and R71: at a refresh clock event every bank's debt rises by one, to nine at the most, and a bank whose debt reaches nine is to be refreshed by force, after a forced close where it is open; the banks of a channel that nobody owns are refreshed, to a debt of no more than 0, and patrolled (logs 36 and 79: DEDUCED, for the most of nine and for the channel that nobody owns, and DESIGN CHOICE for the patrol); a row that has been open for 56,160 ticks, and was not reported for that yet, is to be closed by force, and TIMING 30 is reported to the strand that commands its channel. A forced close or refresh plays as soon as the bank's minima allow it, holds the channel for its own minimum, and the refresh reports REFDEBT. -/
def Obligations.GrainsLandAndRowsAreRefreshed : Prop :=
  (∀ (s : State) (stack pc key i : Nat) (P : Pc) (d : Drain), key = pcKey stack pc → P = s.pcAt key →
      (firstDrain (fun d => d.landTick (s.profileOf d.cmd.info))
          (fun d => d.landed < d.cmd.n && !s.landBlocked d.cmd && d.landTick (s.profileOf d.cmd.info) ≤ s.tick) P.reads = some i →
        P.reads[i]? = some d → d.bad = false →
        (d.cmd.lumped = false → d.grainPoisoned d.landed = false →
          exec (.grainLanding stack pc) s = .next (((s.dataFrame key d.cmd).modCore d.cmd.targetCore fun k =>
            k.landGrain d.cmd d.landed ((d.data.drop (64 * d.landed)).take 64) false).setPc key { P with reads := P.reads.set i { d with landed := d.landed + 1 } }))
        ∧ (d.cmd.lumped = true → d.pois = [] →
          exec (.grainLanding stack pc) s = .next (((s.dataFrame key d.cmd).modCore d.cmd.targetCore fun k =>
            k.landLump d.cmd d.data false).setPc key { P with reads := P.reads.set i { d with landed := d.cmd.n } })))
      ∧ (P.nextLine = some (false, i) → P.reads[i]? = some d → (d.cmd.grainsOf d.judged).1 + (d.cmd.grainsOf d.judged).2 ≤ d.landed → d.bad = false →
        d.fails.contains d.judged = false → d.pois.contains d.judged = false →
        ∀ s3, s3 = (s.countFor d.cmd.info (64 * (d.cmd.grainsOf d.judged).2) false).meterGrains d.cmd (d.cmd.grainsOf d.judged).2 →
        (d.judged + 1 = d.cmd.lines → exec (.lineVerdict stack pc) s = .next ((s3.setPc key { P with reads := P.reads.eraseIdx i }).finishRead d.cmd))
        ∧ (d.judged + 1 ≠ d.cmd.lines → exec (.lineVerdict stack pc) s = .next (s3.setPc key { P with reads := P.reads.set i { d with judged := d.judged + 1 } })))
      ∧ (P.nextLine = some (true, i) → P.writes[i]? = some d →
        d.tick + 4 * (2 * d.judged + 1) + (s.profileOf d.cmd.info).tWL + (s.profileOf d.cmd.info).tBURST ≤ s.tick →
        d.fails.contains d.judged = false → d.cmd.late.find? (fun g => g / 2 == d.judged) = none → ∀ s1, s.advance (d.cmd.pla key d.judged) = some s1 →
        ∀ s2, s2 = s1.countFor d.cmd.info 128 (d.cmd.poisons d.judged) →
        (d.judged + 1 = d.cmd.lines → exec (.lineCommit stack pc) s = .next ((s2.setPc key { P with writes := P.writes.eraseIdx i }).arriveOp d.cmd.info))
        ∧ (d.judged + 1 ≠ d.cmd.lines → exec (.lineCommit stack pc) s = .next (s2.setPc key { P with writes := P.writes.set i { d with judged := d.judged + 1 } }))))
  ∧ ∀ (s : State) (stack pc bank key : Nat) (P : Pc), key = pcKey stack pc → P = s.pcAt key →
      ((P.refreshes + 1) * 6240 ≤ s.tick → SMap.rising P.debt →
        ∃ P', exec (.refreshClock stack pc) s = .next (if P.owner.isNone then (s.setPc key P').patrolPc key else s.setPc key P')
          ∧ P'.refreshes = P.refreshes + 1
          ∧ (P.owner.isSome = true → ∀ b, b < 64 → SMap.get P'.debt 0 b = min (SMap.get P.debt 0 b + 1) 9)
          ∧ (P.owner = none → ∀ b, b < 64 → SMap.get P'.debt 0 b = min (SMap.get P.debt 0 b + 1) 0)
          ∧ (∀ b, b < 64 → (b ∈ P'.refreshing ↔ b ∈ P.refreshing ∨ 9 ≤ SMap.get P'.debt 0 b))
          ∧ (∀ b, b < 64 → (b ∈ P'.closing ↔ b ∈ P.closing ∨ (9 ≤ SMap.get P'.debt 0 b ∧ b ∉ P.refreshing ∧ P.isOpen b = true)))
          ∧ P'.played = P.played ∧ P'.queue = P.queue)
      ∧ (∀ r, SMap.find P.played bank = some r → r.2 + 56160 ≤ s.tick → bank ∉ P.overdue →
        exec (.rowOpenLimit stack pc bank) s = .next ((s.setPc key { P with
          closing := if bank ∈ P.closing then P.closing else P.closing ++ [bank], overdue := bank :: P.overdue }).reportForced key bank cTiming 30))
      ∧ ((SMap.find P.played bank).isSome = true → SMap.get P.closeOk 0 bank ≤ s.tick →
        ∃ P', s.forcedClose key bank = s.setPc key P' ∧ SMap.find P'.played bank = none ∧ bank ∈ P'.forced ∧ bank ∉ P'.closing
          ∧ P'.ready = max P.ready (s.tick + (s.pcProfile key).tRP) ∧ P'.debt = P.debt)
      ∧ (SMap.find P.played bank = none → P.refreshOk ≤ s.tick → (∀ q, SMap.find P.lastP bank = some q → q + (s.pcProfile key).tRP ≤ s.tick) →
        ∃ P', s.forcedRefresh key bank = ((s.setPc key P').reportForced key bank cRefdebt 0).patrolBank key bank
          ∧ SMap.get P'.debt 0 bank = max (SMap.get P.debt 0 bank - 1) (-8) ∧ bank ∉ P'.refreshing ∧ P'.played = P.played
          ∧ P'.ready = max P.ready (s.tick + (s.pcProfile key).tRFCpb))

/-! ### Events: strands and cores -/

/-- R27, R28, R200, R204, R299, R300, R301, R330, R338, R341 and R342: the events of a strand and of a core under their conditions. Context time passes for an ended strand with results to land, and for a strand that owes cycles, in a cycle of its core; so does the next repetition of a repeated bundle, and the switch to a strand that has waited 4,096 cycles; the cycle of a core delivers what is due, finds its ready strands, counts the waits of those that do not run, and runs the selector's strand: it pays one owed cycle or issues its next bundle. Delivery takes the oldest report at a bundle boundary; a strand that has ended, with nothing held and nothing outstanding, finishes; a halted strand of the world runs again; a mismatch of a protected pair stops it and counts in category 4, and when it has resynchronised LOCKSTEP goes to its strands; the scrubber goes on to its next access and leaves lines without an error as they are. Each cycle is one that has come by the core's clock and is taken (R3, takeCycle). That LOCKSTEP goes to the strands at resynchronisation and the mismatch leaves the cores as they are is log 54 (DEDUCED). -/
def Obligations.StrandAndCoreEventsComplete : Prop :=
  ∀ (s : State) (c t : Nat),
    (s.cycles c = true →
      (s.runsOn c t = true ∨ (s.nextRunner c = some t ∧ 0 < (s.strandAt c t).owed) → exec (.resultLanding c t) s = .next (s.takeCycle c))
      ∧ (s.nextRunner c = some t → s.atBoundary c t = true → (s.strandAt c t).repActive = true → (s.strandAt c t).reports = [] →
        exec (.repRepetition c t) s = .next (s.takeCycle c))
      ∧ (s.nextRunner c = some t → 4096 ≤ (s.strandAt c t).wait → (s.coreAt c).runner ≠ some t →
        exec (.waitLimitSwitch c) s = .next (s.takeCycle c))
      ∧ (0 < (s.coreAt c).due → s.takeCycle c = (s.setCore c { s.coreAt c with due := (s.coreAt c).due - 1 }).coreCycle c)
      ∧ ((s.coreAt c).due = 0 → s.takeCycle c = s)
      ∧ (s.nextRunner c = some t → ∀ e u, e = s.beforeRun c → u = e.1.modCore c (fun k => k.countWaits e.2 (some t)) →
        (0 < (u.strandAt c t).owed → s.coreCycle c
          = ((u.spend c t).modCore c fun k => { k with runner := some t, lastRan := t, decision := false }).endCycle c)
        ∧ ((u.strandAt c t).owed = 0 → s.coreCycle c
          = (((u.issueNext c t).state).modCore c fun k =>
              { k with runner := some t, lastRan := t, decision := true, lastW := (u.issueNext c t).yield }).endCycle c)))
    ∧ (s.atBoundary c t = true → ∀ r rest, (s.strandAt c t).reports = r :: rest →
      exec (.faultDelivery c t) s = .next ((s.setStrandAt c t { s.strandAt c t with reports := rest }).deliver c t r (s.strandAt c t).ctime))
    ∧ (∀ w, (s.coreAt c).wg.bind s.wgAt = some w → s.retiredAll c t = true →
      ((s.strandAt c t).status = .ended ∧ (s.strandAt c t).held = [] ∧ (s.strandAt c t).reports = [] ∧ s.draining w.id = false
        ∨ (s.strandAt c t).status = .stopped ∧ (s.strandAt c t).storeIds = []) →
      exec (.strandFinish c t) s = .next ((s.markFinished w c t).completeIf w.id)
        ∧ ((s.markFinished w c t).strandAt c t).status = .finished)
    ∧ (∀ world, (s.strandAt c t).status = .halted → (s.strandAt c t).world = world → (world = 0 ∨ (s.worldAt world).tdisp = .run) →
      exec (.debugResume world c t) s = .next (s.setStrandAt c t { s.strandAt c t with status := .running }))
    ∧ (s.protCore c = true → s.resync.contains c = false →
      ∃ u, exec (.lockstepMismatch c) s = .next u ∧ u.resync = s.resync ++ [c] ∧ u.eseq = s.eseq + 1
        ∧ SMap.get u.ecnt 0 4 = SMap.get s.ecnt 0 4 + 1 ∧ u.cores = s.cores)
    ∧ (s.resync.contains c = true →
      exec (.lockstepResynchronised c) s = .next ((s.coreAt c).strands.foldl (fun (s : State) p => s.report c p.1 (imprecise cLockstep 0 0))
        { s with resync := s.resync.filter (· != c) }))
    ∧ (∀ bank block : Nat, bank < 16 → block = SMap.get (s.coreAt c).scrubAt 0 bank → (s.coreAt c).scrubPosition bank = true →
      (∀ i, i < 4 → ((s.coreAt c).line (bank * 1024 + block * 4 + i)).err = Ecc.sound) →
      exec (.scratchpadScrub c bank block) s = .next (s.setCore c { s.coreAt c with
        scrubAt := SMap.set (s.coreAt c).scrubAt bank ((block + 1) % 256) }))

/-- R328, R331, R332 and R334: a precise fault reaches the innermost region whose mask has its class, which closes with the regions inside it: the pc is the region's handler, FAULT the syndrome, FADDR the address, FCOUNT one more, and nothing of a phase or a repetition is left, of which the withdrawn release is log 42 (DEDUCED); without such a region the workgroup drains to its termination with the fault's code, every strand of it that can stop being stopped. -/
def Obligations.PreciseFaultReachesItsRegion : Prop :=
  ∀ (s : State) (f : FaultRec),
    (∀ r outer, Region.find s.strand.regions f.cls = some (r, outer) → s.strand.reports = [] →
      ∃ x : Strand, (s.takePrecise f).strand = x ∧ x.pc = r.handler ∧ x.regions = outer ∧ x.fault = f.syndrome ∧ x.faddr = f.addr
        ∧ x.fcount = s.strand.fcount + 1 ∧ x.repActive = false ∧ x.arrived = false ∧ x.released = false ∧ x.status = s.strand.status
        ∧ x.belt = s.strand.belt ∧ x.n = s.strand.n ∧ x.v = s.strand.v ∧ s.strand.ctime + 3 ≤ s.strand.ctime + x.owed)
    ∧ (Region.find s.strand.regions f.cls = none → ∀ id w, s.core.wg = some id → s.wgAt id = some w → w.id = id → w.state = .running →
      (s.takePrecise f).wgAt id = some { w with state := .draining f.code false }
      ∧ (s.takePrecise f).strand.fault = f.syndrome ∧ (s.takePrecise f).strand.faddr = f.addr
      ∧ ∀ c t, (s.coreAt c).wg = some id → ((s.takePrecise f).strandAt c t).status ≠ .running ∨ (s.strandAt c t).sent.isSome = true)

/-! ### Events: the matrix unit -/

/-- R39, R140, R237, R243, R245 to R247, R249 to R252 and R255: the operation at the head of the unit that no fence holds, whose operand banks have M positions, whose tile no store is still to write, and whose predecessor's occupancy has ended, starts with the results of its operands as they are then and keeps the VCTL and the wheels that it finds; its occupancy is that of its row. The results are zeros for mzero; for mma, of tiles A and B, at row r and column c the group of the products of row r of A and column c of B on the old element or zero; for mmas the same over the kept elements of each row of A; for macc the old element or zero plus the ring's tile; for mscl the old element times the factor; the checksums of a writer with ck take the sums of the operands, rs and cs from zero with z, and CKV follows (R248); for tcast and tquant the codes of the tile, under the format of the slot's bank, and for tquant the record, with SCALE raised for a τ that is not positive and finite; for mchk the residues of the checksums, the masks of those beyond the threshold, and the mark of checksums that do not hold, with SDC raised where ck asks for it and a mask of valid checksums is not zero. Each row of a writer is written with the watermark behind it, the checksums with the last, in the cycles that the occupancy gives them. That a third half-cycle operation in a row starts with the next cycle is log 6 (DESIGN CHOICE). A writer retires after its 32nd row, and an output when its occupancy is over and its slot, whose banks have M positions, is written, which is then complete. -/
def Obligations.MatrixOperationsStartAndRetire : Prop :=
  (∀ (s : State) (core : Nat) (o : MOp) (rest : List MOp), (s.coreAt core).mq = o :: rest →
    (∀ k0 : Core, k0 = s.coreAt core → o.started = false → s.unfenced o.info = true → (∀ d ∈ o.operands, slotServed k0.bwheel d = true) →
      (∀ t, o.accTile = some t → k0.tileStored t = false) → k0.mFree / 2 ≤ k0.cycle →
      exec (.matrixOperationStart core) s = .next ((s.startM o).2.setCore core { (s.startM o).2.coreAt core with
        mq := { (s.startM o).1 with vctl := k0.vctl, wheels := k0.bwheel, begun := max k0.mFree (2 * k0.cycle), halves := o.occupancy k0 } :: rest
        mFree := freeAfter (max k0.mFree (2 * k0.cycle)) (o.occupancy k0) })
      ∧ (s.startM o).1.started = true)
    ∧ (o.started = true →
      (∀ f, o.instr ∈ [Instr.mma f, .mmas f, .mzero f, .mscl f, .macc f] → o.row = 32 →
        exec (.matrixOperationRetire core) s = .next ((s.setCore core { s.coreAt core with mq := rest }).arriveOp o.info))
      ∧ (∀ f, o.instr ∈ [Instr.tquant f, .tcast f, .mchk f] → slotServed o.wheels o.descA = true → freeAfter o.begun o.halves ≤ 2 * (s.coreAt core).cycle →
        exec (.matrixOperationRetire core) s = .next
          (((s.setCore core { (s.coreAt core).writeOutput o with mq := rest }).completeSlot core f.qa.toNat o.slotA).arriveOp o.info))))
  -- the occupancy of R247, in half core cycles
  ∧ (∀ (k : Core) (o : MOp) (f : MF) (bits wide : Nat), bits = max (k.slotBits o.descA) (k.slotBits o.descB) →
      wide = (if bits ≤ 4 then 2 else if bits ≤ 8 then 4 else 8) →
      (o.instr = .mma f → o.occupancy k = 2 * wide) ∧ (o.instr = .mmas f → o.occupancy k = 2 * wide * mgKept o.mg / 32)
      ∧ (o.instr = .mzero f → o.occupancy k = 2) ∧ (o.instr ∈ [Instr.mscl f, .macc f, .tcast f] → o.occupancy k = 8)
      ∧ (o.instr ∈ [Instr.tquant f, .mchk f] → o.occupancy k = 16))
  -- where it ends: an operation starts in the cycle after it, and after a half cycle in the same one
  ∧ (∀ c n : Nat, freeAfter (2 * c) (2 * n) = 2 * (c + n) ∧ freeAfter (2 * c) 1 = 2 * c + 1 ∧ freeAfter (2 * c + 1) (2 * n) = 2 * (c + n))
  -- the results
  ∧ (∀ (s : State) (o m : MOp) (u : State) (f : MF) (a : Acc) (A B : List FVal × State), s.startM o = (m, u) → a = (s.coreAt o.info.core).acc f.acc.toNat →
      A = s.readTile o.info o.descA o.slotA (tauVal o.x) (mgTA o.mg) → B = A.2.readTile o.info o.descB o.slotB (tauVal o.y) (mgTB o.mg) →
      (o.instr = .mzero f → u = s ∧ m.newCkv = true ∧ ∀ n, SMap.get m.newEl 0 n = 0 ∧ SMap.get m.newRs 0 n = 0 ∧ SMap.get m.newCs 0 n = 0)
      ∧ (A.1.length = 1024 → B.1.length = 1024 →
        (o.instr = .mma f → u = B.2 ∧ ∀ r c, r < 32 → c < 32 → SMap.get m.newEl 0 (32 * r + c)
            = group ((List.range 32).map fun k => FVal.mul (A.1.getD (32 * r + k) .zero) (B.1.getD (32 * k + c) .zero)) f.neg (if f.z then 0 else a.get r c))
        ∧ (o.instr = .mmas f → ∀ M : RunRead, M = B.2.readRun o.info.core o.info.world (B.2.coreAt o.info.core).vctl (runSlot o.descM o.slotM) 0 2 →
          ∀ (bit : Nat → Nat → Bool), (bit = fun r k => (M.bytes.getD (4 * r + k / 8) 0).getLsbD (k % 8)) → M.bytes.length = 128 →
          u = M.state.reportFlags o.info.core o.info.strand M.flags
          ∧ ∀ r c, r < 32 → c < 32 → SMap.get m.newEl 0 (32 * r + c)
            = group (((List.range 32).filter fun k => bit r k && decide ((List.range k).countP (bit r) < mgKept o.mg)).map fun k =>
                FVal.mul (A.1.getD (32 * r + k) .zero) (B.1.getD (32 * k + c) .zero)) f.neg (if f.z then 0 else a.get r c)))
      -- the checksums: those of a writer with ck, of which a sum with sign s is added to what the tile holds, or to zero
      ∧ (∀ (R : FVal → Word) (old : SMap Word → Nat → Word) (plus : Bool → Word → FVal → Word), (R = fun v => word (fmtF64.encode .rne false v)) →
        (old = fun w i => if f.z then 0 else SMap.get w 0 i) →
        (plus = fun neg w v => R (FVal.add .rne (fmtF64.decode w.toNat) (fmtF64.decode (R (if neg && !v.isZero then v.neg else v)).toNat))) →
        (o.instr ∈ [Instr.mma f, .mmas f, .macc f] →
          (f.ck = false → m.newCkv = false) ∧ (f.ck = true → m.newCkv = (f.z || a.ckv))
          ∧ ((f.ck = false ∨ (f.z = false ∧ a.ckv = false)) → ∀ i, i < 32 → SMap.get m.newRs 0 i = SMap.get a.rs 0 i ∧ SMap.get m.newCs 0 i = SMap.get a.cs 0 i))
        ∧ (f.ck = true → f.z = true ∨ a.ckv = true →
          (∀ (keep : Nat → Nat → Bool) (beta alpha : Nat → FVal), A.1.length = 1024 → B.1.length = 1024 →
            ((o.instr = .mma f ∧ keep = fun _ _ => true)
              ∨ (o.instr = .mmas f ∧ ∃ (M : RunRead) (bit : Nat → Nat → Bool),
                M = B.2.readRun o.info.core o.info.world (B.2.coreAt o.info.core).vctl (runSlot o.descM o.slotM) 0 2 ∧ M.bytes.length = 128
                ∧ (bit = fun r k => (M.bytes.getD (4 * r + k / 8) 0).getLsbD (k % 8))
                ∧ keep = fun r k => bit r k && decide ((List.range k).countP (bit r) < mgKept o.mg))) →
            (beta = fun k => exactSum ((List.range 32).map fun j => B.1.getD (32 * k + j) .zero)) →
            (alpha = fun k => exactSum (((List.range 32).filter fun i => keep i k).map fun i => A.1.getD (32 * i + k) .zero)) →
            ∀ i, i < 32 →
              SMap.get m.newRs 0 i = plus f.neg (old a.rs i) (exactSum ((List.range 32).map fun k =>
                if keep i k then FVal.mul (A.1.getD (32 * i + k) .zero) (beta k) else .zero))
              ∧ SMap.get m.newCs 0 i = plus f.neg (old a.cs i) (exactSum ((List.range 32).map fun k =>
                if (List.range 32).any (fun r => keep r k) then FVal.mul (alpha k) (B.1.getD (32 * k + i) .zero) else .zero)))
          ∧ (o.instr = .macc f → A.1.length = 1024 → ∀ v : Nat → Nat → FVal,
            (v = fun r c => if f.neg then (A.1.getD (32 * r + c) .zero).neg else A.1.getD (32 * r + c) .zero) → ∀ i, i < 32 →
              SMap.get m.newRs 0 i = plus false (old a.rs i) (exactSum ((List.range 32).map fun c => v i c))
              ∧ SMap.get m.newCs 0 i = plus false (old a.cs i) (exactSum ((List.range 32).map fun r => v r i))))
        ∧ (o.instr = .mscl f → ∀ by_ : Word → Word,
          (by_ = fun w => R (if f.neg then (FVal.mul (fmtF64.decode o.x.toNat) (fmtF64.decode w.toNat)).neg else FVal.mul (fmtF64.decode o.x.toNat) (fmtF64.decode w.toNat))) →
          ∀ i, i < 32 → SMap.get m.newRs 0 i = (if a.ckv then by_ (SMap.get a.rs 0 i) else SMap.get a.rs 0 i)
            ∧ SMap.get m.newCs 0 i = (if a.ckv then by_ (SMap.get a.cs 0 i) else SMap.get a.cs 0 i)))
      ∧ (o.instr = .macc f → A.1.length = 1024 → u = A.2 ∧ ∀ r c, r < 32 → c < 32 → ∀ v,
          v = (if f.neg then (A.1.getD (32 * r + c) .zero).neg else A.1.getD (32 * r + c) .zero) →
          SMap.get m.newEl 0 (32 * r + c) = word (fmtF64.encode .rne false (if f.z then v else FVal.add .rne (fmtF64.decode (a.get r c).toNat) v)))
      ∧ (o.instr = .mscl f → u = s ∧ m.newCkv = a.ckv ∧ ∀ r c, r < 32 → c < 32 → ∀ p, p = FVal.mul (fmtF64.decode o.x.toNat) (fmtF64.decode (a.get r c).toNat) →
          SMap.get m.newEl 0 (32 * r + c) = word (fmtF64.encode .rne false (if f.neg then p.neg else p)))
      ∧ (∀ fmt : Word, fmt = (s.coreAt o.info.core).fmt (ringBank o.descA) →
        (o.instr = .tcast f → u = (if isPosFin (tauVal o.x) then s else s.report o.info.core o.info.strand (imprecise cScale 0 0))
          ∧ ∃ codes : List Nat, m.newBytes = packElems (bankElem fmt).bits codes ∧ codes.length = 1024
          ∧ ∀ r c, r < 32 → c < 32 → codes.getD (if mgTO o.mg then 32 * c + r else 32 * r + c) 0
            = if isPosFin (tauVal o.x) then (bankElem fmt).encode (bfmtRnd fmt) (bfmtSat fmt) (FVal.div (fmtF64.decode (a.get r c).toNat) (tauVal o.x)) else 0)
        ∧ (o.instr = .tquant f → ∀ t : TileOut, t = tquantTile (bankElem fmt) (bfmtRnd fmt)
              ((List.range 1024).map fun n => fmtF64.decode (SMap.get a.el 0 n).toNat) (tauVal o.x) →
          (mgTO o.mg = false → m.newBytes = packElems (bankElem fmt).bits t.codes ∧ m.newRec = mkRecord t.sigma t.rho t.gamma 0 t.flags)
          ∧ (mgTO o.mg = true → m.newBytes = packElems (bankElem fmt).bits (transpose32 0 t.codes) ∧ m.newRec = mkRecord t.sigma t.gamma t.rho 0 t.flags)
          ∧ u = (if t.scale then s.report o.info.core o.info.strand (imprecise cScale 0 0) else s)))
      ∧ (o.instr = .mchk f → m.newBytes.length = 1024
        ∧ (∀ found : Prop, (found ↔ f.ck = true ∧ a.ckv = true
              ∧ ∃ r, r < 32 ∧ ((m.newBytes.getD (512 + r / 8) 0).getLsbD (r % 8) = true ∨ (m.newBytes.getD (516 + r / 8) 0).getLsbD (r % 8) = true)) →
          (¬ found → u = s)
          ∧ (found → ∃ e : ErrEvent, e.cat = 5 ∧ e.code = cSdc ∧ e.world = o.info.world ∧ e.corrected = false ∧ e.injected = false
            ∧ u = (State.errorEvent { s with freeCount := s.freeCount + 1 } e).report o.info.core o.info.strand (imprecise cSdc 0x100 (word f.acc.toNat))))
        ∧ ∀ r, r < 32 → ∀ dr dc : Word,
          dr = (if a.ckv then word (fmtF64.encode .rne false (exactSum (fmtF64.decode (SMap.get a.rs 0 r).toNat
              :: (List.range 32).map fun c => (fmtF64.decode (a.get r c).toNat).neg))) else word fmtF64.nanCode) →
          dc = (if a.ckv then word (fmtF64.encode .rne false (exactSum (fmtF64.decode (SMap.get a.cs 0 r).toNat
              :: (List.range 32).map fun c => (fmtF64.decode (a.get c r).toNat).neg))) else word fmtF64.nanCode) →
          (m.newBytes.drop (8 * r)).take 8 = leBytes 8 dr.toNat ∧ (m.newBytes.drop (256 + 8 * r)).take 8 = leBytes 8 dc.toNat
          ∧ (m.newBytes.getD (512 + r / 8) 0).getLsbD (r % 8) = !FVal.le (fmtF64.decode dr.toNat).abs (fmtF64.decode o.x.toNat)
          ∧ (m.newBytes.getD (516 + r / 8) 0).getLsbD (r % 8) = !FVal.le (fmtF64.decode dc.toNat).abs (fmtF64.decode o.x.toNat)
          ∧ m.newBytes.getD 520 0 = (if a.ckv then 0 else 1) ∧ ∀ j, 521 ≤ j → m.newBytes.getD j 0 = 0))
  -- the rows
  ∧ (∀ (k : Core) (o : MOp) (t : Nat), o.writesAcc = some t → o.row < 32 → vctlEn o.vctl = false → ∀ k1, k1 = k.matrixRow o t →
      (∀ c, c < 32 → (k1.acc t).get o.row c = SMap.get o.newEl 0 (32 * o.row + c))
      ∧ (∀ r c, r ≠ o.row → c < 32 → (k1.acc t).get r c = (k.acc t).get r c)
      ∧ (k1.acc t).w = (if (k.acc t).writer = o.info.id then o.row + 1 else (k.acc t).w)
      ∧ (o.row = 31 → (k1.acc t).ckv = o.newCkv ∧ (k1.acc t).rs = o.newRs ∧ (k1.acc t).cs = o.newCs)
      ∧ (o.row ≠ 31 → (k1.acc t).ckv = (k.acc t).ckv ∧ (k1.acc t).rs = (k.acc t).rs ∧ (k1.acc t).cs = (k.acc t).cs)
      ∧ (∀ t', t' ≠ t → k1.acc t' = k.acc t') ∧ k1.spad = k.spad ∧ k1.mq = k.mq)
  -- the cycles of the rows: row i in cycle s + ⌈(i + 1) · O / 32⌉ − 1, of an occupancy of O from cycle s on
  ∧ ∀ (k : Core) (o : MOp) (t : Nat) (p : MOp × Core), k.mq = [o] → o.writesAcc = some t → o.started = true → o.row ≤ 32 → vctlEn o.vctl = false → p = k.rowsOf o →
      k.matrixCycle = { p.2 with mq := [p.1] } ∧ p.1 = { o with row := p.1.row } ∧ o.row ≤ p.1.row ∧ p.1.row ≤ 32
      ∧ (∀ i, o.row ≤ i → i < 32 → (i < p.1.row ↔ o.begun / 2 + ((i + 1) * o.halves + 63) / 64 ≤ k.cycle + 1))
      ∧ (∀ i c, c < 32 → (p.2.acc t).get i c = if o.row ≤ i ∧ i < p.1.row then SMap.get o.newEl 0 (32 * i + c) else (k.acc t).get i c)

/-! ### Events: capacity -/

/-- R81, R82, R83, R84, R85 and R101: a repair marks the row and posts an event, contents staying, and with no spare row left its slice is given notice (R346); a notice, a layer map-out and a retirement put their slices under notice and post an event each; at the end of the notice, or where system slices need metadata and it is the highest data slice in service, unmetered slices leave service; a channel that was copied is mapped to its new place, a system slice in use to a free one; a slice in service that was filled is mapped, unless it or its slot is bound to a meter, and reads as zeros. The spare rows of a bank, and what its notice has beyond 100 ms, are free (log 8, DESIGN CHOICE); that a map-out and a retirement post a notice that ends at once is log 55 (DEDUCED); the slice withdrawn by force to free metadata, and the SIDs that a moved channel keeps, are log 56 (DEDUCED). -/
def Obligations.CapacityEventsComplete : Prop :=
  ∀ (s : State) (stack pc : Nat) (sids : BitVec 4),
    (∀ bank row used, (s.pcAt (pcKey stack pc)).owner = none → used = (s.repaired.filter fun r => r.1 = pcKey stack pc * 64 + bank).length →
      (used ≤ Config.spareRows → ∃ t, exec (.rowRepair stack pc bank row) s = .next t ∧ t.repaired = s.repaired ++ [(pcKey stack pc * 64 + bank, row)]
        ∧ t.mcapEvents = s.mcapEvents + 1 ∧ t.dram = s.dram ∧ t.pcs = s.pcs)
      -- with no spare row left, the slice is given notice, of at least 100 ms
      ∧ (Config.spareRows < used → ∃ t, exec (.rowRepair stack pc bank row) s = .next t ∧ t.repaired = s.repaired ∧ t.mcapEvents = s.mcapEvents + 1
        ∧ t.notices = s.notices ++ [{ stack := stack, pc := pc, sids := BitVec.ofNat 4 (2 ^ bankSid bank), endNs := s.ns + (100000 + Config.noticeMore) * 1000 }]
        ∧ t.goneSlices = s.goneSlices ∧ t.dram = s.dram))
    ∧ (∀ us, (100000 ≤ us ∨ us = 0 ∧ 56 ≤ pc) →
      ∃ t, exec (.withdrawalNotice stack pc sids us) s = .next t
        ∧ t.notices = s.notices ++ [{ stack := stack, pc := pc, sids := sids, endNs := s.ns + us * 1000 }]
        ∧ t.mcapEvents = s.mcapEvents + 1 ∧ t.goneSlices = s.goneSlices ∧ t.dram = s.dram)
    ∧ (∀ sid, ∃ t, exec (.layerMapOut stack sid) s = .next t ∧ t.mcapEvents = s.mcapEvents + 1 ∧ t.goneSlices = s.goneSlices
        ∧ t.notices = s.notices ++ (List.range 64).map fun p => { stack := stack, pc := p, sids := BitVec.ofNat 4 (2 ^ (sid % 4)), endNs := s.ns })
    ∧ (∃ t, exec (.channelRetirement stack pc) s = .next t ∧ t.mcapEvents = s.mcapEvents + 1 ∧ t.goneSlices = s.goneSlices
        ∧ t.notices = s.notices ++ [{ stack := stack, pc := pc, sids := 0xF, endNs := s.ns }])
    ∧ ((∀ i ∈ maskSids sids, ∃ n ∈ s.notices, n.stack = stack ∧ n.pc = pc ∧ n.sids.getLsbD i = true ∧ n.endNs ≤ s.ns)
        ∨ (∃ i, maskSids sids = [i] ∧ s.systemShort stack = true ∧ s.forcedSlice stack = some (pc, i)) →
      s.meteredOn stack pc (maskSids sids) = false → (pc < 56 ∨ s.systemOn stack pc (maskSids sids) = false) →
      ∃ t, exec (.withdrawn stack pc sids) s = .next t ∧ t.mcapEvents = s.mcapEvents + 1 ∧ t.dram = s.dram
        ∧ (∀ g, g ∈ t.goneSlices ↔ g ∈ s.goneSlices ∨ ∃ i ∈ maskSids sids, g = (stack, pc, i))
        -- a fill of such a slice ends with it
        ∧ ∀ f ∈ t.filling, f ∈ s.filling ∧ ¬ (f.2.1 = pcKey stack pc ∧ f.2.2 ∈ maskSids sids))
    ∧ (∀ world lchan, pc < 56 → (∃ x ∈ (s.worldAt world).slices, x.1 / 4 = lchan) →
      (∀ x ∈ (s.worldAt world).slices, x.1 / 4 = lchan → (s.pcAt (pcKey x.2.1 x.2.2.1)).owner = none) →
      s.worldsOn stack pc [0, 1, 2, 3] = [] → (s.pcAt (pcKey stack pc)).owner = none →
      (∀ f ∈ s.filling, f.2.1 ≠ pcKey stack pc ∧ ∀ x ∈ (s.worldAt world).slices, x.1 / 4 = lchan → f.2.1 ≠ pcKey x.2.1 x.2.2.1) →
      (∀ g ∈ s.goneSlices, ¬ (g.1 = stack ∧ g.2.1 = pc)) →
      ∃ t, exec (.logicalChannelMove world lchan stack pc) s = .next t
        ∧ (t.worldAt world).slices = (s.worldAt world).slices.map fun x => if x.1 / 4 = lchan then (x.1, (stack, pc, x.2.2.2)) else x)
    ∧ (∀ slice sid, stack < 8 → s.sysOff.contains (stack * 32 + slice % 32) = false → s.systemPlace (stack * 32 + slice % 32) ≠ (pc, sid % 4) →
      s.systemFree stack (pc, sid % 4) = true →
      ∃ t, exec (.systemSliceMove stack slice pc sid) s = .next t ∧ SMap.get t.sysMap (0, 0) (stack * 32 + slice % 32) = (pc, sid % 4) ∧ t.dram = s.dram)
    ∧ ∀ world lchan slot sid, s.filling.contains (world, pcKey stack pc, sid) = true → s.mapOk world lchan slot stack pc sid = true → s.gone stack pc sid = false →
      s.meteredOn stack pc [sid] = false → (s.worldAt world).boundSlot lchan slot = false → lchan < 512 → slot < 4 →
      ∃ t, exec (.sliceFillComplete world lchan slot stack pc sid) s = .next t
        ∧ SMap.find (t.worldAt world).slices (lchan * 4 + slot) = some (stack, pc, sid)
        ∧ ∀ a, plaOf (pcKey stack pc) sid 0 0 0 0 * 128 ≤ a → a < plaOf (pcKey stack pc) sid 0 0 0 0 * 128 + 2 ^ 28 → Memory.read t.dram a = 0

/-! ### Events: the fabric -/

/-- R137, R155, R260, R261, R263, R264, R265, R266, R267 and R268: a peer's request under no key that its world has agreed with the source fails authentication; the checks of a request, in order, are those of its window and range, its permission, its peer set and its page; one that passes them is served: a put writes its bytes, poisoned where they were read so, and, notifying, counts them at the bound word of a running workgroup, with POIS where lines were poisoned, or as missed; a get answers with the window's bytes and the numbers of its lines that cannot be read; an atomic with a new identifier within 256 of the oldest unacknowledged one is performed once, with its operation's effect on the word, and its old value kept, and the same identifier again is answered from what is kept, with nothing done; an identifier outside the 256 takes the port down and performs nothing. A request that fails a check is refused with the code, and changes no byte, and an atomic's refusal is kept like a reply; a put or an atomic to a page that is being moved is answered with RETRY. An acknowledged reply leaves the table. A poisoned line of an atomic that verifies is log 105 (DESIGN CHOICE), the peer set 0xFF log 96 (DESIGN CHOICE), and a range over several pages log 114 (DEDUCED). Poison of system memory in 64-byte units is log 38 (DESIGN CHOICE); the identifiers from the oldest unacknowledged one, and a refusal kept as a reply, are log 71 (DEDUCED). -/
def Obligations.PeerRequestsAreServed : Prop :=
  ∀ (s : State) (r : PeerReq),
    -- a request under no key of its world and source fails authentication
    (s.linkKey r.world r.src = none → ∀ n data lines ident aop wide v c,
      ∀ i ∈ [Instr.putRequest r n data, .getRequest r lines, .pamoRequest r ident aop wide v c],
        (∀ p, SMap.find s.routes r.src = some p → exec i s = exec (.frameAuthFailure p) s) ∧ (SMap.find s.routes r.src = none → exec i s = .next s))
    -- the checks, in order, of a request of so many bytes that needs a permission bit
    ∧ (∀ bytes bit : Nat,
      (SMap.find (s.worldAt r.world).exports r.window = none → s.targetCheck r bytes bit = .error cXlate)
      ∧ ∀ e va, SMap.find (s.worldAt r.world).exports r.window = some e → va = e.base + r.offset →
        e.pages ≠ 0 → e.base % Config.pageBytes = 0 → e.base / 2 ^ 52 = 1 →
        (e.pages * Config.pageBytes < r.offset + bytes → s.targetCheck r bytes bit = .error cXlate)
        ∧ (r.offset + bytes ≤ e.pages * Config.pageBytes →
          (e.perm.getLsbD bit = false → s.targetCheck r bytes bit = .error cPriv)
          ∧ (e.perm.getLsbD bit = true → e.peers ≠ 0xFF → r.src ∉ SMap.get (s.worldAt r.world).peerSets [] e.peers → s.targetCheck r bytes bit = .error cPriv)
          ∧ (e.perm.getLsbD bit = true → (e.peers = 0xFF ∨ r.src ∈ SMap.get (s.worldAt r.world).peerSets [] e.peers) → va % 2 ^ 52 / 2 ^ 39 = 0 →
            1 ≤ bytes → va % Config.pageBytes + bytes ≤ Config.pageBytes →
            (SMap.find (s.fabPages r.world) (pageOf va) = none → s.targetCheck r bytes bit = .error cXlate)
            ∧ ∀ p, SMap.find (s.fabPages r.world) (pageOf va) = some p →
              (p.poisoned = true → s.targetCheck r bytes bit = .error cXpoison)
              ∧ (p.poisoned = false → bit = 0 ∨ s.codeAt r.world (pageOf va) p.frame = false →
                s.targetCheck r bytes bit = .ok [⟨p.frame, p.frame * Config.pageBytes + va % Config.pageBytes, 0, bytes⟩]))))
    ∧ (s.authentic r = true →
    (∀ (data : Payload) ps u, s.targetCheck r data.bytes.length 1 = .ok ps → (∀ p ∈ ps, s.retiring p.frame = false) →
      u = ps.foldl (fun (s : State) p => s.putPart data p) (s.peerCross r ps) →
      exec (.putRequest r false data) s = .next (u.answer r 0 [] [])
      ∧ (∀ p, ps = [p] → p.first = 0 → p.len = data.bytes.length → data.bad = [] → u = (s.peerCross r ps).putSys p.addr data.bytes false)
      ∧ (∀ e c w, SMap.find (u.worldAt r.world).exports r.window = some e → u.boundWord r.world e = some (c, w) →
          exec (.putRequest r true data) s = .next (State.answer (u.setCore c
            ((u.coreAt c).queueCount w data.bytes.length (!data.bad.isEmpty) false)) r 0 [] []))
      ∧ (∀ e, SMap.find (u.worldAt r.world).exports r.window = some e → u.boundWord r.world e = none →
          exec (.putRequest r true data) s = .next (State.answer (u.modWorld r.world fun w =>
            { w with exports := SMap.set w.exports r.window { e with missed := (e.missed + 1) % 2 ^ 64 } }) r 0 [] [])))
    ∧ (∀ lines ps, s.targetCheck r (64 * lines) 0 = .ok ps →
      exec (.getRequest r lines) s = .next ((ps.foldl (fun (s : State) p => s.sysVerify r.world p.addr p.len) (s.peerCross r ps)).answer r 0
        (ps.flatMap fun p => s.readSys p.addr p.len) (ps.flatMap s.badLinesOf))
      ∧ ∀ p : PeerPart, p.first = 0 → p.len = 64 * lines →
        s.badLinesOf p = ((List.range lines).filter fun i => s.unitBad ((p.addr + 64 * i) / 64))
        ∧ ((∀ u, s.unitBad u = false) → s.readSys p.addr p.len = Memory.readN s.sysmem p.addr p.len))
    ∧ (∀ n (data : Payload) ps, s.targetCheck r data.bytes.length 1 = .ok ps → (∃ p ∈ ps, s.retiring p.frame = true) →
      exec (.putRequest r n data) s = .next (s.answer r 1 [] []))
    ∧ (∀ lines e, s.targetCheck r (64 * lines) 0 = .error e → ∃ t, exec (.getRequest r lines) s = .next (t.answer r (2 + e) [] []) ∧ (e ≠ cXpoison → t = s))
    ∧ (∀ n (data : Payload) e, s.targetCheck r data.bytes.length 1 = .error e →
      ∃ t, exec (.putRequest r n data) s = .next (t.answer r (2 + e) [] []) ∧ (e ≠ cXpoison → t = s))
    ∧ (∀ ident aop wide v c p ps, (SMap.get s.dedupe [] r.src).find? (fun d => d.ident == ident) = none →
      identDist (SMap.get s.amoBase 0 r.src) ident < 256 → (SMap.get s.amoAcked [] r.src).contains ident = false → r.offset % (if wide then 8 else 4) = 0 →
      s.targetCheck r (if wide then 8 else 4) 2 = .ok (p :: ps) →
      (s.retiring p.frame = true → exec (.pamoRequest r ident aop wide v c) s = .next (s.answer r 1 [] []))
      ∧ (s.retiring p.frame = false → s.unitBad (p.addr / 64) = true →
        exec (.pamoRequest r ident aop wide v c) s
          = .next (((s.peerCross r (p :: ps)).sysVerify r.world p.addr (if wide then 8 else 4)).recordReply r ⟨ident, 0, 0, true⟩))
      ∧ (s.retiring p.frame = false → s.unitBad (p.addr / 64) = false →
        ∀ n old V C new : Nat, n = (if wide then 64 else 32) → old = leNat (Memory.readN s.sysmem p.addr (n / 8)) → V = v.toNat % 2 ^ n → C = c.toNat % 2 ^ n →
        (aop.toNat, new) ∈ [(0, (old + V) % 2 ^ n), (1, old &&& V), (2, old ||| V), (3, old ^^^ V),
          (4, if (BitVec.ofNat n V).toInt < (BitVec.ofNat n old).toInt then V else old),
          (5, if (BitVec.ofNat n old).toInt < (BitVec.ofNat n V).toInt then V else old),
          (6, min old V), (7, max old V), (8, V), (9, if old = C then V else old),
          (10, (if wide then fmtF64 else fmtF32).encode .rne false
            (FVal.add .rne ((if wide then fmtF64 else fmtF32).decode old) ((if wide then fmtF64 else fmtF32).decode V)))] →
        ∃ t, exec (.pamoRequest r ident aop wide v c) s = .next t
          ∧ SMap.get t.dedupe [] r.src = SMap.get s.dedupe [] r.src ++ [⟨ident, 0, word old, false⟩]
          ∧ t.sentReplies = s.sentReplies ++ [(r.src, 0, leBytes 8 (word old).toNat ++ [0], [])]
          ∧ t.sysmem = Memory.writeN s.sysmem p.addr (leBytes (n / 8) new)))
    ∧ (∀ ident aop wide v c d, (SMap.get s.dedupe [] r.src).find? (fun d => d.ident == ident) = some d →
      exec (.pamoRequest r ident aop wide v c) s
        = .next (if d.code = 0 then s.answer r 0 (leBytes 8 d.old.toNat ++ [if d.poison then 1 else 0]) [] else s.answer r d.code [] []))
    -- outside the 256 identifiers that begin at the oldest unacknowledged one: the port goes down, and nothing is performed
    ∧ (∀ ident aop wide v c, (SMap.get s.dedupe [] r.src).find? (fun d => d.ident == ident) = none →
      256 ≤ identDist (SMap.get s.amoBase 0 r.src) ident → ∀ port, SMap.find s.routes r.src = some port →
      exec (.pamoRequest r ident aop wide v c) s = .next ((s.frameOk r.src).portDown port)
      ∧ (s.onPort port = [] → ∀ t, t = (s.frameOk r.src).portDown port →
        (SMap.get t.ports Port.reset port).up = false ∧ t.eseq = s.eseq + 1 ∧ t.dedupe = s.dedupe ∧ t.sentReplies = s.sentReplies))
    ∧ (∀ ident aop wide v c e, (SMap.get s.dedupe [] r.src).find? (fun d => d.ident == ident) = none →
      identDist (SMap.get s.amoBase 0 r.src) ident < 256 → (SMap.get s.amoAcked [] r.src).contains ident = false → r.offset % (if wide then 8 else 4) = 0 →
      s.targetCheck r (if wide then 8 else 4) 2 = .error e →
      ∃ t, exec (.pamoRequest r ident aop wide v c) s = .next (t.recordReply r ⟨ident, 2 + e, 0, false⟩) ∧ (e ≠ cXpoison → t = s)))
    ∧ (∀ src ident, (SMap.get s.dedupe [] src).any (fun d => d.ident == ident) = true →
      ∃ base acked, exec (.replyAcknowledgement src ident) s = .next { s.frameOk src with
        dedupe := SMap.set s.dedupe src ((SMap.get s.dedupe [] src).filter fun d => d.ident != ident)
        amoBase := SMap.set s.amoBase src base
        amoAcked := SMap.set s.amoAcked src acked })
    ∧ (∀ src ident, (SMap.get s.dedupe [] src).any (fun d => d.ident == ident) = false →
      exec (.replyAcknowledgement src ident) s = .next (s.frameOk src))

/-- R102, R103, R257, R263, R264, R266, R268, R270, R272, R358 and R361: an awaited reply completes its operation, once the matrix unit has read a popped slot that it is to write: a put is counted, a get writes the lines that have come, an atomic its return slot; a refusal ends it with the code as a report, a loss with UE, and RETRY has it sent again 10 µs later; an atomic's reply is acknowledged with a frame; a sum's result is written and counted. Each authentication failure is an error event; the eighth in a row takes a port that is up down, which fails what is outstanding on it with UE, as the loss of a peer does. Re-keying starts the frame counts anew under the next keys, a pair that the world's table names is bound with a signature and a new secret, a repaired lane takes over, and the failure of the die bridge stops the package: its next step faults. Link events logged as not corrected are log 41 (DEDUCED), and the lines of a lost operation that are written poisoned log 70 (DEDUCED); that the UE of a csum has its descriptor's pointer as FADDR is log 102 (DEDUCED), and the frames counted for acknowledgements, requests sent again and crossings of the die bridge are log 86 (DESIGN CHOICE). -/
def Obligations.FabricEventsComplete : Prop :=
  ∀ (s : State) (id : Nat) (o : FabOp),
    (∀ (i : Reply → Instr) (done : State → State) (ack : Bool),
      ((s.awaiting id [.put, .putv] = some o ∧ ack = false ∧ (i = fun r => .putAcknowledgement id r) ∧ (done = fun t => t.finishFab o [] false []))
        ∨ (s.awaiting id [.get] = some o ∧ ack = false ∧ s.sidePending o = false ∧ s.fabServed o = true
          ∧ ∃ data, (i = fun r => .getDataArrival id r data) ∧ (done = fun t => t.getData o data))
        ∨ (s.awaiting id [.amo] = some o ∧ ack = true ∧ s.sidePending o = false ∧ s.fabServed o = true
          ∧ ∃ old p, (i = fun r => .pamoReply id r old p) ∧ (done = fun t => t.finishAmo o (if o.wide then old else word (old.toNat % 2 ^ 32)) p))) →
      exec (i .done) s = .next (if ack then (done (s.portOk o)).countFrame o.info.world o.device else done (s.portOk o))
      ∧ exec (i .retry) s = .next ((s.portOk o).modFab o.info.id fun e => { e with resendAt := some (s.ns + 10000) })
      ∧ exec (i .lost) s = .next ((s.failFab o).reportOp o.info (imprecise cUe 0 o.peer))
      ∧ ∀ code u, u = ((s.portOk o).failFab o).reportOp o.info (imprecise code 0 o.peer) →
        exec (i (.refused code)) s = .next (if ack then u.countFrame o.info.world o.device else u))
    ∧ (∀ (t : State) (data : Payload), o.bytes ≤ o.put + data.bytes.length → t.getData o data = t.finishFab o data.bytes true data.bad)
    ∧ (s.awaiting id [.sum] = some o → s.fabServed o = true → ∀ total d, s.switchOf o = some d →
      exec (.csumResult id total) s = .next (((s.frameOk d).portCross o.info.world d (dieOfCore o.info.core)).finishFab o (sumBytes o.ident total) true []))
    ∧ (s.findFab id = some o → ∀ t, o.resendAt = some t → t ≤ s.ns →
      exec (.retryResend id) s = .next ((s.modFab id fun e => { e with resendAt := none }).sendTo o o.device))
    ∧ (∀ port, ∃ u, exec (.frameAuthFailure port) s = .next u
        ∧ (20 ≤ port → u = s.errorEvent (portEvent port))
        ∧ (port < 20 → (SMap.get s.ports Port.reset port).up = true → 7 ≤ (SMap.get s.ports Port.reset port).fails → s.onPort port = [] →
            (SMap.get u.ports Port.reset port).up = false ∧ u.eseq = s.eseq + 2)
        ∧ (port < 20 → ((SMap.get s.ports Port.reset port).fails < 7 ∨ (SMap.get s.ports Port.reset port).up = false) →
            SMap.get u.ports Port.reset port = { SMap.get s.ports Port.reset port with fails := (SMap.get s.ports Port.reset port).fails + 1 }
            ∧ u.eseq = s.eseq + 1 ∧ u.fab = s.fab))
    ∧ (∀ device, exec (.peerLost device) s = .next ((s.fab.filter fun o => !o.lost && s.uses device o).foldl
        (fun (s : State) o => (s.failFab o).reportOp o.info (imprecise cUe 0 o.peer)) s))
    ∧ (∀ port, exec (.linkRekey port) s = .next { s with
        ports := SMap.set s.ports port { SMap.get s.ports Port.reset port with frames := 0 }
        linkKeys := s.linkKeys.map fun k => if SMap.find s.routes k.device = some port then { k with rekeys := k.rekeys + 1, frames := 0 } else k })
    ∧ (∀ world device remote, (s.peerTable world).contains (device, remote) = true → s.hssLeaves < 2 ^ 30 →
      ∀ u, u = State.countFrame { s.peerChecked world with hssLeaves := s.hssLeaves + 1 } 0 device →
      exec (.peerBinding world device remote true) s = .next { u with
        drbg := s.drbg + 1
        linkKeys := ⟨world, device, remote, s.drbg + 1, 0, 0⟩ :: u.linkKeys.filter fun k => !(k.world == world && k.device == device) }
      ∧ exec (.peerBinding world device remote false) s = .next { u with
        drbg := s.drbg + 1, linkKeys := u.linkKeys.filter fun k => !(k.world == world && k.device == device) })
    ∧ exec .bridgeLaneRepair s = .next { s with lanes := s.lanes + 1 }
    ∧ ∃ u, exec .bridgeFailure s = .next u ∧ u.stopped = true ∧ step u = .fault .packageStopped ∧ u.pfEvents.length = s.pfEvents.length + 1

/-! ### Events: queues and scheduling -/

/-- R282, R283, R285, R286, R293 and R294: QNOTIFY only rises, and has the entries up to it fetched while no retry is due; a submission too far ahead stops the queue with BADNOTIFY; a fetch that did not fit is made again 1 µs later, and the sixteenth retry that fails stops the queue with QORDER; enabling checks the configuration, clears the completion word and starts, or leaves the queue off with BADCFG; disabling keeps the rest; consuming lets held records be written; the timeout of a prompt queue raises its interrupt. -/
def Obligations.QueueEventsComplete : Prop :=
  ∀ (s : State) (world q : Nat) (x : Queue), x = s.queueAt world q → q < 8 →
    (s.barOpen world = true →
      (∀ n, x.en = true → x.faulted = false → s.queueRuns world q = false →
        exec (.qnotifyWrite world q n) s = .next (s.setQueue world q { x with qnotify := max x.qnotify (n % 2 ^ 64) }))
      ∧ (∀ n, x.en = true → x.faulted = false → s.queueRuns world q = true → x.qnext + 2 ^ x.sublog ≤ max x.qnotify (n % 2 ^ 64) →
        exec (.qnotifyWrite world q n) s = .next (s.setQueue world q
          { x with qnotify := max x.qnotify (n % 2 ^ 64), faulted := true, cause := causeBadnotify, tries := 0 }))
      ∧ (∀ n t, x.en = true → x.faulted = false → s.queueRuns world q = true → max x.qnotify (n % 2 ^ 64) < x.qnext + 2 ^ x.sublog →
        t = s.setQueue world q { x with qnotify := max x.qnotify (n % 2 ^ 64) } →
        exec (.qnotifyWrite world q n) s = .next (if x.tries = 0 then t.fetchAll world q else t))
      ∧ (∀ n, x.heldRecords = [] → s.hostOpen world = true →
        ∃ t, exec (.qconsWrite world q n) s = .next t ∧ t.queueAt world q = { x with qcons := n % 2 ^ 64 } ∧ t.host = s.host))
    ∧ (s.cfgOpen world = true →
      (∀ v : Word, x.en = false →
        let y := { x with qcfg := (v &&& qcfgMask) ||| 0x8000000000000000 }
        (y.cfgOk = true → x.heldRecords = [] → s.hostOpen world = true →
          ∃ t, exec (.queueEnable world q v) s = .next t
            ∧ t.queueAt world q = { y with faulted := false, cause := 0, tries := 0, qnotify := 0, word := 0, pending := 0 }
            ∧ (∀ j, j < 8 → Memory.read t.host (x.qcwa.toNat + j) = 0))
        ∧ (y.cfgOk = false → exec (.queueEnable world q v) s = .next (s.setQueue world q
            { x with qcfg := v &&& qcfgMask &&& 0x7FFFFFFFFFFFFFFF, cause := causeBadcfg })))
      ∧ exec (.queueDisable world q) s = .next (s.setQueue world q { x with qcfg := x.qcfg &&& 0x7FFFFFFFFFFFFFFF, tries := 0 }))
    ∧ (x.tries ≠ 0 → x.retryAt ≤ s.ns → x.en = true → x.faulted = false → exec (.submissionFetchRetry world q) s = .next (s.fetchAll world q))
    ∧ (x.tries ≠ 0 → x.retryAt ≤ s.ns → x.en = true → x.faulted = false → s.queueRuns world q = true → x.qnext ≤ x.qnotify → s.entryOf world q = none →
      (x.tries < 16 → exec (.submissionFetchRetry world q) s
        = .next ((s.sysChecked world x.entryAt 16).setQueue world q { x with tries := x.tries + 1, retryAt := s.ns + 1000 }))
      ∧ (x.tries = 16 → exec (.submissionFetchRetry world q) s = .next ((s.sysChecked world x.entryAt 16).stopQueue world q causeQorder)))
    ∧ (x.prompt = true → x.pending ≠ 0 → x.firstPending + x.cwin * 1000 ≤ s.ns → s.hostOpen world = true →
      ∃ t, exec (.coalescingTimeout world q) s = .next t ∧ t.interrupts = s.interrupts ++ [(world, x.vec)] ∧ t.queueAt world q = { x with pending := 0 })

/-- R287, R289, R290, R291, R295, R296, R297, R298 and R318: the next workgroup of the chosen launch starts on the lowest free cores of the chosen cluster, with its view the world's translation, and each strand at the kernel with the arguments, its workgroup's index, its number and the grid in n0 to n3; a launch of which every workgroup started has ended and none will start completes and is gone; one whose core time has reached its allowance starts none, and its workgroups that stay blocked on phase are ended. An event names a launch by world, queue and sequence number; which one it means where two have the same number is log 109 (DESIGN CHOICE). That the lowest free cores are taken is log 48 (DESIGN CHOICE). -/
def Obligations.WorkgroupsStartAndLaunchesComplete : Prop :=
  ∀ (s : State) (world : Nat),
    (∀ l k cores, s.worldRuns world = true → s.nextStart world = some (l, k) → cores = (s.freeRanks (s.worldAt world) k).take l.cores →
      cores.Nodup → l.world = world → (∀ c ∈ cores, s.lastingLines c = []) → (∀ c ∈ cores, s.fenced.contains c = false) →
      ∃ t w, exec (.workgroupStart world) s = .next t ∧ t.wgs = s.wgs ++ [w]
        ∧ w.id = s.nextId ∧ w.world = world ∧ w.index = l.next ∧ w.cluster = k ∧ w.cores = cores ∧ w.state = .running ∧ w.boundary = 0
        ∧ w.view = (s.worldAt world).live
        ∧ ∀ rank c, cores[rank]? = some c → ∀ i, i < l.strands →
            (t.coreAt c).wg = some s.nextId ∧ (t.coreAt c).rank = rank
            ∧ ∃ x : Strand, t.strandAt c i = x ∧ x.status = .running ∧ x.pc = l.kernel ∧ x.world = world ∧ x.ctime = 0 ∧ x.held = []
              ∧ x.n.take 4 = [l.args, word l.next, word (rank * 4 + i), word l.grid] ∧ x.strandId = rank * 4 + i)
    ∧ (∀ q seq l, s.launchWith world q seq s.launchOver = some l →
      l.ended = l.next ∧ (l.next = l.grid ∨ (s.domainStopped l).isSome = true ∨ l.spent = true) ∧ l.world = world ∧ l.queue = q ∧ l.seq = seq
      ∧ exec (.launchComplete world q seq) s = .next (s.completeLaunch l (hashBytes l.measure))
      ∧ (s.completeLaunch l (hashBytes l.measure)).launches = s.launches.filter fun x => x.id != l.id)
    ∧ (∀ q seq, ∀ l ∈ s.launches, l.world = world → l.queue = q → l.seq = seq → l.ended = l.next →
      (l.next = l.grid ∨ (s.domainStopped l).isSome = true ∨ l.spent = true) →
      ∃ first ∈ s.launches, s.launchWith world q seq s.launchOver = some first
        ∧ ((∀ m ∈ s.launches, m.world = world → m.queue = q → m.seq = seq → m = l) → first = l))
    ∧ (∀ q seq l, s.launchWith world q seq (fun l => l.spent && (!l.budget || s.wgs.any (s.stuck l))) = some l →
      (l.budget = true ∨ (l.allowance ≠ 0 ∧ l.allowance * 1000 ≤ l.charge))
      ∧ exec (.allowanceExhausted world q seq) s = .next (((s.wgs.filter (s.stuck l)).foldl (fun (s : State) w => s.cutWg l w) s).modLaunch l.id
        fun l => { l with budget := true }))
    ∧ (∀ q seq, ∀ l ∈ s.launches, l.world = world → l.queue = q → l.seq = seq → l.allowance ≠ 0 → l.allowance * 1000 ≤ l.charge → l.budget = false →
      (s.launchWith world q seq fun l => l.spent && (!l.budget || s.wgs.any (s.stuck l))).isSome = true)

/-- R88, R303, R304 and R305: in an evaluation, which is due every 100 µs of package time, the worlds with a partition and no marked cluster take part. The receivers are those below cmin, by number, then those of a ratio below 0.95 and below cmax, by ratio, then number; one after another they get the free clusters, lowest first, each scrubbed for its new world. The receivers that are left are paired with the donors, worlds of a ratio above 1.10 and above cmin, by descending ratio, then number; of each donor paired the cluster with the fewest running workgroups, the lowest on a tie, is marked for its receiver. No other core, cluster, mark or state changes. That a mark whose receiver is no longer slow, or whose donor is no longer fast, is cancelled before, and that its donor then takes part, is log 51 (DEDUCED). A marked cluster that no workgroup holds is scrubbed and moves from its donor's partition to the receiver's, where it lies in no other partition. The scrub zeroes every line, scale record, accumulator and ring and loads the cluster's KS slot with the receiver's key. -/
def Obligations.GovernorMovesClusters : Prop :=
  ∀ (s : State),
    (s.dstat = 5 → s.governedAt + 100000 ≤ s.ns →
      ∀ (takes : Nat → Prop) (own : Nat → List Nat) (ratio : Nat → Nat × Nat) (mark : Nat → Option (Nat × Nat)) (free : List Nat),
      (∀ w, ratio w = s.progress w) → (∀ w, own w = (s.worldAt w).clusters) →
      (∀ w, mark w = if w ∈ s.governed then (s.worldAt w).marked.filter (fun m => slow (ratio m.2) && fast (ratio w)) else (s.worldAt w).marked) →
      (∀ w, takes w ↔ w ∈ s.governed ∧ mark w = none) →
      free = (List.range 64).filter (fun k => (List.range 16).all fun w => !(s.worldAt w).hasCluster k) →
      ∃ (t : State) (rs ds : List Nat), exec .governorEvaluation s = .next t
        -- the receivers and the donors, in their order
        ∧ (∀ w, w ∈ rs ↔ takes w ∧ ((own w).length < (s.worldAt w).cminRoot ∨ (slow (ratio w) = true ∧ (own w).length < (s.worldAt w).cmaxRoot)))
        ∧ (∀ w, w ∈ ds ↔ takes w ∧ fast (ratio w) = true ∧ (s.worldAt w).cminRoot < (own w).length)
        ∧ rs.Pairwise (fun a b =>
            if (own a).length < (s.worldAt a).cminRoot then (s.worldAt b).cminRoot ≤ (own b).length ∨ a < b
            else (s.worldAt b).cminRoot ≤ (own b).length ∧ (lower (ratio a) (ratio b) = true ∨ (lower (ratio b) (ratio a) = false ∧ a < b)))
        ∧ ds.Pairwise (fun a b => lower (ratio b) (ratio a) = true ∨ (lower (ratio a) (ratio b) = false ∧ a < b))
        -- what they get and give
        ∧ (∀ w k, (t.worldAt w).hasCluster k = true ↔ (s.worldAt w).hasCluster k = true ∨ (w, k) ∈ rs.zip free)
        ∧ (∀ w k, (w, k) ∈ rs.zip free → SMap.find t.ksSlot k = some (w, (s.worldAt w).born)
          ∧ ∀ i, i < 12 → t.coreAt (k * 12 + i) = { Core.reset with
              cycle := (s.coreAt (k * 12 + i)).cycle, lineTag := w, scrubAt := (s.coreAt (k * 12 + i)).scrubAt })
        ∧ (∀ d r, (d, r) ∈ ds.zip (rs.drop free.length) → ∃ k, (t.worldAt d).marked = some (k, r) ∧ k ∈ own d
          ∧ ∀ j ∈ own d, s.load k < s.load j ∨ (s.load k = s.load j ∧ k ≤ j))
        ∧ (∀ w, w ∉ (ds.take (rs.length - free.length)) → (t.worldAt w).marked = mark w)
        ∧ (∀ c, (∀ w, (w, c / 12) ∉ rs.zip free) → t.coreAt c = s.coreAt c)
        ∧ (∀ w, t.worldAt w = { s.worldAt w with pwpart := (t.worldAt w).pwpart, marked := (t.worldAt w).marked })
        ∧ t = { s with worlds := t.worlds, cores := t.cores, ksSlot := t.ksSlot, governedAt := s.governedAt + 100000 })
    ∧ (∀ d k r, s.governed.find? (fun w => ((s.worldAt w).marked.map (·.1)) == some k) = some d → (s.worldAt d).marked = some (k, r) → d ≠ r → k < 64 →
      (∀ w, w < 16 → w ≠ d → (s.worldAt w).hasCluster k = false) →
      (∀ i, i < 12 → (s.coreAt (k * 12 + i)).wg = none) →
      ∃ t, exec (.clusterMove k) s = .next t ∧ (t.worldAt d).marked = none
        ∧ (∀ w j, (t.worldAt w).hasCluster j = if j = k ∧ (w = d ∨ w = r) then decide (w = r) else (s.worldAt w).hasCluster j)
        ∧ SMap.find t.ksSlot k = some (r, (s.worldAt r).born)
        ∧ (∀ i, i < 12 → t.coreAt (k * 12 + i) = { Core.reset with
              cycle := (s.coreAt (k * 12 + i)).cycle, lineTag := r, scrubAt := (s.coreAt (k * 12 + i)).scrubAt })
        ∧ (∀ c, c / 12 ≠ k → t.coreAt c = s.coreAt c)
        ∧ t = { s with worlds := t.worlds, cores := t.cores, ksSlot := t.ksSlot })
    -- a core as the scrub leaves it holds nothing, and every line stands under the world's key
    ∧ ∀ (c w at_ : Nat) (sc : SMap Nat) (k : Core), k = { Core.reset with cycle := c, lineTag := w, scrubAt := sc } →
      k.byteAt at_ = 0 ∧ Memory.read k.scale at_ = 0 ∧ k.acc at_ = Acc.reset ∧ (k.ring at_).configured = false

/-! ### Events: trust -/

/-- R358, R364, R369, R370, R372, R373, R374 and R375: a rotation with no slice left that is granted and not rotated puts its key set in force, counts 64 bytes and retires; a statement is signed no sooner than 1 s after the last, raising the statement's number, and counts 4,096 bytes. A cksave ends with status 8 while the meters are frozen; that of a manifest whose shards are recorded takes a signature and sends its puts; with every put acknowledged the shard is recorded, or the manifest committed with its epoch, and it ends with status 0, or with 3 where one failed. A ckload ends with 8 while the meters are frozen, and with 3 where its fetch failed; a manifest of the right form whose signature verifies is adopted with its shards, its key and status 0, one of another form or whose signature does not verify ends with 6, and one whose key is neither in the world's record nor given by the owner's release service as the one that it holds wrapped with 7; a shard that the adopted manifest does not know ends with 6, as does one that does not open; a shard that holds the plaintext is written to the items of its source list, each from its part, and ends with 0. The order of the statuses, those of a manifest of another form and of an unknown shard, and the puts of a manifest, are log 46 (DEDUCED). -/
def Obligations.TrustEventsComplete : Prop :=
  ∀ (s : State) (world id : Nat),
    (∀ gen y i, (s.worldAt world).rotating = some (gen, y, i) →
      (∀ k ∈ (s.worldAt world).sliceKeys, (s.worldAt world).unrotated k = true → s.sliceGranted k = false) →
      (∀ w, s.wgAt i.wg = some w → w.state ≠ .sealed) →
      ∃ s1 : State, exec (.krotComplete world) s = .next ((s1.countFor i 64 false).arriveOp i)
        ∧ (s1.worldAt world).keyGen = gen ∧ (s1.worldAt world).rotating = none ∧ s1.dram = s.dram)
    ∧ (∀ i addr nonce rest, (s.worldAt world).mets = (i, addr, nonce) :: rest → (∀ t, (s.worldAt world).lastSigned = some t → t + 1000000000 ≤ s.ns) →
      ∃ s1 : State, exec (.meterStatementSigned world) s = .next ((s1.countFor i 4096 false).arriveOp i)
        ∧ (s1.worldAt world).mets = rest ∧ (s1.worldAt world).chainSerial = (s.worldAt world).chainSerial + 1
        ∧ (s1.worldAt world).lastSigned = some s.ns ∧ s1.hssLeaves = (if s.hssLeaves < 2 ^ 30 then s.hssLeaves + 1 else s.hssLeaves))
    ∧ (∀ o core, s.cks.find? (fun o => o.info.id == id && o.info.core == core && !o.load) = some o → s.unfenced o.info = true →
      (o.pending = none → ∀ b : SpadRead, b = s.readSpad o.info.core o.info.world o.block 128 o.info.vctl →
        ((s.worldAt o.info.world).metersFrozen = true → exec (.cksaveComplete id core) s = .next (b.state.ckEnd o 8 none))
        ∧ ((s.worldAt o.info.world).metersFrozen = false → ∀ r shards, r = CkReq.ofBytes b.bytes → b.state = s → (s.worldAt o.info.world).epoch < r.epoch →
          r.bad false = false → r.kind = 1 → (s.worldAt o.info.world).shardsOf r.epoch r.count = some shards →
          (∀ m, (s.worldAt o.info.world).manifest = some m → m.1 ≠ r.place) → s.hssLeaves < 2 ^ 30 → manifestSize r.count ≤ r.capacity →
          Word.field r.place 43 13 ≠ s.device → s.carries o.info.world (Word.field r.place 43 13) .put = true →
          ∃ (t : State) (c : CkOp) (h : Shard), exec (.cksaveComplete id core) s = .next t ∧ t.hssLeaves = s.hssLeaves + 1
            ∧ c ∈ t.cks ∧ c.info = o.info ∧ c.pending = some (true, h) ∧ h.epoch = r.epoch ∧ h.place = r.place ∧ h.bytes = manifestSize r.count))
      ∧ (∀ m h, o.pending = some (m, h) → s.ckPutting o = false →
        (o.failed = true → exec (.cksaveComplete id core) s = .next (s.ckEnd o 3 none))
        ∧ (o.failed = false → m = true → exec (.cksaveComplete id core) s = .next (State.ckEnd (s.setWorld o.info.world
            { s.worldAt o.info.world with epoch := h.epoch, manifest := some (h.place, h.hash) }) o 0 (some (h.bytes, h.hash))))
        ∧ (o.failed = false → m = false → exec (.cksaveComplete id core) s = .next (State.ckEnd (s.setWorld o.info.world
            { s.worldAt o.info.world with shards := (s.worldAt o.info.world).shards ++ [h] }) o 0 (some (h.bytes, h.hash))))))
    ∧ (∀ o (result : CkFetch) sources plain r b w, s.cks.find? (fun o => o.info.id == id && o.load) = some o → s.unfenced o.info = true →
      b = s.readSpad o.info.core o.info.world o.block 128 o.info.vctl → r = CkReq.ofBytes b.bytes → w = s.worldAt o.info.world →
      ∀ i, i = Instr.ckloadComplete id result sources plain →
      (w.metersFrozen = true → exec i s = .next (b.state.ckEnd o 8 none))
      ∧ (w.metersFrozen = false → r.bad true = false → (Word.field r.place 43 13 = s.device ∨ s.carries o.info.world (Word.field r.place 43 13) .get = false) →
        exec i s = .next (b.state.ckEnd o 3 none))
      ∧ (w.metersFrozen = false → r.bad true = false → Word.field r.place 43 13 ≠ s.device → s.carries o.info.world (Word.field r.place 43 13) .get = true →
        (result.status = 3 → exec i s = .next (b.state.ckEnd o 3 none))
        ∧ (result.status ≠ 3 → result.bytes.length = r.capacity →
          (r.kind = 1 → (manifestOk result.bytes r.epoch = false ∨ s.manifestSigned o.info.world result.bytes = false) → exec i s = .next (b.state.ckEnd o 6 none))
          ∧ (r.kind = 1 → manifestOk result.bytes r.epoch = true → s.manifestSigned o.info.world result.bytes = true →
            (w.manifestKC o.info.world r.epoch result.bytes result.key = none → exec i s = .next (b.state.ckEnd o 7 none))
            ∧ ∀ kc, w.manifestKC o.info.world r.epoch result.bytes result.key = some kc →
              exec i s = .next (State.ckEnd (b.state.modWorld o.info.world fun x =>
                { x with adopted := some r.epoch, adoptedKC := kc, adoptedShards := manifestShards result.bytes }) o 0 none)
              ∧ (w.ownKC o.info.world r.epoch = some kc ∨ (result.key = some kc ∧ w.releaseKey.isSome = true
                ∧ (result.bytes.drop 1816).take 40 = w.wrapped ((result.bytes.drop 248).take 1568) kc)))
          ∧ (r.kind ≠ 1 → w.shardKnown r.shard result.bytes = false → exec i s = .next (b.state.ckEnd o 6 none))
          ∧ (r.kind ≠ 1 → w.shardKnown r.shard result.bytes = true →
            (shardHolds w.adoptedKC (w.adopted.getD 0) r.shard result.bytes sources plain = false →
              exec i s = .next (if result.status = 6 ∧ shardOpened w.adoptedKC r.shard result.bytes = none then b.state.ckEnd o 6 none else s))
            ∧ (shardHolds w.adoptedKC (w.adopted.getD 0) r.shard result.bytes sources plain = true →
              ((ckSources sources).bad = true → exec i s = .next (b.state.ckEnd o 6 none))
              ∧ ((ckSources sources).bad = false →
                (s.ckStatus o (ckSources sources) ≠ 0 → exec i s = .next (b.state.ckEnd o (s.ckStatus o (ckSources sources)) none))
                ∧ (s.ckStatus o (ckSources sources) = 0 → s.ckWaits o (ckSources sources) = false →
                  exec i s = .next ((b.state.loadItems o.info.world (ckSources sources).items plain).ckEnd o 0 none))))))))
    ∧ ∀ lchan slot key sid (plain rest : List Byte), (s.worldAt world).sliceAt lchan slot = some (key, sid) → plain.length = 2 ^ 28 → Memory.wf s.dram →
      ∀ j, j < 2 ^ 28 → Memory.read (s.loadItems world [.slice lchan slot] (plain ++ rest)).dram (plaOf key sid 0 0 0 0 * 128 + j) = plain.getD j 0

/-! ### Events: functions, worlds and migration -/

/-- R355, R356, R357, R358, R359 and R360: in READY a virtual function is locked, started and stopped as TDISP says: locking fixes its report; stopping, which waits while a final statement would come too early, terminates the world's work, scrubs its slices and pages and erases its keys; an integrity failure, a reset of the function and the loss of its session put it into ERROR. A measurement is answered, signed where that is asked for, and a block that a function has not with an error; a challenge is answered with a signature while the tree has one, and a key exchange opens the session. Frozen registers ignore writes, which post an event; otherwise PWCTL creates a world without slices and meters, under keys that are drawn for it, PWPART moves clusters, the other registers are written, and configuration is taken in CONFIG_UNLOCKED. That a world is created without slices and meters, and anew where its keys have been erased, is log 88 (DEDUCED); that the statement is waited for and everything of the world goes at a stop is log 49 (DESIGN CHOICE); the one sequence of events is log 62 (DESIGN CHOICE). -/
def Obligations.FunctionEventsComplete : Prop :=
  ∀ (s : State) (w : Nat), 1 ≤ w → w ≤ 15 → s.dstat = 5 →
    ((s.worldAt w).tdisp = .unlocked → ∃ t x, exec (.lockInterfaceRequest w) s = .next t
        -- lines of the peer table that fail as the report reads it are logged (R104)
        ∧ t = { (if (s.worldAt w).report.isSome then s else s.sysChecked w (s.worldAt w).pwpeer.toNat 2048) with worlds := t.worlds } ∧ x = t.worldAt w
        ∧ x = { s.worldAt w with tdisp := .locked, report := x.report } ∧ (∀ r, (s.worldAt w).report = some r → x.report = some r)
        ∧ ((s.worldAt w).report = none → x.report = some (s.blocksNow w)) ∧ ∀ v, v ≠ w → t.worldAt v = s.worldAt v)
    ∧ ((s.worldAt w).tdisp = .locked → exec (.startInterfaceRequest w) s = .next (s.setWorld w { s.worldAt w with tdisp := .run }))
    ∧ ((s.worldAt w).tdisp ≠ .unlocked → ((s.worldAt w).finalDue = true → s.statementEarly w = false) →
      ∃ t, exec (.stopInterfaceRequest w) s = .next t ∧ (t.worldAt w).tdisp = .unlocked ∧ (t.worldAt w).slices = [] ∧ (t.worldAt w).pages = []
        ∧ (t.worldAt w).kcEpochs = [] ∧ (t.worldAt w).keyGen = 0 ∧ (t.worldAt w).report = none ∧ (∀ l ∈ t.launches, l.world ≠ w) ∧ (∀ g ∈ t.wgs, g.world ≠ w))
    ∧ ((s.wgs.map (·.id)).Nodup → ∀ i ∈ [Instr.ideIntegrityFailure w, .functionLevelReset w], ∃ t, exec i s = .next t ∧ (t.worldAt w).tdisp = .error
        ∧ ∀ g ∈ t.wgs, g.world = w → g.state ≠ .running ∧ g.state ≠ .sealing)
    ∧ ((s.worldAt w).session = true → ∃ t, exec (.spdmSessionLoss w) s = .next t ∧ (t.worldAt w).tdisp = .error ∧ (t.worldAt w).session = false)
    ∧ (∀ (index : MeasureReq), (∀ h, s.measurement w index.index = some h →
          exec (.getMeasurements w index) s = .next (if index.signed then s.signedAnswer w (hashBytes h) else s.reply w (0 :: hashBytes h)))
        ∧ (s.measurement w index.index = none → exec (.getMeasurements w index) s = .next (s.reply w [1])))
    ∧ (∃ t, exec (.challenge w) s = .next t ∧ t.hssLeaves = (if s.hssLeaves < 2 ^ 30 then s.hssLeaves + 1 else s.hssLeaves)
        ∧ t.answers.length = s.answers.length + 1)
    ∧ (s.hssLeaves < 2 ^ 30 → ∃ t, exec (.keyExchange w) s = .next t ∧ (t.worldAt w).session = true ∧ t.hssLeaves = s.hssLeaves + 1)
    ∧ (∀ v, (s.worldAt w).tdisp = .locked ∨ (s.worldAt w).tdisp = .run → ∀ off, off % 8 = 0 → off ≤ 0x30 → ∀ i,
      i = Instr.frozenRegisterWrite w off v ∨ (off = 0 ∧ i = Instr.pwctlWrite w v) →
      ∃ (t : State) (b : List Byte), exec i s = .next t ∧ t.worlds = s.worlds ∧ t.eventSeq = s.eventSeq + 1
        ∧ t.pfEvents = s.pfEvents ++ [leBytes 8 (s.eventSeq + 1) ++ leBytes 1 0x10 ++ leBytes 1 w ++ b ++ leBytes 4 off ++ leBytes 8 s.ns ++ leBytes 8 v.toNat])
    ∧ (∀ v : Word, (s.worldAt w).tdisp = .unlocked → v.getLsbD 63 = true → ((s.worldAt w).pwctl.getLsbD 63 = false ∨ (s.worldAt w).keyGen = 0) →
      ∃ t, exec (.pwctlWrite w v) s = .next t ∧ (t.worldAt w).pwctl = v &&& 0xE000000000000000 ∧ (t.worldAt w).meters = []
        ∧ (t.worldAt w).slices = [] ∧ (t.worldAt w).keyGen = s.drbg + 1 ∧ (t.worldAt w).born = s.drbg + 1 ∧ t.drbg = s.drbg + 1)
    ∧ (∀ off (v : Word), (s.worldAt w).tdisp = .unlocked → off % 8 = 0 → off ≠ 0 → off ≤ 0x30 →
      exec (.frozenRegisterWrite w off v) s = .next (if off = 8 then s.writePart w v else s.setWorld w ((s.worldAt w).writeReg off v)))
    ∧ (∀ item, (s.worldAt w).tdisp = .unlocked → exec (.vfConfigWrite w item) s = .next (s.setWorld w ((s.worldAt w).configure item)))

/-- R358, R365, R366, R370, R371 and R376: a policy that passes the checks of R366, the hash of its region's plaintext the last, binds its slices to its meter, and the first failing check is the answer; unbinding, once no slice of the binding is granted, removes the binding, not the meter's value, and refills the slices; a predecessor record sets the meters unless it lowers one. A quiesce seals the world's workgroups and, with all sealed and its statement due, freezes the meters and sends a copy of the state; without permission or a signature it is refused. A destination with room and a release key arms it, once for what was sent, with its new key set in escrow; erasing, after which it may be confirmed there and nowhere else, confirming, aborting, the timeout and the release from escrow, over the function's session, end its migration on one side or the other; a destination whose source has erased its keys does not discard the world; a source outside RUN does not erase or abort; the generator is reseeded after 2^20 requests. That METER_PRED is refused with status 1, a policy of another form has status 1, and an unbinding waits is log 57 (DEDUCED); the stages of a migration are log 58 (DEDUCED). -/
def Obligations.MetersAndMigration : Prop :=
  ∀ (s : State) (w : Nat), 1 ≤ w → w ≤ 15 → s.dstat = 5 →
    (∀ p (u : State), (s.worldAt w).tdisp = .run → u = (s.regionPlain w p).2 →
      ∀ (form owned granted bound hash : Prop), (form ↔ p.sigOk = true ∧ policyFormed p = true) →
      (owned ↔ ∀ x ∈ policySlices p, (SMap.find (s.worldAt w).slices (x.1 * 4 + x.2)).isSome = true) →
      (granted ↔ ∃ x ∈ policySlices p, ∃ y, SMap.find (s.worldAt w).slices (x.1 * 4 + x.2) = some y ∧ (s.pcAt (pcKey y.1 y.2.1)).owner ≠ none) →
      (bound ↔ ∃ b ∈ (s.worldAt w).bindings, b.meter = policyMeter p) → (hash ↔ sha256 (s.regionPlain w p).1 = policyContent p) →
      (¬form → exec (.meterBind w p) s = .next (s.status w 1))
      ∧ (form → ¬owned → exec (.meterBind w p) s = .next (s.status w 2))
      ∧ (form → owned → granted → exec (.meterBind w p) s = .next (s.status w 3))
      ∧ (form → owned → ¬granted → bound → exec (.meterBind w p) s = .next (s.status w 4))
      ∧ (form → owned → ¬granted → ¬bound → ¬hash → exec (.meterBind w p) s = .next (u.status w 5))
      ∧ (form → owned → ¬granted → ¬bound → hash → exec (.meterBind w p) s = .next (State.status (u.setWorld w { u.worldAt w with
          bindings := (u.worldAt w).bindings ++ [{ meter := policyMeter p, digest := policyHash p, slices := policySlices p }] }) w 0)))
    ∧ (∀ meter b places, (s.worldAt w).tdisp = .run → (s.worldAt w).bindings.find? (fun b => b.meter == meter) = some b →
      places = b.slices.filterMap (fun x => SMap.find (s.worldAt w).slices (x.1 * 4 + x.2)) →
      (∀ y ∈ places, (s.pcAt (pcKey y.1 y.2.1)).owner = none) →
      exec (.meterUnbind w meter) s = .next (State.status (places.foldl (fun (s : State) y => s.startFill w y.1 y.2.1 y.2.2)
        (s.setWorld w { s.worldAt w with bindings := (s.worldAt w).bindings.filter fun c => c.meter != meter })) w 0))
    ∧ (∀ values last sigOk, (s.worldAt w).tdisp = .unlocked →
      (sigOk = true → (s.worldAt w).chainSerial = 0 → (∀ m ∈ (s.worldAt w).meters, m.2.toNat ≤ (values.getD m.1 0).toNat) →
        ∃ x, exec (.meterPred w values last true) s = .next ((s.setWorld w x).status w 0) ∧ x.lastStatement = last ∧ x.chainIndex = 0
          ∧ ∀ m, m < 16 → SMap.get x.meters 0 m = values.getD m 0)
      ∧ (sigOk = false ∨ (s.worldAt w).chainSerial ≠ 0 ∨ (∃ m ∈ (s.worldAt w).meters, (values.getD m.1 0).toNat < m.2.toNat) →
        exec (.meterPred w values last sigOk) s = .next (s.status w 1)))
    ∧ (∀ ok, (s.worldAt w).tdisp = .run →
      ((s.worldAt w).migration = .none → (ok = false ∨ 2 ^ 30 ≤ s.hssLeaves) → exec (.migrationQuiesce w ok) s = .next (s.status w 1))
      ∧ ((s.worldAt w).migration = .none → ok = true → s.hssLeaves < 2 ^ 30 →
        exec (.migrationQuiesce w ok) s = .next (((s.setWorld w { s.worldAt w with migration := .quiescing }).sealWorld w).finishQuiesce w))
      ∧ ((s.worldAt w).migration = .quiescing → exec (.migrationQuiesce w ok) s = .next (s.finishQuiesce w))
      ∧ ((s.worldAt w).migration = .quiescing ∨ ((s.worldAt w).migration = .none ∧ ok = true) → s.hssLeaves < 2 ^ 30 →
        (∀ g ∈ s.wgs, g.world = w → g.state = .sealed) → s.statementEarly w = false → (∀ x ∈ s.filling, x.1 ≠ w) →
        ∃ t, exec (.migrationQuiesce w ok) s = .next t ∧ (t.worldAt w).metersFrozen = true ∧ (t.worldAt w).migration = .quiesced
          ∧ t.transfers.length = s.transfers.length + 1 ∧ t.hssLeaves = s.hssLeaves + 1))
    ∧ (∀ image tr, s.transfers[image]? = some tr → tr.stage = .sent → (tr.foreign = true ∨ tr.source ≠ w) → (s.worldAt w).migration = .none →
      (s.worldAt w).tdisp = .locked ∨ ((s.worldAt w).tdisp = .run ∧ ∀ g ∈ s.wgs, g.world ≠ w) →
      (∀ key, s.hssLeaves < 2 ^ 30 → (s.worldAt w).releaseKey = some key → (s.worldAt w).roomFor tr = true → (s.worldAt w).lowered tr = false →
        ∃ t, exec (.migrationArm w image) s = .next t ∧ (t.worldAt w).migration = .armed s.ns ∧ (t.worldAt w).meters = tr.world.meters
          ∧ (t.worldAt w).metersFrozen = true ∧ t.answers.length = s.answers.length + 1
          ∧ t.transfers = s.transfers.set image { tr with stage := .taken w } ∧ (t.worldAt w).releaseKey = some key
          -- the escrow: the new key set under a secret encapsulated to the release key, bound to this device
          ∧ ∃ cipher draw, cipher = (t.worldAt w).encapsulated draw ∧ (t.worldAt w).escrow = some (cipher ++
              Config.gcmSeal (Config.kemSecret key cipher) 0 (hashBytes Config.deviceIdentity) ((t.worldAt w).keySet w)))
      ∧ (2 ^ 30 ≤ s.hssLeaves ∨ (s.worldAt w).releaseKey = none ∨ (s.worldAt w).roomFor tr = false ∨ (s.worldAt w).lowered tr = true → exec (.migrationArm w image) s = .next (s.status w 1)))
    ∧ (∀ image tr, s.transfers[image]? = some tr → tr.stage ≠ .sent ∨ (tr.foreign = false ∧ tr.source = w) → exec (.migrationArm w image) s = .next s)
    ∧ ((s.worldAt w).migration = .quiesced → (s.worldAt w).tdisp ≠ .run → ∀ i ∈ [Instr.migrationErase w true, .migrationAbort w], exec i s = .next s)
    ∧ ((s.worldAt w).migration = .quiesced → (s.worldAt w).tdisp = .run → ∃ t, exec (.migrationErase w true) s = .next t ∧ (t.worldAt w).migration = .erased
        ∧ (t.worldAt w).slices = [] ∧ (t.worldAt w).kcEpochs = [] ∧ (t.worldAt w).keyGen = 0
        ∧ t.transfers = s.transfers.map fun tr => if tr.ofSource w then tr.confirmed else tr)
    ∧ (∀ n, (s.worldAt w).migration = .armed n →
      (n + 60000000000 ≤ s.ns → exec (.armedTimeout w) s = .next (s.setWorld w { s.worldAt w with migration := .escrow }))
      ∧ ((∀ tr ∈ s.transfers, tr.stage ≠ .erased (some w)) → (s.worldAt w).tdisp = .locked ∨ (s.worldAt w).tdisp = .run →
        ∃ t, exec (.migrationAbort w) s = .next t ∧ (t.worldAt w).migration = .none ∧ (t.worldAt w).slices = [] ∧ (t.worldAt w).meters = []
          ∧ (t.worldAt w).escrow = none ∧ ∀ tr ∈ t.transfers, tr.stage ≠ .taken w ∧ tr.stage ≠ .erased (some w))
      -- once the source has erased its keys, the destination keeps the world
      ∧ ((∃ tr ∈ s.transfers, tr.stage = .erased (some w)) → exec (.migrationAbort w) s = .next s))
    ∧ (∀ i flag, (∃ n, (s.worldAt w).migration = .armed n ∧ i = Instr.migrationConfirm w ∧ flag = flMigrated)
        ∨ ((s.worldAt w).migration = .escrow ∧ (s.worldAt w).escrow ≠ none ∧ (s.worldAt w).session = true ∧ i = .escrowRelease w true ∧ flag = flEscrow) →
      ((∃ tr ∈ s.transfers, tr.stage = .erased (some w) ∨ (tr.foreign = true ∧ tr.stage = .taken w)) → (s.worldAt w).tdisp = .locked ∨ (s.worldAt w).tdisp = .run →
        ∃ (u : State) (x : World), exec i s = .next ((u.setWorld w x).unsealWorld w) ∧ x = { s.worldAt w with
            migration := .none, metersFrozen := false, escrow := none, chainIndex := (s.worldAt w).chainIndex + 1, chainSerial := 0, nextFlags := flag, tdisp := .run }
          ∧ u = { s with transfers := u.transfers } ∧ ∀ tr ∈ u.transfers, tr.stage ≠ .taken w ∧ tr.stage ≠ .erased (some w))
      ∧ ((∀ tr ∈ s.transfers, tr.stage ≠ .erased (some w) ∧ (tr.foreign = false ∨ tr.stage ≠ .taken w)) ∨ (s.worldAt w).tdisp = .error → exec i s = .next s))
    ∧ ((s.worldAt w).migration = .escrow → (s.worldAt w).session = false → exec (.escrowRelease w true) s = .next s)
    ∧ ((s.worldAt w).tdisp = .run → (s.worldAt w).migration = .quiesced ∨ ((s.worldAt w).migration = .quiescing ∧ s.sealing w = false) →
      ∃ (u : State) (x : World), exec (.migrationAbort w) s = .next (((u.setWorld w x).unsealWorld w).status w 0)
        ∧ x = { s.worldAt w with migration := .none, metersFrozen := false, nextFlags := (s.worldAt w).nextFlags ||| flResumed }
        ∧ u = { s with transfers := u.transfers } ∧ ∀ tr ∈ u.transfers, tr.ofSource w = false)
    ∧ (s.drbgSeed + 2 ^ 20 ≤ s.drbg → exec .drbgReseed s = .next { s with drbgSeed := s.drbg })

/-! ### Events: the host, power and reset -/

/-- R342, R358, R377, R378, R379, R380, R381, R382 and R383: a mailbox command in progress ends with its 256 payload bytes, or stages its image, BUSY falls, and no memory is written; an access of the host to the system window writes or reads the bytes of a mapped page, a page of measured code keeps its bytes, one that does not translate reads all ones and is logged, and one that crosses a page is two; an unsupported request is answered as one and recorded; every 1 µs grants that hold all clusters within the budget are taken, and each stretches its cluster's clock to what its watts allow at its activity, from 400 MHz to its greatest clock, from the march on; a re-plan lowers that greatest clock, and below the floor fences the cluster; the patrol counts what it finds and corrects what it can; a reset starts bring-up again, with what persists. What a reset keeps is log 60 (DEDUCED); the mailbox's payloads and status are log 61 (DESIGN CHOICE); the write to measured code that is dropped, and the order of the checks of an access, are log 64 (DEDUCED); the answer [1] to an unsupported request is log 89 (PRESUMED); the form of the grants, and the clock that watts allow, are log 90 (DESIGN CHOICE). -/
def Obligations.HostPowerAndResetEvents : Prop :=
  ∀ (s : State),
    (s.mbStat.getLsbD 63 = true → s.dstat ≠ 15 → ∀ stack, Word.field s.mbCmd 16 4 = stack →
      ∀ p ∈ [(Instr.readTelemetry stack, 1), (.readRepairInventory stack, 2), (.readAgeingRecord stack, 4)], Word.field s.mbCmd 0 16 = p.2 →
      ∃ t, exec p.1 s = .next t ∧ t.mbStat.getLsbD 63 = false ∧ t.mbPayload.length = 256
        ∧ t = { s with mbStat := t.mbStat, mbPayload := t.mbPayload, freeCount := t.freeCount })
    ∧ (∀ ok, s.mbStat.getLsbD 63 = true → Word.field s.mbCmd 0 16 = 3 → ∃ t, exec (.stageFirmwareImage ok) s = .next t ∧ t.mbStat.getLsbD 63 = false
        ∧ t = { s with mbStat := t.mbStat, staged := some ok, freeCount := t.freeCount })
    ∧ (∀ world off len, s.dstat ≠ 15 → world < 16 → (world = 0 ∨ (s.dstat = 5 ∧ (s.worldAt world).tdisp = .run)) → off + len ≤ 2 ^ 36 →
      (off % Config.pageBytes + len ≤ Config.pageBytes →
        (∀ a, sysPlace (s.worldAt world).live (2 ^ 52 + off) = some a →
          exec (.bar2Access world off none len) s = .next ((s.sysVerify world a len).reply world (s.readSys a len))
          ∧ ∀ bs : List Byte, bs.length = len → exec (.bar2Access world off (some bs) len) s
              = .next (if s.codeAt world (pageOf (2 ^ 52 + off)) (a / Config.pageBytes) then s else s.putSys a bs false))
        ∧ (sysPlace (s.worldAt world).live (2 ^ 52 + off) = none →
          (∃ t, exec (.bar2Access world off none len) s = .next t ∧ t.answers = s.answers ++ [(world, List.replicate len 0xFF)] ∧ t.eseq = s.eseq + 1)
          ∧ ∀ bs : List Byte, bs.length = len → exec (.bar2Access world off (some bs) len) s = .next (s.bar2Miss world (2 ^ 52 + off))))
      ∧ ∀ n, n = Config.pageBytes - off % Config.pageBytes → n < len →
        (∃ t, exec (.bar2Access world off none len) s = .next t ∧ t = ((s.bar2Read world (2 ^ 52 + off) n).2.bar2Read world (2 ^ 52 + off + n) (len - n)).2.reply
          world ((s.bar2Read world (2 ^ 52 + off) n).1 ++ ((s.bar2Read world (2 ^ 52 + off) n).2.bar2Read world (2 ^ 52 + off + n) (len - n)).1))
        ∧ ∀ bs : List Byte, bs.length = len → exec (.bar2Access world off (some bs) len) s
            = .next ((s.bar2Write world (2 ^ 52 + off) (bs.take n)).bar2Write world (2 ^ 52 + off + n) (bs.drop n)))
    ∧ (∀ world, world < 16 → (s.dstat = 5 ∨ (world = 0 ∧ s.dstat ≠ 15)) → ∀ kind, ∃ t, exec (.unsupportedRequest ⟨world, kind⟩) s = .next t
        ∧ t.answers = s.answers ++ [(world, [1])] ∧ t.pfEvents.length = s.pfEvents.length + 1 ∧ t.sysmem = s.sysmem)
    ∧ (∀ grants t, 3 ≤ s.dstat → s.dstat ≤ 5 → s.grantedAt + 1000 ≤ s.ns → (∀ g ∈ grants, g.cluster < 64) → t = grants.foldl State.grantCluster s →
      (t.wattsHeld ≤ 2400 → exec (.hearthGrant grants) s = .next { t with grantedAt := s.ns })
      ∧ (2400 < t.wattsHeld → exec (.hearthGrant grants) s = .next s))
    ∧ (∀ g : Grant, ∃ t, s.grantCluster g = t ∧ t = { s with watts := t.watts, activity := t.activity, floors := t.floors, clocks := t.clocks }
        ∧ t.wattsOf g.cluster = g.watts ∧ SMap.get t.activity 0 g.cluster = g.activity ∧ SMap.get t.floors 0 g.cluster = g.floor
        ∧ t.clockMhz g.cluster = (if g.activity = 0 then s.topMhz g.cluster else max 400 (min (s.topMhz g.cluster) (g.watts * 1000 / g.activity)))
        ∧ ∀ d, d ≠ g.cluster → t.wattsOf d = s.wattsOf d ∧ t.clockMhz d = s.clockMhz d ∧ SMap.get t.floors 0 d = SMap.get s.floors 0 d)
    ∧ (∀ c mhz top, c < 64 → (∀ i, i < 12 → (s.coreAt (c * 12 + i)).wg = none) → top = min mhz (s.topMhz c) →
      ∃ t, exec (.voltageReplan c mhz) s = .next t ∧ t.ageing = s.ageing ++ [.cluster c top] ∧ t.topMhz c = top
        ∧ t.clockMhz c = (if SMap.get s.activity 0 c = 0 then top else max 400 (min top (s.wattsOf c * 1000 / SMap.get s.activity 0 c)))
        ∧ (mhz < 400 → ∀ i, i < 12 → c * 12 + i ∈ t.fenced) ∧ (400 ≤ mhz → t.fenced = s.fenced))
    ∧ (∀ stack n found, found = (s.dramErrs.filter fun e => systemChannel stack e.1).take n →
      ∃ t, exec (.systemChannelPatrol stack n) s = .next t ∧ t.eseq = s.eseq + BitVec.ofNat 64 found.length
        ∧ SMap.get t.ecnt 0 0 = SMap.get s.ecnt 0 0 + BitVec.ofNat 64 (found.countP fun e => !e.2)
        ∧ SMap.get t.ecnt 0 1 = SMap.get s.ecnt 0 1 + BitVec.ofNat 64 (found.countP fun e => e.2)
        ∧ ∀ e, e ∈ t.dramErrs ↔ e ∈ s.dramErrs ∧ (e ∉ found ∨ e.2 = true))
    ∧ ∀ ok, ∃ t, exec (.reset ok) s = .next t ∧ t.dstat = 0 ∧ (ok = true ↔ t.sigFail = 0) ∧ t.cores = [] ∧ t.dram = [] ∧ t.launches = []
        ∧ t.staged = s.staged ∧ t.bootGen = s.bootGen ∧ t.drbg = s.drbg
        ∧ t.fenced = s.fenced ∧ t.repaired = s.repaired ∧ t.spares = s.spares ∧ t.goneSlices = s.goneSlices ∧ t.ageing = s.ageing ∧ (∀ k, t.topMhz k = s.topMhz k ∧ t.clockMhz k = s.topMhz k)
        ∧ s.hssLeaves ≤ t.hssLeaves ∧ t.hssLeaves % 1024 = 0 ∧ t.hssLeaves < s.hssLeaves + 1024

/-! ### The whole machine -/

/-- Every instruction of the table answers a next state in every state: none is refused, and none faults the model. Also: R257 and log 2, DESIGN CHOICE: a step faults exactly when the package has stopped, and otherwise takes the next turn. -/
def Obligations.OnlyAStoppedPackageFaults : Prop :=
  (∀ (i : Instr) (s : State), ∃ t, exec i s = .next t)
  ∧ ∀ (s : State), (s.stopped = true → step s = .fault .packageStopped) ∧ (s.stopped = false → ∃ t, step s = .next t)

/-- R343: when an event is numbered, its category counter increases by one, so ESEQ always equals the sum of ECNT[0..7]: a step keeps it, from every state in which it holds. -/
def Obligations.ErrorCountersSumKept : Prop :=
  ∀ (s t : State), s.errorsCounted → step s = .next t → t.errorsCounted

/-- R39, R135, R235, R285, R344, R355 and R383: right after reset ESEQ equals the sum of the counters, the error log is empty, no core holds a workgroup, every virtual function is in CONFIG_UNLOCKED with its registers 0, QNEXT is 1, and bring-up is at its first step. The values that the spec does not give are the model's (log 1, DESIGN CHOICE). -/
def Obligations.ResetLeavesTheStatedValues : Prop :=
  State.reset.errorsCounted ∧ State.reset.elogBase = 0 ∧ State.reset.elogHead = 0 ∧ State.reset.elogTail = 0 ∧ State.reset.elogOvf = false
  ∧ State.reset.eseq = 0 ∧ State.reset.dstat = 0
  ∧ (∀ c, (State.reset.coreAt c).wg = none ∧ (State.reset.coreAt c).mg = 0 ∧ (State.reset.coreAt c).vctl = 0
      ∧ (∀ k, SMap.get (State.reset.coreAt c).bfmt 0 k = 0 ∧ (State.reset.coreAt c).wheel k = Config.defaultWheel)
      ∧ ∀ a, ((State.reset.coreAt c).acc a).w = 32 ∧ ((State.reset.coreAt c).acc a).ckv = true ∧ ∀ r j, ((State.reset.coreAt c).acc a).get r j = 0)
  ∧ (∀ w, (State.reset.worldAt w).tdisp = .unlocked ∧ (State.reset.worldAt w).pwctl = 0 ∧ (State.reset.worldAt w).pwpart = 0
      ∧ (∀ m, SMap.get (State.reset.worldAt w).meters 0 m = 0) ∧ ∀ q, ((State.reset.worldAt w).queue q).qnext = 1 ∧ ((State.reset.worldAt w).queue q).qcfg = 0)

/-- The laws of the model's memory: every write of bytes keeps the canonical form of a memory, and reads back: a byte inside the written run is the one written, and every other byte is as it was. A value stored in n bytes has its least significant byte first, and reads back (R5). -/
def Obligations.MemoryReadsBackWhatIsWritten : Prop :=
  ∀ (m : Memory) (a : Nat) (bs : List Byte), Memory.wf m →
    Memory.wf (Memory.writeN m a bs)
    ∧ (∀ i, i < bs.length → Memory.read (Memory.writeN m a bs) (a + i) = bs.getD i 0)
    ∧ (∀ x, x < a ∨ a + bs.length ≤ x → Memory.read (Memory.writeN m a bs) x = Memory.read m x)
    ∧ (∀ n v i, i < n → Memory.read (Memory.writeN m a (leBytes n v)) (a + i) = BitVec.ofNat 8 (v / 256 ^ i))
    ∧ (∀ n v, v < 256 ^ n → leNat (Memory.readN (Memory.writeN m a (leBytes n v)) a n) = v)
    ∧ ∀ n, Memory.wf (Memory.clear m a n) ∧ ∀ x, Memory.read (Memory.clear m a n) x = if a ≤ x ∧ x < a + n then 0 else Memory.read m x
end

