-- ==== Sys2Proof/Laws/Dispatch.lean ====
section
/-! SUPPORT. exec of a constructor is the meaning that its arm names: one equation per constructor, so that no proof unfolds the dispatch. -/

namespace Sys2Proof.Machine

set_option Elab.async false

open Sys2Proof

@[simp] theorem exec_nop (s : State) : exec (.nop) s = execNop s := rfl
@[simp] theorem exec_add (f : SR) (s : State) : exec (.add f) s = execAdd f s := rfl
@[simp] theorem exec_sub (f : SR) (s : State) : exec (.sub f) s = execSub f s := rfl
@[simp] theorem exec_mul (f : SR) (s : State) : exec (.mul f) s = execMul f s := rfl
@[simp] theorem exec_mulh (f : SR) (s : State) : exec (.mulh f) s = execMulh f s := rfl
@[simp] theorem exec_mulhu (f : SR) (s : State) : exec (.mulhu f) s = execMulhu f s := rfl
@[simp] theorem exec_div (f : SR) (s : State) : exec (.div f) s = execDiv f s := rfl
@[simp] theorem exec_divu (f : SR) (s : State) : exec (.divu f) s = execDivu f s := rfl
@[simp] theorem exec_rem (f : SR) (s : State) : exec (.rem f) s = execRem f s := rfl
@[simp] theorem exec_remu (f : SR) (s : State) : exec (.remu f) s = execRemu f s := rfl
@[simp] theorem exec_and (f : SR) (s : State) : exec (.and f) s = execAnd f s := rfl
@[simp] theorem exec_or (f : SR) (s : State) : exec (.or f) s = execOr f s := rfl
@[simp] theorem exec_xor (f : SR) (s : State) : exec (.xor f) s = execXor f s := rfl
@[simp] theorem exec_shl (f : SR) (s : State) : exec (.shl f) s = execShl f s := rfl
@[simp] theorem exec_shr (f : SR) (s : State) : exec (.shr f) s = execShr f s := rfl
@[simp] theorem exec_sra (f : SR) (s : State) : exec (.sra f) s = execSra f s := rfl
@[simp] theorem exec_rotr (f : SR) (s : State) : exec (.rotr f) s = execRotr f s := rfl
@[simp] theorem exec_min (f : SR) (s : State) : exec (.min f) s = execMin f s := rfl
@[simp] theorem exec_max (f : SR) (s : State) : exec (.max f) s = execMax f s := rfl
@[simp] theorem exec_minu (f : SR) (s : State) : exec (.minu f) s = execMinu f s := rfl
@[simp] theorem exec_maxu (f : SR) (s : State) : exec (.maxu f) s = execMaxu f s := rfl
@[simp] theorem exec_seq (f : SR) (s : State) : exec (.seq f) s = execSeq f s := rfl
@[simp] theorem exec_sne (f : SR) (s : State) : exec (.sne f) s = execSne f s := rfl
@[simp] theorem exec_slt (f : SR) (s : State) : exec (.slt f) s = execSlt f s := rfl
@[simp] theorem exec_sltu (f : SR) (s : State) : exec (.sltu f) s = execSltu f s := rfl
@[simp] theorem exec_sel (f : SR) (s : State) : exec (.sel f) s = execSel f s := rfl
@[simp] theorem exec_clz (f : SR) (s : State) : exec (.clz f) s = execClz f s := rfl
@[simp] theorem exec_ctz (f : SR) (s : State) : exec (.ctz f) s = execCtz f s := rfl
@[simp] theorem exec_popc (f : SR) (s : State) : exec (.popc f) s = execPopc f s := rfl
@[simp] theorem exec_mov (f : SR) (s : State) : exec (.mov f) s = execMov f s := rfl
@[simp] theorem exec_padd (f : SR) (s : State) : exec (.padd f) s = execPadd f s := rfl
@[simp] theorem exec_addi (f : SI) (s : State) : exec (.addi f) s = execAddi f s := rfl
@[simp] theorem exec_andi (f : SI) (s : State) : exec (.andi f) s = execAndi f s := rfl
@[simp] theorem exec_ori (f : SI) (s : State) : exec (.ori f) s = execOri f s := rfl
@[simp] theorem exec_xori (f : SI) (s : State) : exec (.xori f) s = execXori f s := rfl
@[simp] theorem exec_shli (f : SI) (s : State) : exec (.shli f) s = execShli f s := rfl
@[simp] theorem exec_shri (f : SI) (s : State) : exec (.shri f) s = execShri f s := rfl
@[simp] theorem exec_srai (f : SI) (s : State) : exec (.srai f) s = execSrai f s := rfl
@[simp] theorem exec_rotri (f : SI) (s : State) : exec (.rotri f) s = execRotri f s := rfl
@[simp] theorem exec_slti (f : SI) (s : State) : exec (.slti f) s = execSlti f s := rfl
@[simp] theorem exec_sltui (f : SI) (s : State) : exec (.sltui f) s = execSltui f s := rfl
@[simp] theorem exec_seqi (f : SI) (s : State) : exec (.seqi f) s = execSeqi f s := rfl
@[simp] theorem exec_ptag (f : SI) (s : State) : exec (.ptag f) s = execPtag f s := rfl
@[simp] theorem exec_li (f : SL) (s : State) : exec (.li f) s = execLi f s := rfl
@[simp] theorem exec_lcat (f : SL) (s : State) : exec (.lcat f) s = execLcat f s := rfl
@[simp] theorem exec_lpc (f : SL) (s : State) : exec (.lpc f) s = execLpc f s := rfl
@[simp] theorem exec_rng (f : SR) (s : State) : exec (.rng f) s = execRng f s := rfl
@[simp] theorem exec_ctradd (f : SR) (s : State) : exec (.ctradd f) s = execCtradd f s := rfl
@[simp] theorem exec_msave (f : SR) (s : State) : exec (.msave f) s = execMsave f s := rfl
@[simp] theorem exec_mrest (f : SR) (s : State) : exec (.mrest f) s = execMrest f s := rfl
@[simp] theorem exec_mcomb (f : SR) (s : State) : exec (.mcomb f) s = execMcomb f s := rfl
@[simp] theorem exec_mcm (f : SR) (s : State) : exec (.mcm f) s = execMcm f s := rfl
@[simp] theorem exec_fadd (f : SR) (s : State) : exec (.fadd f) s = execFadd f s := rfl
@[simp] theorem exec_fsub (f : SR) (s : State) : exec (.fsub f) s = execFsub f s := rfl
@[simp] theorem exec_fmul (f : SR) (s : State) : exec (.fmul f) s = execFmul f s := rfl
@[simp] theorem exec_ffma (f : SR) (s : State) : exec (.ffma f) s = execFfma f s := rfl
@[simp] theorem exec_fdiv (f : SR) (s : State) : exec (.fdiv f) s = execFdiv f s := rfl
@[simp] theorem exec_fsqrt (f : SR) (s : State) : exec (.fsqrt f) s = execFsqrt f s := rfl
@[simp] theorem exec_fmin (f : SR) (s : State) : exec (.fmin f) s = execFmin f s := rfl
@[simp] theorem exec_fmax (f : SR) (s : State) : exec (.fmax f) s = execFmax f s := rfl
@[simp] theorem exec_feq (f : SR) (s : State) : exec (.feq f) s = execFeq f s := rfl
@[simp] theorem exec_flt (f : SR) (s : State) : exec (.flt f) s = execFlt f s := rfl
@[simp] theorem exec_fle (f : SR) (s : State) : exec (.fle f) s = execFle f s := rfl
@[simp] theorem exec_fclass (f : SR) (s : State) : exec (.fclass f) s = execFclass f s := rfl
@[simp] theorem exec_fcvt (f : SR) (s : State) : exec (.fcvt f) s = execFcvt f s := rfl
@[simp] theorem exec_fabs (f : SR) (s : State) : exec (.fabs f) s = execFabs f s := rfl
@[simp] theorem exec_fneg (f : SR) (s : State) : exec (.fneg f) s = execFneg f s := rfl
@[simp] theorem exec_ldB (f : SI) (s : State) : exec (.ldB f) s = execLdB f s := rfl
@[simp] theorem exec_ldH (f : SI) (s : State) : exec (.ldH f) s = execLdH f s := rfl
@[simp] theorem exec_ldW (f : SI) (s : State) : exec (.ldW f) s = execLdW f s := rfl
@[simp] theorem exec_ldD (f : SI) (s : State) : exec (.ldD f) s = execLdD f s := rfl
@[simp] theorem exec_ldnB (f : SI) (s : State) : exec (.ldnB f) s = execLdnB f s := rfl
@[simp] theorem exec_ldnH (f : SI) (s : State) : exec (.ldnH f) s = execLdnH f s := rfl
@[simp] theorem exec_ldnW (f : SI) (s : State) : exec (.ldnW f) s = execLdnW f s := rfl
@[simp] theorem exec_stB (f : SS) (s : State) : exec (.stB f) s = execStB f s := rfl
@[simp] theorem exec_stH (f : SS) (s : State) : exec (.stH f) s = execStH f s := rfl
@[simp] theorem exec_stW (f : SS) (s : State) : exec (.stW f) s = execStW f s := rfl
@[simp] theorem exec_stD (f : SS) (s : State) : exec (.stD f) s = execStD f s := rfl
@[simp] theorem exec_vadd (f : VF) (s : State) : exec (.vadd f) s = execVadd f s := rfl
@[simp] theorem exec_vsub (f : VF) (s : State) : exec (.vsub f) s = execVsub f s := rfl
@[simp] theorem exec_vmul (f : VF) (s : State) : exec (.vmul f) s = execVmul f s := rfl
@[simp] theorem exec_vfma (f : VF) (s : State) : exec (.vfma f) s = execVfma f s := rfl
@[simp] theorem exec_vfms (f : VF) (s : State) : exec (.vfms f) s = execVfms f s := rfl
@[simp] theorem exec_vfnma (f : VF) (s : State) : exec (.vfnma f) s = execVfnma f s := rfl
@[simp] theorem exec_vdiv (f : VF) (s : State) : exec (.vdiv f) s = execVdiv f s := rfl
@[simp] theorem exec_vsqrt (f : VF) (s : State) : exec (.vsqrt f) s = execVsqrt f s := rfl
@[simp] theorem exec_vmin (f : VF) (s : State) : exec (.vmin f) s = execVmin f s := rfl
@[simp] theorem exec_vmax (f : VF) (s : State) : exec (.vmax f) s = execVmax f s := rfl
@[simp] theorem exec_vabs (f : VF) (s : State) : exec (.vabs f) s = execVabs f s := rfl
@[simp] theorem exec_vneg (f : VF) (s : State) : exec (.vneg f) s = execVneg f s := rfl
@[simp] theorem exec_vexp2 (f : VF) (s : State) : exec (.vexp2 f) s = execVexp2 f s := rfl
@[simp] theorem exec_vlog2 (f : VF) (s : State) : exec (.vlog2 f) s = execVlog2 f s := rfl
@[simp] theorem exec_vrcp (f : VF) (s : State) : exec (.vrcp f) s = execVrcp f s := rfl
@[simp] theorem exec_vrsqrt (f : VF) (s : State) : exec (.vrsqrt f) s = execVrsqrt f s := rfl
@[simp] theorem exec_vand (f : VF) (s : State) : exec (.vand f) s = execVand f s := rfl
@[simp] theorem exec_vor (f : VF) (s : State) : exec (.vor f) s = execVor f s := rfl
@[simp] theorem exec_vxor (f : VF) (s : State) : exec (.vxor f) s = execVxor f s := rfl
@[simp] theorem exec_vshl (f : VF) (s : State) : exec (.vshl f) s = execVshl f s := rfl
@[simp] theorem exec_vshr (f : VF) (s : State) : exec (.vshr f) s = execVshr f s := rfl
@[simp] theorem exec_vsra (f : VF) (s : State) : exec (.vsra f) s = execVsra f s := rfl
@[simp] theorem exec_vcmp (f : VF) (s : State) : exec (.vcmp f) s = execVcmp f s := rfl
@[simp] theorem exec_vsel (f : VF) (s : State) : exec (.vsel f) s = execVsel f s := rfl
@[simp] theorem exec_vcvt (f : VF) (s : State) : exec (.vcvt f) s = execVcvt f s := rfl
@[simp] theorem exec_vbcst (f : VF) (s : State) : exec (.vbcst f) s = execVbcst f s := rfl
@[simp] theorem exec_vmov (f : VF) (s : State) : exec (.vmov f) s = execVmov f s := rfl
@[simp] theorem exec_vslide (f : VF) (s : State) : exec (.vslide f) s = execVslide f s := rfl
@[simp] theorem exec_vperm (f : VF) (s : State) : exec (.vperm f) s = execVperm f s := rfl
@[simp] theorem exec_vscan (f : VF) (s : State) : exec (.vscan f) s = execVscan f s := rfl
@[simp] theorem exec_vred (f : VF) (s : State) : exec (.vred f) s = execVred f s := rfl
@[simp] theorem exec_vpopc (f : VF) (s : State) : exec (.vpopc f) s = execVpopc f s := rfl
@[simp] theorem exec_vdot4 (f : VF) (s : State) : exec (.vdot4 f) s = execVdot4 f s := rfl
@[simp] theorem exec_vclass (f : VF) (s : State) : exec (.vclass f) s = execVclass f s := rfl
@[simp] theorem exec_vadds (f : VF) (s : State) : exec (.vadds f) s = execVadds f s := rfl
@[simp] theorem exec_vmuls (f : VF) (s : State) : exec (.vmuls f) s = execVmuls f s := rfl
@[simp] theorem exec_vfmas (f : VF) (s : State) : exec (.vfmas f) s = execVfmas f s := rfl
@[simp] theorem exec_vmins (f : VF) (s : State) : exec (.vmins f) s = execVmins f s := rfl
@[simp] theorem exec_vmaxs (f : VF) (s : State) : exec (.vmaxs f) s = execVmaxs f s := rfl
@[simp] theorem exec_vminn (f : VF) (s : State) : exec (.vminn f) s = execVminn f s := rfl
@[simp] theorem exec_vmaxn (f : VF) (s : State) : exec (.vmaxn f) s = execVmaxn f s := rfl
@[simp] theorem exec_vld (f : VF) (s : State) : exec (.vld f) s = execVld f s := rfl
@[simp] theorem exec_vlds (f : VF) (s : State) : exec (.vlds f) s = execVlds f s := rfl
@[simp] theorem exec_vldx (f : VF) (s : State) : exec (.vldx f) s = execVldx f s := rfl
@[simp] theorem exec_vst (f : VF) (s : State) : exec (.vst f) s = execVst f s := rfl
@[simp] theorem exec_vsts (f : VF) (s : State) : exec (.vsts f) s = execVsts f s := rfl
@[simp] theorem exec_vstx (f : VF) (s : State) : exec (.vstx f) s = execVstx f s := rfl
@[simp] theorem exec_vacr (f : VF) (s : State) : exec (.vacr f) s = execVacr f s := rfl
@[simp] theorem exec_vacw (f : VF) (s : State) : exec (.vacw f) s = execVacw f s := rfl
@[simp] theorem exec_mma (f : MF) (s : State) : exec (.mma f) s = execMma f s := rfl
@[simp] theorem exec_mmas (f : MF) (s : State) : exec (.mmas f) s = execMmas f s := rfl
@[simp] theorem exec_mzero (f : MF) (s : State) : exec (.mzero f) s = execMzero f s := rfl
@[simp] theorem exec_mgeo (f : MF) (s : State) : exec (.mgeo f) s = execMgeo f s := rfl
@[simp] theorem exec_tquant (f : MF) (s : State) : exec (.tquant f) s = execTquant f s := rfl
@[simp] theorem exec_tcast (f : MF) (s : State) : exec (.tcast f) s = execTcast f s := rfl
@[simp] theorem exec_mchk (f : MF) (s : State) : exec (.mchk f) s = execMchk f s := rfl
@[simp] theorem exec_mscl (f : MF) (s : State) : exec (.mscl f) s = execMscl f s := rfl
@[simp] theorem exec_macc (f : MF) (s : State) : exec (.macc f) s = execMacc f s := rfl
@[simp] theorem exec_mact (f : MemF) (s : State) : exec (.mact f) s = execMact f s := rfl
@[simp] theorem exec_mpre (f : MemF) (s : State) : exec (.mpre f) s = execMpre f s := rfl
@[simp] theorem exec_mprea (f : MemF) (s : State) : exec (.mprea f) s = execMprea f s := rfl
@[simp] theorem exec_mrd (f : MemF) (s : State) : exec (.mrd f) s = execMrd f s := rfl
@[simp] theorem exec_mwr (f : MemF) (s : State) : exec (.mwr f) s = execMwr f s := rfl
@[simp] theorem exec_mref (f : MemF) (s : State) : exec (.mref f) s = execMref f s := rfl
@[simp] theorem exec_mrefa (f : MemF) (s : State) : exec (.mrefa f) s = execMrefa f s := rfl
@[simp] theorem exec_mrdt (f : MemF) (s : State) : exec (.mrdt f) s = execMrdt f s := rfl
@[simp] theorem exec_mnop (f : MemF) (s : State) : exec (.mnop f) s = execMnop f s := rfl
@[simp] theorem exec_xcpy (f : CopyF) (s : State) : exec (.xcpy f) s = execXcpy f s := rfl
@[simp] theorem exec_xcpyt (f : CopyF) (s : State) : exec (.xcpyt f) s = execXcpyt f s := rfl
@[simp] theorem exec_xfill (f : CopyF) (s : State) : exec (.xfill f) s = execXfill f s := rfl
@[simp] theorem exec_tscale (x : R5) (y : R5) (s : State) : exec (.tscale x y) s = execTscale x y s := rfl
@[simp] theorem exec_qcfg (x : R5) (q : BitVec 4) (s : State) : exec (.qcfg x q) s = execQcfg x q s := rfl
@[simp] theorem exec_qpush (q : BitVec 4) (n : BitVec 8) (s : State) : exec (.qpush q n) s = execQpush q n s := rfl
@[simp] theorem exec_qpushRef (x : R5) (n : BitVec 8) (s : State) : exec (.qpushRef x n) s = execQpushRef x n s := rfl
@[simp] theorem exec_qpop (q : BitVec 4) (n : BitVec 8) (s : State) : exec (.qpop q n) s = execQpop q n s := rfl
@[simp] theorem exec_swset (x : R5) (k : BitVec 4) (s : State) : exec (.swset x k) s = execSwset x k s := rfl
@[simp] theorem exec_pput (f : PutF) (s : State) : exec (.pput f) s = execPput f s := rfl
@[simp] theorem exec_pget (f : PutF) (s : State) : exec (.pget f) s = execPget f s := rfl
@[simp] theorem exec_pputv (f : PutvF) (s : State) : exec (.pputv f) s = execPputv f s := rfl
@[simp] theorem exec_pamo (f : PamoF) (s : State) : exec (.pamo f) s = execPamo f s := rfl
@[simp] theorem exec_csum (f : CopyF) (s : State) : exec (.csum f) s = execCsum f s := rfl
@[simp] theorem exec_cksave (x : R5) (sync : BitVec 4) (s : State) : exec (.cksave x sync) s = execCksave x sync s := rfl
@[simp] theorem exec_ckload (x : R5) (sync : BitVec 4) (s : State) : exec (.ckload x sync) s = execCkload x sync s := rfl
@[simp] theorem exec_br (off : BitVec 24) (s : State) : exec (.br off) s = execBr off s := rfl
@[simp] theorem exec_brz (a : R5) (off : BitVec 19) (s : State) : exec (.brz a off) s = execBrz a off s := rfl
@[simp] theorem exec_brnz (a : R5) (off : BitVec 19) (s : State) : exec (.brnz a off) s = execBrnz a off s := rfl
@[simp] theorem exec_brcm (cond : BitVec 2) (ty : VType) (off : BitVec 19) (s : State) : exec (.brcm cond ty off) s = execBrcm cond ty off s := rfl
@[simp] theorem exec_call (off : BitVec 24) (s : State) : exec (.call off) s = execCall off s := rfl
@[simp] theorem exec_ret (s : State) : exec (.ret) s = execRet s := rfl
@[simp] theorem exec_jmp (a : R5) (s : State) : exec (.jmp a) s = execJmp a s := rfl
@[simp] theorem exec_loop (a : R5) (off : BitVec 19) (s : State) : exec (.loop a off) s = execLoop a off s := rfl
@[simp] theorem exec_rep (n : BitVec 6) (step : BitVec 18) (s : State) : exec (.rep n step) s = execRep n step s := rfl
@[simp] theorem exec_repRepetition (core : Nat) (strand : Nat) (s : State) : exec (.repRepetition core strand) s = execRepRepetition core strand s := rfl
@[simp] theorem exec_endStrand (s : State) : exec (.endStrand) s = execEndStrand s := rfl
@[simp] theorem exec_qwait (q : BitVec 4) (n : BitVec 12) (s : State) : exec (.qwait q n) s = execQwait q n s := rfl
@[simp] theorem exec_qarv (q : BitVec 4) (n : BitVec 8) (s : State) : exec (.qarv q n) s = execQarv q n s := rfl
@[simp] theorem exec_swwait (k : BitVec 4) (g : R5) (s : State) : exec (.swwait k g) s = execSwwait k g s := rfl
@[simp] theorem exec_phase (s : State) : exec (.phase) s = execPhase s := rfl
@[simp] theorem exec_xfence (src : BitVec 7) (dst : BitVec 7) (s : State) : exec (.xfence src dst) s = execXfence src dst s := rfl
@[simp] theorem exec_ifence (s : State) : exec (.ifence) s = execIfence s := rfl
@[simp] theorem exec_aadd (f : AtomF) (s : State) : exec (.aadd f) s = execAadd f s := rfl
@[simp] theorem exec_aand (f : AtomF) (s : State) : exec (.aand f) s = execAand f s := rfl
@[simp] theorem exec_aor (f : AtomF) (s : State) : exec (.aor f) s = execAor f s := rfl
@[simp] theorem exec_axor (f : AtomF) (s : State) : exec (.axor f) s = execAxor f s := rfl
@[simp] theorem exec_amin (f : AtomF) (s : State) : exec (.amin f) s = execAmin f s := rfl
@[simp] theorem exec_amax (f : AtomF) (s : State) : exec (.amax f) s = execAmax f s := rfl
@[simp] theorem exec_aminu (f : AtomF) (s : State) : exec (.aminu f) s = execAminu f s := rfl
@[simp] theorem exec_amaxu (f : AtomF) (s : State) : exec (.amaxu f) s = execAmaxu f s := rfl
@[simp] theorem exec_aswp (f : AtomF) (s : State) : exec (.aswp f) s = execAswp f s := rfl
@[simp] theorem exec_acas (f : AtomF) (s : State) : exec (.acas f) s = execAcas f s := rfl
@[simp] theorem exec_afadd (f : AtomF) (s : State) : exec (.afadd f) s = execAfadd f s := rfl
@[simp] theorem exec_atomicPerform (core : Nat) (bank : Nat) (s : State) : exec (.atomicPerform core bank) s = execAtomicPerform core bank s := rfl
@[simp] theorem exec_cropen (mask : BitVec 8) (off : BitVec 16) (s : State) : exec (.cropen mask off) s = execCropen mask off s := rfl
@[simp] theorem exec_crclose (s : State) : exec (.crclose) s = execCrclose s := rfl
@[simp] theorem exec_cmpd (reg : R5) (mask : BitVec 8) (s : State) : exec (.cmpd reg mask) s = execCmpd reg mask s := rfl
@[simp] theorem exec_trap (imm : BitVec 16) (s : State) : exec (.trap imm) s = execTrap imm s := rfl
@[simp] theorem exec_brk (imm : BitVec 16) (s : State) : exec (.brk imm) s = execBrk imm s := rfl
@[simp] theorem exec_sysr (d : R5) (idx : BitVec 12) (s : State) : exec (.sysr d idx) s = execSysr d idx s := rfl
@[simp] theorem exec_sysw (src : R5) (idx : BitVec 12) (s : State) : exec (.sysw src idx) s = execSysw src idx s := rfl
@[simp] theorem exec_bwheelWrite (src : R5) (k : BitVec 4) (s : State) : exec (.bwheelWrite src k) s = execBwheelWrite src k s := rfl
@[simp] theorem exec_syncRegisterWrite (src : R5) (k : BitVec 4) (s : State) : exec (.syncRegisterWrite src k) s = execSyncRegisterWrite src k s := rfl
@[simp] theorem exec_repcWrite (src : R5) (s : State) : exec (.repcWrite src) s = execRepcWrite src s := rfl
@[simp] theorem exec_lcWrite (src : R5) (s : State) : exec (.lcWrite src) s = execLcWrite src s := rfl
@[simp] theorem exec_mgWrite (src : R5) (s : State) : exec (.mgWrite src) s = execMgWrite src s := rfl
@[simp] theorem exec_vctlWrite (src : R5) (s : State) : exec (.vctlWrite src) s = execVctlWrite src s := rfl
@[simp] theorem exec_xinvWrite (src : R5) (s : State) : exec (.xinvWrite src) s = execXinvWrite src s := rfl
@[simp] theorem exec_estatWrite (src : R5) (s : State) : exec (.estatWrite src) s = execEstatWrite src s := rfl
@[simp] theorem exec_scrub (a : R5) (len : R5) (sync : BitVec 4) (s : State) : exec (.scrub a len sync) s = execScrub a len sync s := rfl
@[simp] theorem exec_krot (a : R5) (sync : BitVec 4) (s : State) : exec (.krot a sync) s = execKrot a sync s := rfl
@[simp] theorem exec_metr (d : R5) (a : R5) (s : State) : exec (.metr d a) s = execMetr d a s := rfl
@[simp] theorem exec_mets (a : R5) (sync : BitVec 4) (s : State) : exec (.mets a sync) s = execMets a sync s := rfl
@[simp] theorem exec_seal (a : R5) (sync : BitVec 4) (s : State) : exec (.seal a sync) s = execSeal a sync s := rfl
@[simp] theorem exec_unseal (a : R5) (sync : BitVec 4) (s : State) : exec (.unseal a sync) s = execUnseal a sync s := rfl
@[simp] theorem exec_resultLanding (core : Nat) (strand : Nat) (s : State) : exec (.resultLanding core strand) s = execResultLanding core strand s := rfl
@[simp] theorem exec_reset (sigOk : Bool) (s : State) : exec (.reset sigOk) s = execReset sigOk s := rfl
@[simp] theorem exec_commandPlay (stack : Nat) (pc : Nat) (arrive : Nat) (s : State) : exec (.commandPlay stack pc arrive) s = execCommandPlay stack pc arrive s := rfl
@[simp] theorem exec_grainLanding (stack : Nat) (pc : Nat) (s : State) : exec (.grainLanding stack pc) s = execGrainLanding stack pc s := rfl
@[simp] theorem exec_lineVerdict (stack : Nat) (pc : Nat) (s : State) : exec (.lineVerdict stack pc) s = execLineVerdict stack pc s := rfl
@[simp] theorem exec_lineCommit (stack : Nat) (pc : Nat) (s : State) : exec (.lineCommit stack pc) s = execLineCommit stack pc s := rfl
@[simp] theorem exec_refreshClock (stack : Nat) (pc : Nat) (s : State) : exec (.refreshClock stack pc) s = execRefreshClock stack pc s := rfl
@[simp] theorem exec_rowOpenLimit (stack : Nat) (pc : Nat) (bank : Nat) (s : State) : exec (.rowOpenLimit stack pc bank) s = execRowOpenLimit stack pc bank s := rfl
@[simp] theorem exec_rowRepair (stack : Nat) (pc : Nat) (bank : Nat) (row : Nat) (s : State) : exec (.rowRepair stack pc bank row) s = execRowRepair stack pc bank row s := rfl
@[simp] theorem exec_withdrawalNotice (stack : Nat) (pc : Nat) (sids : BitVec 4) (noticeUs : Nat) (s : State) : exec (.withdrawalNotice stack pc sids noticeUs) s = execWithdrawalNotice stack pc sids noticeUs s := rfl
@[simp] theorem exec_layerMapOut (stack : Nat) (sid : Nat) (s : State) : exec (.layerMapOut stack sid) s = execLayerMapOut stack sid s := rfl
@[simp] theorem exec_channelRetirement (stack : Nat) (pc : Nat) (s : State) : exec (.channelRetirement stack pc) s = execChannelRetirement stack pc s := rfl
@[simp] theorem exec_withdrawn (stack : Nat) (pc : Nat) (sids : BitVec 4) (s : State) : exec (.withdrawn stack pc sids) s = execWithdrawn stack pc sids s := rfl
@[simp] theorem exec_logicalChannelMove (world : Nat) (lchan : Nat) (stack : Nat) (pc : Nat) (s : State) : exec (.logicalChannelMove world lchan stack pc) s = execLogicalChannelMove world lchan stack pc s := rfl
@[simp] theorem exec_systemSliceMove (stack : Nat) (slice : Nat) (pc : Nat) (sid : Nat) (s : State) : exec (.systemSliceMove stack slice pc sid) s = execSystemSliceMove stack slice pc sid s := rfl
@[simp] theorem exec_sliceFillComplete (world : Nat) (lchan : Nat) (sidslot : Nat) (stack : Nat) (pc : Nat) (sid : Nat) (s : State) : exec (.sliceFillComplete world lchan sidslot stack pc sid) s = execSliceFillComplete world lchan sidslot stack pc sid s := rfl
@[simp] theorem exec_syncCount (core : Nat) (bank : Nat) (s : State) : exec (.syncCount core bank) s = execSyncCount core bank s := rfl
@[simp] theorem exec_copyComplete (core : Nat) (id : Nat) (s : State) : exec (.copyComplete core id) s = execCopyComplete core id s := rfl
@[simp] theorem exec_matrixOperationStart (core : Nat) (s : State) : exec (.matrixOperationStart core) s = execMatrixOperationStart core s := rfl
@[simp] theorem exec_matrixOperationRetire (core : Nat) (s : State) : exec (.matrixOperationRetire core) s = execMatrixOperationRetire core s := rfl
@[simp] theorem exec_putRequest (r : PeerReq) (notify : Bool) (data : Payload) (s : State) : exec (.putRequest r notify data) s = execPutRequest r notify data s := rfl
@[simp] theorem exec_getRequest (r : PeerReq) (lines : Nat) (s : State) : exec (.getRequest r lines) s = execGetRequest r lines s := rfl
@[simp] theorem exec_pamoRequest (r : PeerReq) (ident : Nat) (aop : BitVec 4) (wide : Bool) (v : Word) (c : Word) (s : State) : exec (.pamoRequest r ident aop wide v c) s = execPamoRequest r ident aop wide v c s := rfl
@[simp] theorem exec_putAcknowledgement (id : Nat) (reply : Reply) (s : State) : exec (.putAcknowledgement id reply) s = execPutAcknowledgement id reply s := rfl
@[simp] theorem exec_getDataArrival (id : Nat) (reply : Reply) (data : Payload) (s : State) : exec (.getDataArrival id reply data) s = execGetDataArrival id reply data s := rfl
@[simp] theorem exec_pamoReply (id : Nat) (reply : Reply) (old : Word) (poison : Bool) (s : State) : exec (.pamoReply id reply old poison) s = execPamoReply id reply old poison s := rfl
@[simp] theorem exec_csumResult (id : Nat) (total : List Word) (s : State) : exec (.csumResult id total) s = execCsumResult id total s := rfl
@[simp] theorem exec_retryResend (id : Nat) (s : State) : exec (.retryResend id) s = execRetryResend id s := rfl
@[simp] theorem exec_frameAuthFailure (port : Nat) (s : State) : exec (.frameAuthFailure port) s = execFrameAuthFailure port s := rfl
@[simp] theorem exec_peerLost (device : Nat) (s : State) : exec (.peerLost device) s = execPeerLost device s := rfl
@[simp] theorem exec_linkRekey (port : Nat) (s : State) : exec (.linkRekey port) s = execLinkRekey port s := rfl
@[simp] theorem exec_bridgeFailure (s : State) : exec (.bridgeFailure) s = execBridgeFailure s := rfl
@[simp] theorem exec_peerBinding (world : Nat) (device : Nat) (remote : Nat) (ok : Bool) (s : State) : exec (.peerBinding world device remote ok) s = execPeerBinding world device remote ok s := rfl
@[simp] theorem exec_qnotifyWrite (world : Nat) (q : Nat) (n : Nat) (s : State) : exec (.qnotifyWrite world q n) s = execQnotifyWrite world q n s := rfl
@[simp] theorem exec_submissionFetchRetry (world : Nat) (q : Nat) (s : State) : exec (.submissionFetchRetry world q) s = execSubmissionFetchRetry world q s := rfl
@[simp] theorem exec_queueEnable (world : Nat) (q : Nat) (v : Word) (s : State) : exec (.queueEnable world q v) s = execQueueEnable world q v s := rfl
@[simp] theorem exec_queueDisable (world : Nat) (q : Nat) (s : State) : exec (.queueDisable world q) s = execQueueDisable world q s := rfl
@[simp] theorem exec_qconsWrite (world : Nat) (q : Nat) (n : Nat) (s : State) : exec (.qconsWrite world q n) s = execQconsWrite world q n s := rfl
@[simp] theorem exec_workgroupStart (world : Nat) (s : State) : exec (.workgroupStart world) s = execWorkgroupStart world s := rfl
@[simp] theorem exec_strandFinish (core : Nat) (strand : Nat) (s : State) : exec (.strandFinish core strand) s = execStrandFinish core strand s := rfl
@[simp] theorem exec_launchComplete (world : Nat) (q : Nat) (seq : Nat) (s : State) : exec (.launchComplete world q seq) s = execLaunchComplete world q seq s := rfl
@[simp] theorem exec_coalescingTimeout (world : Nat) (q : Nat) (s : State) : exec (.coalescingTimeout world q) s = execCoalescingTimeout world q s := rfl
@[simp] theorem exec_allowanceExhausted (world : Nat) (q : Nat) (seq : Nat) (s : State) : exec (.allowanceExhausted world q seq) s = execAllowanceExhausted world q seq s := rfl
@[simp] theorem exec_waitLimitSwitch (core : Nat) (s : State) : exec (.waitLimitSwitch core) s = execWaitLimitSwitch core s := rfl
@[simp] theorem exec_governorEvaluation (s : State) : exec (.governorEvaluation) s = execGovernorEvaluation s := rfl
@[simp] theorem exec_clusterMove (cluster : Nat) (s : State) : exec (.clusterMove cluster) s = execClusterMove cluster s := rfl
@[simp] theorem exec_phaseBoundary (wg : Nat) (s : State) : exec (.phaseBoundary wg) s = execPhaseBoundary wg s := rfl
@[simp] theorem exec_faultDelivery (core : Nat) (strand : Nat) (s : State) : exec (.faultDelivery core strand) s = execFaultDelivery core strand s := rfl
@[simp] theorem exec_lockstepMismatch (core : Nat) (s : State) : exec (.lockstepMismatch core) s = execLockstepMismatch core s := rfl
@[simp] theorem exec_scratchpadScrub (core : Nat) (bank : Nat) (block : Nat) (s : State) : exec (.scratchpadScrub core bank block) s = execScratchpadScrub core bank block s := rfl
@[simp] theorem exec_sealNoticeEnd (id : Nat) (s : State) : exec (.sealNoticeEnd id) s = execSealNoticeEnd id s := rfl
@[simp] theorem exec_sealStopped (id : Nat) (s : State) : exec (.sealStopped id) s = execSealStopped id s := rfl
@[simp] theorem exec_sealDrainComplete (id : Nat) (s : State) : exec (.sealDrainComplete id) s = execSealDrainComplete id s := rfl
@[simp] theorem exec_sealImageCommitted (id : Nat) (s : State) : exec (.sealImageCommitted id) s = execSealImageCommitted id s := rfl
@[simp] theorem exec_unsealPlacement (id : Nat) (s : State) : exec (.unsealPlacement id) s = execUnsealPlacement id s := rfl
@[simp] theorem exec_restorePoint (wg : Nat) (s : State) : exec (.restorePoint wg) s = execRestorePoint wg s := rfl
@[simp] theorem exec_krotComplete (world : Nat) (s : State) : exec (.krotComplete world) s = execKrotComplete world s := rfl
@[simp] theorem exec_meterStatementSigned (world : Nat) (s : State) : exec (.meterStatementSigned world) s = execMeterStatementSigned world s := rfl
@[simp] theorem exec_cksaveComplete (id core : Nat) (s : State) : exec (.cksaveComplete id core) s = execCksaveComplete id core s := rfl
@[simp] theorem exec_ckloadComplete (id : Nat) (result : CkFetch) (sources : List Nat) (plain : List Byte) (s : State) : exec (.ckloadComplete id result sources plain) s = execCkloadComplete id result sources plain s := rfl
@[simp] theorem exec_debugResume (world : Nat) (core : Nat) (strand : Nat) (s : State) : exec (.debugResume world core strand) s = execDebugResume world core strand s := rfl
@[simp] theorem exec_lockInterfaceRequest (world : Nat) (s : State) : exec (.lockInterfaceRequest world) s = execLockInterfaceRequest world s := rfl
@[simp] theorem exec_startInterfaceRequest (world : Nat) (s : State) : exec (.startInterfaceRequest world) s = execStartInterfaceRequest world s := rfl
@[simp] theorem exec_stopInterfaceRequest (world : Nat) (s : State) : exec (.stopInterfaceRequest world) s = execStopInterfaceRequest world s := rfl
@[simp] theorem exec_ideIntegrityFailure (world : Nat) (s : State) : exec (.ideIntegrityFailure world) s = execIdeIntegrityFailure world s := rfl
@[simp] theorem exec_functionLevelReset (world : Nat) (s : State) : exec (.functionLevelReset world) s = execFunctionLevelReset world s := rfl
@[simp] theorem exec_spdmSessionLoss (world : Nat) (s : State) : exec (.spdmSessionLoss world) s = execSpdmSessionLoss world s := rfl
@[simp] theorem exec_getMeasurements (world : Nat) (index : MeasureReq) (s : State) : exec (.getMeasurements world index) s = execGetMeasurements world index s := rfl
@[simp] theorem exec_challenge (world : Nat) (s : State) : exec (.challenge world) s = execChallenge world s := rfl
@[simp] theorem exec_keyExchange (world : Nat) (s : State) : exec (.keyExchange world) s = execKeyExchange world s := rfl
@[simp] theorem exec_pwctlWrite (world : Nat) (v : Word) (s : State) : exec (.pwctlWrite world v) s = execPwctlWrite world v s := rfl
@[simp] theorem exec_frozenRegisterWrite (world : Nat) (offset : Nat) (v : Word) (s : State) : exec (.frozenRegisterWrite world offset v) s = execFrozenRegisterWrite world offset v s := rfl
@[simp] theorem exec_vfConfigWrite (world : Nat) (item : VfItem) (s : State) : exec (.vfConfigWrite world item) s = execVfConfigWrite world item s := rfl
@[simp] theorem exec_meterBind (world : Nat) (p : Policy) (s : State) : exec (.meterBind world p) s = execMeterBind world p s := rfl
@[simp] theorem exec_meterUnbind (world : Nat) (meter : Nat) (s : State) : exec (.meterUnbind world meter) s = execMeterUnbind world meter s := rfl
@[simp] theorem exec_meterPred (world : Nat) (values : List Word) (last : BitVec 256) (sigOk : Bool) (s : State) : exec (.meterPred world values last sigOk) s = execMeterPred world values last sigOk s := rfl
@[simp] theorem exec_migrationQuiesce (world : Nat) (permitOk : Bool) (s : State) : exec (.migrationQuiesce world permitOk) s = execMigrationQuiesce world permitOk s := rfl
@[simp] theorem exec_migrationArm (world : Nat) (image : Nat) (s : State) : exec (.migrationArm world image) s = execMigrationArm world image s := rfl
@[simp] theorem exec_migrationErase (world : Nat) (ackOk : Bool) (s : State) : exec (.migrationErase world ackOk) s = execMigrationErase world ackOk s := rfl
@[simp] theorem exec_migrationConfirm (world : Nat) (s : State) : exec (.migrationConfirm world) s = execMigrationConfirm world s := rfl
@[simp] theorem exec_migrationAbort (world : Nat) (s : State) : exec (.migrationAbort world) s = execMigrationAbort world s := rfl
@[simp] theorem exec_armedTimeout (world : Nat) (s : State) : exec (.armedTimeout world) s = execArmedTimeout world s := rfl
@[simp] theorem exec_escrowRelease (world : Nat) (ok : Bool) (s : State) : exec (.escrowRelease world ok) s = execEscrowRelease world ok s := rfl
@[simp] theorem exec_drbgReseed (s : State) : exec (.drbgReseed) s = execDrbgReseed s := rfl
@[simp] theorem exec_readTelemetry (stack : Nat) (s : State) : exec (.readTelemetry stack) s = execReadTelemetry stack s := rfl
@[simp] theorem exec_readRepairInventory (stack : Nat) (s : State) : exec (.readRepairInventory stack) s = execReadRepairInventory stack s := rfl
@[simp] theorem exec_stageFirmwareImage (verifies : Bool) (s : State) : exec (.stageFirmwareImage verifies) s = execStageFirmwareImage verifies s := rfl
@[simp] theorem exec_readAgeingRecord (stack : Nat) (s : State) : exec (.readAgeingRecord stack) s = execReadAgeingRecord stack s := rfl
@[simp] theorem exec_bar2Access (world : Nat) (offset : Nat) (write : Option (List Byte)) (len : Nat) (s : State) : exec (.bar2Access world offset write len) s = execBar2Access world offset write len s := rfl
@[simp] theorem exec_unsupportedRequest (kind : Unsupported) (s : State) : exec (.unsupportedRequest kind) s = execUnsupportedRequest kind s := rfl
@[simp] theorem exec_hearthGrant (grants : List Grant) (s : State) : exec (.hearthGrant grants) s = execHearthGrant grants s := rfl
@[simp] theorem exec_voltageReplan (cluster : Nat) (slower : Nat) (s : State) : exec (.voltageReplan cluster slower) s = execVoltageReplan cluster slower s := rfl
@[simp] theorem exec_remoteTokenArrival (id : Nat) (s : State) : exec (.remoteTokenArrival id) s = execRemoteTokenArrival id s := rfl
@[simp] theorem exec_replyAcknowledgement (src : Nat) (ident : Nat) (s : State) : exec (.replyAcknowledgement src ident) s = execReplyAcknowledgement src ident s := rfl
@[simp] theorem exec_bridgeLaneRepair (s : State) : exec (.bridgeLaneRepair) s = execBridgeLaneRepair s := rfl
@[simp] theorem exec_systemChannelPatrol (stack : Nat) (errors : Nat) (s : State) : exec (.systemChannelPatrol stack errors) s = execSystemChannelPatrol stack errors s := rfl
@[simp] theorem exec_lockstepResynchronised (core : Nat) (s : State) : exec (.lockstepResynchronised core) s = execLockstepResynchronised core s := rfl

end Sys2Proof.Machine
end

