-- ==== Sys2Proof/Laws/Memory.lean ====
section
/-! SUPPORT. Sparse maps and memories: what a read sees after a write, and that every memory operation keeps the canonical form; and the value of a number's bytes, most significant first. -/

namespace Sys2Proof.Machine

open Sys2Proof

/-! ### Sparse maps -/

@[simp] theorem SMap.find_set_same {α : Type} (m : SMap α) (i : Nat) (v : α) : SMap.find (SMap.set m i v) i = some v := by
  induction m with
  | nil => simp [SMap.set, SMap.find]
  | cons p m ih =>
    obtain ⟨k, w⟩ := p
    unfold SMap.set
    split
    · simp [SMap.find]
    · split
      · simp [SMap.find]
      · next h => rw [SMap.find, if_neg (fun e => h e.symm), ih]

theorem SMap.find_set_ne {α : Type} (m : SMap α) {i j : Nat} (v : α) (h : j ≠ i) : SMap.find (SMap.set m i v) j = SMap.find m j := by
  induction m with
  | nil => simp [SMap.set, SMap.find, Ne.symm h]
  | cons p m ih =>
    obtain ⟨k, w⟩ := p
    unfold SMap.set
    split
    · simp [SMap.find, Ne.symm h]
    · split
      · next e => subst e; simp [SMap.find, Ne.symm h]
      · simp only [SMap.find, ih]

@[simp] theorem SMap.get_set_same {α : Type} (m : SMap α) (d : α) (i : Nat) (v : α) : SMap.get (SMap.set m i v) d i = v := by
  simp [SMap.get]

theorem SMap.get_set_ne {α : Type} (m : SMap α) (d : α) {i j : Nat} (v : α) (h : j ≠ i) : SMap.get (SMap.set m i v) d j = SMap.get m d j := by
  simp [SMap.get, SMap.find_set_ne m v h]

@[simp] theorem SMap.set_set {α : Type} (m : SMap α) (i : Nat) (v w : α) : SMap.set (SMap.set m i v) i w = SMap.set m i w := by
  induction m with
  | nil => simp [SMap.set]
  | cons p m ih =>
    obtain ⟨k, x⟩ := p
    by_cases h : i < k
    · simp [SMap.set, h]
    · by_cases e : i = k
      · subst e; simp [SMap.set]
      · simp [SMap.set, h, e, ih]

theorem SMap.find_filter {α : Type} (m : SMap α) (p : Nat → Bool) (j : Nat) :
    SMap.find (m.filter fun c => p c.1) j = if p j then SMap.find m j else none := by
  induction m with
  | nil => simp [SMap.find]
  | cons c m ih =>
    obtain ⟨k, w⟩ := c
    by_cases h : p k = true
    · rw [List.filter_cons, if_pos h]
      simp only [SMap.find, ih]
      by_cases e : k = j
      · subst e; simp [h]
      · simp [e]
    · rw [List.filter_cons, if_neg h, ih]
      by_cases e : k = j
      · subst e; simp [h]
      · simp [SMap.find, e]

@[simp] theorem SMap.find_erase_same {α : Type} (m : SMap α) (i : Nat) : SMap.find (SMap.erase m i) i = none := by
  have := SMap.find_filter m (fun k => k != i) i
  simpa [SMap.erase] using this

theorem SMap.find_erase_ne {α : Type} (m : SMap α) {i j : Nat} (h : j ≠ i) : SMap.find (SMap.erase m i) j = SMap.find m j := by
  have := SMap.find_filter m (fun k => k != i) j
  simpa [SMap.erase, h] using this

/-- A property of each listed number and value that the new one has, the longer map has. -/
theorem SMap.forall_set {α : Type} (m : SMap α) (i : Nat) (v : α) (P : Nat × α → Prop) (hm : ∀ c ∈ m, P c) (hv : P (i, v)) :
    ∀ c ∈ SMap.set m i v, P c := by
  induction m with
  | nil => simpa [SMap.set] using hv
  | cons p m ih =>
    obtain ⟨k, w⟩ := p
    have hk : P (k, w) := hm _ (List.mem_cons_self ..)
    have hr : ∀ c ∈ m, P c := fun c hc => hm c (List.mem_cons_of_mem _ hc)
    unfold SMap.set
    split
    · intro c hc
      rcases List.mem_cons.1 hc with rfl | hc
      · exact hv
      · exact hm c hc
    · split
      · intro c hc
        rcases List.mem_cons.1 hc with rfl | hc
        · exact hv
        · exact hr c hc
      · intro c hc
        rcases List.mem_cons.1 hc with rfl | hc
        · exact hk
        · exact ih hr c hc

theorem SMap.rising_set {α : Type} (m : SMap α) (i : Nat) (v : α) (h : SMap.rising m) : SMap.rising (SMap.set m i v) := by
  induction m with
  | nil => simp [SMap.set, SMap.rising]
  | cons p m ih =>
    obtain ⟨k, w⟩ := p
    obtain ⟨h1, h2⟩ := List.pairwise_cons.1 h
    unfold SMap.set
    split
    · next hi =>
      refine List.pairwise_cons.2 ⟨fun c hc => ?_, h⟩
      rcases List.mem_cons.1 hc with rfl | hc
      · exact hi
      · exact Nat.lt_trans hi (h1 c hc)
    · split
      · next e => subst e; exact List.pairwise_cons.2 ⟨h1, h2⟩
      · next hn he =>
        refine List.pairwise_cons.2 ⟨SMap.forall_set m i v (fun c => k < c.1) h1 ?_, ih h2⟩
        show k < i
        omega

theorem SMap.rising_filter {α : Type} (m : SMap α) (p : Nat × α → Bool) (h : SMap.rising m) : SMap.rising (m.filter p) :=
  List.Pairwise.sublist List.filter_sublist h

/-! ### Memories -/

theorem Memory.wf_nil : Memory.wf [] := ⟨List.Pairwise.nil, by simp⟩

theorem Memory.wf_filter (m : Memory) (p : Host.Cell → Bool) (h : Memory.wf m) : Memory.wf (m.filter p) :=
  ⟨SMap.rising_filter m p h.1, fun c hc => h.2 c (List.mem_filter.1 hc).1⟩

theorem Memory.wf_write (m : Memory) (a : Nat) (b : Byte) (h : Memory.wf m) : Memory.wf (Memory.write m a b) := by
  unfold Memory.write
  split
  · exact Memory.wf_filter m _ h
  · next hb => exact ⟨SMap.rising_set m a b h.1, SMap.forall_set m a b (fun c => c.2 ≠ 0) h.2 hb⟩

@[simp] theorem Memory.read_write_same (m : Memory) (a : Nat) (b : Byte) : Memory.read (Memory.write m a b) a = b := by
  unfold Memory.read Memory.write
  split
  · next h => simp [SMap.get, h]
  · simp

theorem Memory.read_write_ne (m : Memory) {a x : Nat} (b : Byte) (h : x ≠ a) : Memory.read (Memory.write m a b) x = Memory.read m x := by
  unfold Memory.read Memory.write
  split
  · simp [SMap.get, SMap.find_erase_ne m h]
  · exact SMap.get_set_ne m 0 b h

/-- Every memory operation keeps the canonical form: a run of bytes, and a run of zeros. -/
theorem Memory.wf_writeN_clear (m : Memory) (h : Memory.wf m) :
    (∀ (bs : List Byte) (a : Nat), Memory.wf (Memory.writeN m a bs)) ∧ ∀ a n, Memory.wf (Memory.clear m a n) := by
  refine ⟨fun bs => ?_, fun a n => Memory.wf_filter m _ h⟩
  induction bs generalizing m with
  | nil => exact fun _ => h
  | cons b bs ih => exact fun a => ih _ (Memory.wf_write m a b h) (a + 1)

/-- The memories of the machine right after reset have the canonical form. -/
theorem State.reset_memories_wf :
    Memory.wf State.reset.dram ∧ Memory.wf State.reset.sysmem ∧ Memory.wf State.reset.host
    ∧ ∀ c, Memory.wf (State.reset.coreAt c).spad ∧ Memory.wf (State.reset.coreAt c).scale :=
  ⟨Memory.wf_nil, Memory.wf_nil, Memory.wf_nil, fun _ => ⟨Memory.wf_nil, Memory.wf_nil⟩⟩

/-! ### Bytes, most significant first -/

theorem beNat_beBytes (n v : Nat) : beNat (beBytes n v) = v % 256 ^ n := by
  induction n generalizing v with
  | zero => simp [beBytes, beNat, Nat.mod_one]
  | succ n ih =>
    have h : beNat (beBytes n (v / 256) ++ [BitVec.ofNat 8 v]) = beNat (beBytes n (v / 256)) * 256 + v % 256 := by simp [beNat, List.foldl_append]
    rw [beBytes, h, ih, Nat.pow_succ, Nat.mul_comm (256 ^ n), Nat.mod_mul]
    omega

@[simp] theorem hashOf_hashBytes (d : BitVec 256) : hashOf (hashBytes d) = d := by
  rw [hashOf, hashBytes, beNat_beBytes, Nat.mod_eq_of_lt (by have := d.isLt; omega)]
  simp

end Sys2Proof.Machine
end

