-- ==== Sys2Proof/Laws/State.lean ====
section
/-! SUPPORT. What each named update of the state, a core and a strand leaves in each field: one lemma per field per update, all by rfl. -/

namespace Sys2Proof.Machine

open Sys2Proof

/-! ### State.setCore: only the cores -/

@[simp] theorem State.setCore_tick (s : State) (c : Nat) (k : Core) : (s.setCore c k).tick = s.tick := rfl
@[simp] theorem State.setCore_ns (s : State) (c : Nat) (k : Core) : (s.setCore c k).ns = s.ns := rfl
@[simp] theorem State.setCore_turns (s : State) (c : Nat) (k : Core) : (s.setCore c k).turns = s.turns := rfl
@[simp] theorem State.setCore_clockAcc (s : State) (c : Nat) (k : Core) : (s.setCore c k).clockAcc = s.clockAcc := rfl
@[simp] theorem State.setCore_freeCount (s : State) (c : Nat) (k : Core) : (s.setCore c k).freeCount = s.freeCount := rfl
@[simp] theorem State.setCore_nextId (s : State) (c : Nat) (k : Core) : (s.setCore c k).nextId = s.nextId := rfl
@[simp] theorem State.setCore_cur (s : State) (c : Nat) (k : Core) : (s.setCore c k).cur = s.cur := rfl
@[simp] theorem State.setCore_stopped (s : State) (c : Nat) (k : Core) : (s.setCore c k).stopped = s.stopped := rfl
@[simp] theorem State.setCore_dstat (s : State) (c : Nat) (k : Core) : (s.setCore c k).dstat = s.dstat := rfl
@[simp] theorem State.setCore_dstatErr (s : State) (c : Nat) (k : Core) : (s.setCore c k).dstatErr = s.dstatErr := rfl
@[simp] theorem State.setCore_staged (s : State) (c : Nat) (k : Core) : (s.setCore c k).staged = s.staged := rfl
@[simp] theorem State.setCore_mbCmd (s : State) (c : Nat) (k : Core) : (s.setCore c k).mbCmd = s.mbCmd := rfl
@[simp] theorem State.setCore_mbStat (s : State) (c : Nat) (k : Core) : (s.setCore c k).mbStat = s.mbStat := rfl
@[simp] theorem State.setCore_mbPayload (s : State) (c : Nat) (k : Core) : (s.setCore c k).mbPayload = s.mbPayload := rfl
@[simp] theorem State.setCore_lanes (s : State) (c : Nat) (k : Core) : (s.setCore c k).lanes = s.lanes := rfl
@[simp] theorem State.setCore_pfEvents (s : State) (c : Nat) (k : Core) : (s.setCore c k).pfEvents = s.pfEvents := rfl
@[simp] theorem State.setCore_eventSeq (s : State) (c : Nat) (k : Core) : (s.setCore c k).eventSeq = s.eventSeq := rfl
@[simp] theorem State.setCore_mcapEvents (s : State) (c : Nat) (k : Core) : (s.setCore c k).mcapEvents = s.mcapEvents := rfl
@[simp] theorem State.setCore_goneSlices (s : State) (c : Nat) (k : Core) : (s.setCore c k).goneSlices = s.goneSlices := rfl
@[simp] theorem State.setCore_notices (s : State) (c : Nat) (k : Core) : (s.setCore c k).notices = s.notices := rfl
@[simp] theorem State.setCore_sysMap (s : State) (c : Nat) (k : Core) : (s.setCore c k).sysMap = s.sysMap := rfl
@[simp] theorem State.setCore_repaired (s : State) (c : Nat) (k : Core) : (s.setCore c k).repaired = s.repaired := rfl
@[simp] theorem State.setCore_elogBase (s : State) (c : Nat) (k : Core) : (s.setCore c k).elogBase = s.elogBase := rfl
@[simp] theorem State.setCore_elogHead (s : State) (c : Nat) (k : Core) : (s.setCore c k).elogHead = s.elogHead := rfl
@[simp] theorem State.setCore_elogTail (s : State) (c : Nat) (k : Core) : (s.setCore c k).elogTail = s.elogTail := rfl
@[simp] theorem State.setCore_elogOvf (s : State) (c : Nat) (k : Core) : (s.setCore c k).elogOvf = s.elogOvf := rfl
@[simp] theorem State.setCore_eseq (s : State) (c : Nat) (k : Core) : (s.setCore c k).eseq = s.eseq := rfl
@[simp] theorem State.setCore_ecnt (s : State) (c : Nat) (k : Core) : (s.setCore c k).ecnt = s.ecnt := rfl
@[simp] theorem State.setCore_instant (s : State) (c : Nat) (k : Core) : (s.setCore c k).instant = s.instant := rfl
@[simp] theorem State.setCore_instantAt (s : State) (c : Nat) (k : Core) : (s.setCore c k).instantAt = s.instantAt := rfl
@[simp] theorem State.setCore_instantLogged (s : State) (c : Nat) (k : Core) : (s.setCore c k).instantLogged = s.instantLogged := rfl
@[simp] theorem State.setCore_windows (s : State) (c : Nat) (k : Core) : (s.setCore c k).windows = s.windows := rfl
@[simp] theorem State.setCore_lasting (s : State) (c : Nat) (k : Core) : (s.setCore c k).lasting = s.lasting := rfl
@[simp] theorem State.setCore_spares (s : State) (c : Nat) (k : Core) : (s.setCore c k).spares = s.spares := rfl
@[simp] theorem State.setCore_fenced (s : State) (c : Nat) (k : Core) : (s.setCore c k).fenced = s.fenced := rfl
@[simp] theorem State.setCore_xinvWorld (s : State) (c : Nat) (k : Core) : (s.setCore c k).xinvWorld = s.xinvWorld := rfl
@[simp] theorem State.setCore_hssLeaves (s : State) (c : Nat) (k : Core) : (s.setCore c k).hssLeaves = s.hssLeaves := rfl
@[simp] theorem State.setCore_drbg (s : State) (c : Nat) (k : Core) : (s.setCore c k).drbg = s.drbg := rfl
@[simp] theorem State.setCore_drbgSeed (s : State) (c : Nat) (k : Core) : (s.setCore c k).drbgSeed = s.drbgSeed := rfl
@[simp] theorem State.setCore_ageing (s : State) (c : Nat) (k : Core) : (s.setCore c k).ageing = s.ageing := rfl
@[simp] theorem State.setCore_clocks (s : State) (c : Nat) (k : Core) : (s.setCore c k).clocks = s.clocks := rfl
@[simp] theorem State.setCore_bootGen (s : State) (c : Nat) (k : Core) : (s.setCore c k).bootGen = s.bootGen := rfl
@[simp] theorem State.setCore_march (s : State) (c : Nat) (k : Core) : (s.setCore c k).march = s.march := rfl
@[simp] theorem State.setCore_host (s : State) (c : Nat) (k : Core) : (s.setCore c k).host = s.host := rfl
@[simp] theorem State.setCore_interrupts (s : State) (c : Nat) (k : Core) : (s.setCore c k).interrupts = s.interrupts := rfl
@[simp] theorem State.setCore_dram (s : State) (c : Nat) (k : Core) : (s.setCore c k).dram = s.dram := rfl
@[simp] theorem State.setCore_badLines (s : State) (c : Nat) (k : Core) : (s.setCore c k).badLines = s.badLines := rfl
@[simp] theorem State.setCore_poisonLines (s : State) (c : Nat) (k : Core) : (s.setCore c k).poisonLines = s.poisonLines := rfl
@[simp] theorem State.setCore_majors (s : State) (c : Nat) (k : Core) : (s.setCore c k).majors = s.majors := rfl
@[simp] theorem State.setCore_minors (s : State) (c : Nat) (k : Core) : (s.setCore c k).minors = s.minors := rfl
@[simp] theorem State.setCore_sysmem (s : State) (c : Nat) (k : Core) : (s.setCore c k).sysmem = s.sysmem := rfl
@[simp] theorem State.setCore_sysPoison (s : State) (c : Nat) (k : Core) : (s.setCore c k).sysPoison = s.sysPoison := rfl
@[simp] theorem State.setCore_pcs (s : State) (c : Nat) (k : Core) : (s.setCore c k).pcs = s.pcs := rfl
@[simp] theorem State.setCore_cores (s : State) (c : Nat) (k : Core) : (s.setCore c k).cores = SMap.set s.cores c k := rfl
@[simp] theorem State.setCore_wgs (s : State) (c : Nat) (k : Core) : (s.setCore c k).wgs = s.wgs := rfl
@[simp] theorem State.setCore_launches (s : State) (c : Nat) (k : Core) : (s.setCore c k).launches = s.launches := rfl
@[simp] theorem State.setCore_worlds (s : State) (c : Nat) (k : Core) : (s.setCore c k).worlds = s.worlds := rfl
@[simp] theorem State.setCore_ports (s : State) (c : Nat) (k : Core) : (s.setCore c k).ports = s.ports := rfl
@[simp] theorem State.setCore_routes (s : State) (c : Nat) (k : Core) : (s.setCore c k).routes = s.routes := rfl
@[simp] theorem State.setCore_device (s : State) (c : Nat) (k : Core) : (s.setCore c k).device = s.device := rfl
@[simp] theorem State.setCore_fab (s : State) (c : Nat) (k : Core) : (s.setCore c k).fab = s.fab := rfl
@[simp] theorem State.setCore_dedupe (s : State) (c : Nat) (k : Core) : (s.setCore c k).dedupe = s.dedupe := rfl
@[simp] theorem State.setCore_amoIdent (s : State) (c : Nat) (k : Core) : (s.setCore c k).amoIdent = s.amoIdent := rfl
@[simp] theorem State.setCore_sentReplies (s : State) (c : Nat) (k : Core) : (s.setCore c k).sentReplies = s.sentReplies := rfl
@[simp] theorem State.setCore_seals (s : State) (c : Nat) (k : Core) : (s.setCore c k).seals = s.seals := rfl
@[simp] theorem State.setCore_images (s : State) (c : Nat) (k : Core) : (s.setCore c k).images = s.images := rfl
@[simp] theorem State.setCore_cks (s : State) (c : Nat) (k : Core) : (s.setCore c k).cks = s.cks := rfl
@[simp] theorem State.setCore_linkKeys (s : State) (c : Nat) (k : Core) : (s.setCore c k).linkKeys = s.linkKeys := rfl
@[simp] theorem State.setCore_resync (s : State) (c : Nat) (k : Core) : (s.setCore c k).resync = s.resync := rfl
@[simp] theorem State.setCore_filling (s : State) (c : Nat) (k : Core) : (s.setCore c k).filling = s.filling := rfl
@[simp] theorem State.setCore_answers (s : State) (c : Nat) (k : Core) : (s.setCore c k).answers = s.answers := rfl
@[simp] theorem State.setCore_transfers (s : State) (c : Nat) (k : Core) : (s.setCore c k).transfers = s.transfers := rfl
@[simp] theorem State.setCore_badNodes (s : State) (c : Nat) (k : Core) : (s.setCore c k).badNodes = s.badNodes := rfl
@[simp] theorem State.setCore_failedNodes (s : State) (c : Nat) (k : Core) : (s.setCore c k).failedNodes = s.failedNodes := rfl
@[simp] theorem State.setCore_badTags (s : State) (c : Nat) (k : Core) : (s.setCore c k).badTags = s.badTags := rfl
@[simp] theorem State.setCore_sysBad (s : State) (c : Nat) (k : Core) : (s.setCore c k).sysBad = s.sysBad := rfl
@[simp] theorem State.setCore_dramErrs (s : State) (c : Nat) (k : Core) : (s.setCore c k).dramErrs = s.dramErrs := rfl
@[simp] theorem State.setCore_sysOff (s : State) (c : Nat) (k : Core) : (s.setCore c k).sysOff = s.sysOff := rfl
@[simp] theorem State.setCore_topMajors (s : State) (c : Nat) (k : Core) : (s.setCore c k).topMajors = s.topMajors := rfl
@[simp] theorem State.setCore_frames (s : State) (c : Nat) (k : Core) : (s.setCore c k).frames = s.frames := rfl
@[simp] theorem State.setCore_governedAt (s : State) (c : Nat) (k : Core) : (s.setCore c k).governedAt = s.governedAt := rfl
@[simp] theorem State.setCore_ksSlot (s : State) (c : Nat) (k : Core) : (s.setCore c k).ksSlot = s.ksSlot := rfl
@[simp] theorem State.setCore_ktDraw (s : State) (c : Nat) (k : Core) : (s.setCore c k).ktDraw = s.ktDraw := rfl
@[simp] theorem State.setCore_sigFail (s : State) (c : Nat) (k : Core) : (s.setCore c k).sigFail = s.sigFail := rfl
@[simp] theorem State.setCore_maxClock (s : State) (c : Nat) (k : Core) : (s.setCore c k).maxClock = s.maxClock := rfl
@[simp] theorem State.setCore_floors (s : State) (c : Nat) (k : Core) : (s.setCore c k).floors = s.floors := rfl
@[simp] theorem State.setCore_grantedAt (s : State) (c : Nat) (k : Core) : (s.setCore c k).grantedAt = s.grantedAt := rfl
@[simp] theorem State.setCore_watts (s : State) (c : Nat) (k : Core) : (s.setCore c k).watts = s.watts := rfl
@[simp] theorem State.setCore_activity (s : State) (c : Nat) (k : Core) : (s.setCore c k).activity = s.activity := rfl
@[simp] theorem State.setCore_plannedAt (s : State) (c : Nat) (k : Core) : (s.setCore c k).plannedAt = s.plannedAt := rfl
@[simp] theorem State.setCore_pcPlannedAt (s : State) (c : Nat) (k : Core) : (s.setCore c k).pcPlannedAt = s.pcPlannedAt := rfl
@[simp] theorem State.setCore_bridgeUp (s : State) (c : Nat) (k : Core) : (s.setCore c k).bridgeUp = s.bridgeUp := rfl
@[simp] theorem State.setCore_bridge (s : State) (c : Nat) (k : Core) : (s.setCore c k).bridge = s.bridge := rfl
@[simp] theorem State.setCore_amoBase (s : State) (c : Nat) (k : Core) : (s.setCore c k).amoBase = s.amoBase := rfl
@[simp] theorem State.setCore_amoAcked (s : State) (c : Nat) (k : Core) : (s.setCore c k).amoAcked = s.amoAcked := rfl
@[simp] theorem State.setCore_dieRows (s : State) (c : Nat) (k : Core) : (s.setCore c k).dieRows = s.dieRows := rfl

/-! ### State.setWorld: only the worlds -/

@[simp] theorem State.setWorld_tick (s : State) (w : Nat) (x : World) : (s.setWorld w x).tick = s.tick := rfl
@[simp] theorem State.setWorld_ns (s : State) (w : Nat) (x : World) : (s.setWorld w x).ns = s.ns := rfl
@[simp] theorem State.setWorld_turns (s : State) (w : Nat) (x : World) : (s.setWorld w x).turns = s.turns := rfl
@[simp] theorem State.setWorld_clockAcc (s : State) (w : Nat) (x : World) : (s.setWorld w x).clockAcc = s.clockAcc := rfl
@[simp] theorem State.setWorld_freeCount (s : State) (w : Nat) (x : World) : (s.setWorld w x).freeCount = s.freeCount := rfl
@[simp] theorem State.setWorld_nextId (s : State) (w : Nat) (x : World) : (s.setWorld w x).nextId = s.nextId := rfl
@[simp] theorem State.setWorld_cur (s : State) (w : Nat) (x : World) : (s.setWorld w x).cur = s.cur := rfl
@[simp] theorem State.setWorld_stopped (s : State) (w : Nat) (x : World) : (s.setWorld w x).stopped = s.stopped := rfl
@[simp] theorem State.setWorld_dstat (s : State) (w : Nat) (x : World) : (s.setWorld w x).dstat = s.dstat := rfl
@[simp] theorem State.setWorld_dstatErr (s : State) (w : Nat) (x : World) : (s.setWorld w x).dstatErr = s.dstatErr := rfl
@[simp] theorem State.setWorld_staged (s : State) (w : Nat) (x : World) : (s.setWorld w x).staged = s.staged := rfl
@[simp] theorem State.setWorld_mbCmd (s : State) (w : Nat) (x : World) : (s.setWorld w x).mbCmd = s.mbCmd := rfl
@[simp] theorem State.setWorld_mbStat (s : State) (w : Nat) (x : World) : (s.setWorld w x).mbStat = s.mbStat := rfl
@[simp] theorem State.setWorld_mbPayload (s : State) (w : Nat) (x : World) : (s.setWorld w x).mbPayload = s.mbPayload := rfl
@[simp] theorem State.setWorld_lanes (s : State) (w : Nat) (x : World) : (s.setWorld w x).lanes = s.lanes := rfl
@[simp] theorem State.setWorld_pfEvents (s : State) (w : Nat) (x : World) : (s.setWorld w x).pfEvents = s.pfEvents := rfl
@[simp] theorem State.setWorld_eventSeq (s : State) (w : Nat) (x : World) : (s.setWorld w x).eventSeq = s.eventSeq := rfl
@[simp] theorem State.setWorld_mcapEvents (s : State) (w : Nat) (x : World) : (s.setWorld w x).mcapEvents = s.mcapEvents := rfl
@[simp] theorem State.setWorld_goneSlices (s : State) (w : Nat) (x : World) : (s.setWorld w x).goneSlices = s.goneSlices := rfl
@[simp] theorem State.setWorld_notices (s : State) (w : Nat) (x : World) : (s.setWorld w x).notices = s.notices := rfl
@[simp] theorem State.setWorld_sysMap (s : State) (w : Nat) (x : World) : (s.setWorld w x).sysMap = s.sysMap := rfl
@[simp] theorem State.setWorld_repaired (s : State) (w : Nat) (x : World) : (s.setWorld w x).repaired = s.repaired := rfl
@[simp] theorem State.setWorld_elogBase (s : State) (w : Nat) (x : World) : (s.setWorld w x).elogBase = s.elogBase := rfl
@[simp] theorem State.setWorld_elogHead (s : State) (w : Nat) (x : World) : (s.setWorld w x).elogHead = s.elogHead := rfl
@[simp] theorem State.setWorld_elogTail (s : State) (w : Nat) (x : World) : (s.setWorld w x).elogTail = s.elogTail := rfl
@[simp] theorem State.setWorld_elogOvf (s : State) (w : Nat) (x : World) : (s.setWorld w x).elogOvf = s.elogOvf := rfl
@[simp] theorem State.setWorld_eseq (s : State) (w : Nat) (x : World) : (s.setWorld w x).eseq = s.eseq := rfl
@[simp] theorem State.setWorld_ecnt (s : State) (w : Nat) (x : World) : (s.setWorld w x).ecnt = s.ecnt := rfl
@[simp] theorem State.setWorld_instant (s : State) (w : Nat) (x : World) : (s.setWorld w x).instant = s.instant := rfl
@[simp] theorem State.setWorld_instantAt (s : State) (w : Nat) (x : World) : (s.setWorld w x).instantAt = s.instantAt := rfl
@[simp] theorem State.setWorld_instantLogged (s : State) (w : Nat) (x : World) : (s.setWorld w x).instantLogged = s.instantLogged := rfl
@[simp] theorem State.setWorld_windows (s : State) (w : Nat) (x : World) : (s.setWorld w x).windows = s.windows := rfl
@[simp] theorem State.setWorld_lasting (s : State) (w : Nat) (x : World) : (s.setWorld w x).lasting = s.lasting := rfl
@[simp] theorem State.setWorld_spares (s : State) (w : Nat) (x : World) : (s.setWorld w x).spares = s.spares := rfl
@[simp] theorem State.setWorld_fenced (s : State) (w : Nat) (x : World) : (s.setWorld w x).fenced = s.fenced := rfl
@[simp] theorem State.setWorld_xinvWorld (s : State) (w : Nat) (x : World) : (s.setWorld w x).xinvWorld = s.xinvWorld := rfl
@[simp] theorem State.setWorld_hssLeaves (s : State) (w : Nat) (x : World) : (s.setWorld w x).hssLeaves = s.hssLeaves := rfl
@[simp] theorem State.setWorld_drbg (s : State) (w : Nat) (x : World) : (s.setWorld w x).drbg = s.drbg := rfl
@[simp] theorem State.setWorld_drbgSeed (s : State) (w : Nat) (x : World) : (s.setWorld w x).drbgSeed = s.drbgSeed := rfl
@[simp] theorem State.setWorld_ageing (s : State) (w : Nat) (x : World) : (s.setWorld w x).ageing = s.ageing := rfl
@[simp] theorem State.setWorld_clocks (s : State) (w : Nat) (x : World) : (s.setWorld w x).clocks = s.clocks := rfl
@[simp] theorem State.setWorld_bootGen (s : State) (w : Nat) (x : World) : (s.setWorld w x).bootGen = s.bootGen := rfl
@[simp] theorem State.setWorld_march (s : State) (w : Nat) (x : World) : (s.setWorld w x).march = s.march := rfl
@[simp] theorem State.setWorld_host (s : State) (w : Nat) (x : World) : (s.setWorld w x).host = s.host := rfl
@[simp] theorem State.setWorld_interrupts (s : State) (w : Nat) (x : World) : (s.setWorld w x).interrupts = s.interrupts := rfl
@[simp] theorem State.setWorld_dram (s : State) (w : Nat) (x : World) : (s.setWorld w x).dram = s.dram := rfl
@[simp] theorem State.setWorld_badLines (s : State) (w : Nat) (x : World) : (s.setWorld w x).badLines = s.badLines := rfl
@[simp] theorem State.setWorld_poisonLines (s : State) (w : Nat) (x : World) : (s.setWorld w x).poisonLines = s.poisonLines := rfl
@[simp] theorem State.setWorld_majors (s : State) (w : Nat) (x : World) : (s.setWorld w x).majors = s.majors := rfl
@[simp] theorem State.setWorld_minors (s : State) (w : Nat) (x : World) : (s.setWorld w x).minors = s.minors := rfl
@[simp] theorem State.setWorld_sysmem (s : State) (w : Nat) (x : World) : (s.setWorld w x).sysmem = s.sysmem := rfl
@[simp] theorem State.setWorld_sysPoison (s : State) (w : Nat) (x : World) : (s.setWorld w x).sysPoison = s.sysPoison := rfl
@[simp] theorem State.setWorld_pcs (s : State) (w : Nat) (x : World) : (s.setWorld w x).pcs = s.pcs := rfl
@[simp] theorem State.setWorld_cores (s : State) (w : Nat) (x : World) : (s.setWorld w x).cores = s.cores := rfl
@[simp] theorem State.setWorld_wgs (s : State) (w : Nat) (x : World) : (s.setWorld w x).wgs = s.wgs := rfl
@[simp] theorem State.setWorld_launches (s : State) (w : Nat) (x : World) : (s.setWorld w x).launches = s.launches := rfl
@[simp] theorem State.setWorld_worlds (s : State) (w : Nat) (x : World) : (s.setWorld w x).worlds = SMap.set s.worlds w x := rfl
@[simp] theorem State.setWorld_ports (s : State) (w : Nat) (x : World) : (s.setWorld w x).ports = s.ports := rfl
@[simp] theorem State.setWorld_routes (s : State) (w : Nat) (x : World) : (s.setWorld w x).routes = s.routes := rfl
@[simp] theorem State.setWorld_device (s : State) (w : Nat) (x : World) : (s.setWorld w x).device = s.device := rfl
@[simp] theorem State.setWorld_fab (s : State) (w : Nat) (x : World) : (s.setWorld w x).fab = s.fab := rfl
@[simp] theorem State.setWorld_dedupe (s : State) (w : Nat) (x : World) : (s.setWorld w x).dedupe = s.dedupe := rfl
@[simp] theorem State.setWorld_amoIdent (s : State) (w : Nat) (x : World) : (s.setWorld w x).amoIdent = s.amoIdent := rfl
@[simp] theorem State.setWorld_sentReplies (s : State) (w : Nat) (x : World) : (s.setWorld w x).sentReplies = s.sentReplies := rfl
@[simp] theorem State.setWorld_seals (s : State) (w : Nat) (x : World) : (s.setWorld w x).seals = s.seals := rfl
@[simp] theorem State.setWorld_images (s : State) (w : Nat) (x : World) : (s.setWorld w x).images = s.images := rfl
@[simp] theorem State.setWorld_cks (s : State) (w : Nat) (x : World) : (s.setWorld w x).cks = s.cks := rfl
@[simp] theorem State.setWorld_linkKeys (s : State) (w : Nat) (x : World) : (s.setWorld w x).linkKeys = s.linkKeys := rfl
@[simp] theorem State.setWorld_resync (s : State) (w : Nat) (x : World) : (s.setWorld w x).resync = s.resync := rfl
@[simp] theorem State.setWorld_filling (s : State) (w : Nat) (x : World) : (s.setWorld w x).filling = s.filling := rfl
@[simp] theorem State.setWorld_answers (s : State) (w : Nat) (x : World) : (s.setWorld w x).answers = s.answers := rfl
@[simp] theorem State.setWorld_transfers (s : State) (w : Nat) (x : World) : (s.setWorld w x).transfers = s.transfers := rfl
@[simp] theorem State.setWorld_badNodes (s : State) (w : Nat) (x : World) : (s.setWorld w x).badNodes = s.badNodes := rfl
@[simp] theorem State.setWorld_failedNodes (s : State) (w : Nat) (x : World) : (s.setWorld w x).failedNodes = s.failedNodes := rfl
@[simp] theorem State.setWorld_badTags (s : State) (w : Nat) (x : World) : (s.setWorld w x).badTags = s.badTags := rfl
@[simp] theorem State.setWorld_sysBad (s : State) (w : Nat) (x : World) : (s.setWorld w x).sysBad = s.sysBad := rfl
@[simp] theorem State.setWorld_dramErrs (s : State) (w : Nat) (x : World) : (s.setWorld w x).dramErrs = s.dramErrs := rfl
@[simp] theorem State.setWorld_sysOff (s : State) (w : Nat) (x : World) : (s.setWorld w x).sysOff = s.sysOff := rfl
@[simp] theorem State.setWorld_topMajors (s : State) (w : Nat) (x : World) : (s.setWorld w x).topMajors = s.topMajors := rfl
@[simp] theorem State.setWorld_frames (s : State) (w : Nat) (x : World) : (s.setWorld w x).frames = s.frames := rfl
@[simp] theorem State.setWorld_governedAt (s : State) (w : Nat) (x : World) : (s.setWorld w x).governedAt = s.governedAt := rfl
@[simp] theorem State.setWorld_ksSlot (s : State) (w : Nat) (x : World) : (s.setWorld w x).ksSlot = s.ksSlot := rfl
@[simp] theorem State.setWorld_ktDraw (s : State) (w : Nat) (x : World) : (s.setWorld w x).ktDraw = s.ktDraw := rfl
@[simp] theorem State.setWorld_sigFail (s : State) (w : Nat) (x : World) : (s.setWorld w x).sigFail = s.sigFail := rfl
@[simp] theorem State.setWorld_maxClock (s : State) (w : Nat) (x : World) : (s.setWorld w x).maxClock = s.maxClock := rfl
@[simp] theorem State.setWorld_floors (s : State) (w : Nat) (x : World) : (s.setWorld w x).floors = s.floors := rfl
@[simp] theorem State.setWorld_grantedAt (s : State) (w : Nat) (x : World) : (s.setWorld w x).grantedAt = s.grantedAt := rfl
@[simp] theorem State.setWorld_watts (s : State) (w : Nat) (x : World) : (s.setWorld w x).watts = s.watts := rfl
@[simp] theorem State.setWorld_activity (s : State) (w : Nat) (x : World) : (s.setWorld w x).activity = s.activity := rfl
@[simp] theorem State.setWorld_plannedAt (s : State) (w : Nat) (x : World) : (s.setWorld w x).plannedAt = s.plannedAt := rfl
@[simp] theorem State.setWorld_pcPlannedAt (s : State) (w : Nat) (x : World) : (s.setWorld w x).pcPlannedAt = s.pcPlannedAt := rfl
@[simp] theorem State.setWorld_bridgeUp (s : State) (w : Nat) (x : World) : (s.setWorld w x).bridgeUp = s.bridgeUp := rfl
@[simp] theorem State.setWorld_bridge (s : State) (w : Nat) (x : World) : (s.setWorld w x).bridge = s.bridge := rfl
@[simp] theorem State.setWorld_amoBase (s : State) (w : Nat) (x : World) : (s.setWorld w x).amoBase = s.amoBase := rfl
@[simp] theorem State.setWorld_amoAcked (s : State) (w : Nat) (x : World) : (s.setWorld w x).amoAcked = s.amoAcked := rfl
@[simp] theorem State.setWorld_dieRows (s : State) (w : Nat) (x : World) : (s.setWorld w x).dieRows = s.dieRows := rfl

/-! ### State.setPc: only the pseudo-channels -/

@[simp] theorem State.setPc_tick (s : State) (k : Nat) (p : Pc) : (s.setPc k p).tick = s.tick := rfl
@[simp] theorem State.setPc_ns (s : State) (k : Nat) (p : Pc) : (s.setPc k p).ns = s.ns := rfl
@[simp] theorem State.setPc_turns (s : State) (k : Nat) (p : Pc) : (s.setPc k p).turns = s.turns := rfl
@[simp] theorem State.setPc_clockAcc (s : State) (k : Nat) (p : Pc) : (s.setPc k p).clockAcc = s.clockAcc := rfl
@[simp] theorem State.setPc_freeCount (s : State) (k : Nat) (p : Pc) : (s.setPc k p).freeCount = s.freeCount := rfl
@[simp] theorem State.setPc_nextId (s : State) (k : Nat) (p : Pc) : (s.setPc k p).nextId = s.nextId := rfl
@[simp] theorem State.setPc_cur (s : State) (k : Nat) (p : Pc) : (s.setPc k p).cur = s.cur := rfl
@[simp] theorem State.setPc_stopped (s : State) (k : Nat) (p : Pc) : (s.setPc k p).stopped = s.stopped := rfl
@[simp] theorem State.setPc_dstat (s : State) (k : Nat) (p : Pc) : (s.setPc k p).dstat = s.dstat := rfl
@[simp] theorem State.setPc_dstatErr (s : State) (k : Nat) (p : Pc) : (s.setPc k p).dstatErr = s.dstatErr := rfl
@[simp] theorem State.setPc_staged (s : State) (k : Nat) (p : Pc) : (s.setPc k p).staged = s.staged := rfl
@[simp] theorem State.setPc_mbCmd (s : State) (k : Nat) (p : Pc) : (s.setPc k p).mbCmd = s.mbCmd := rfl
@[simp] theorem State.setPc_mbStat (s : State) (k : Nat) (p : Pc) : (s.setPc k p).mbStat = s.mbStat := rfl
@[simp] theorem State.setPc_mbPayload (s : State) (k : Nat) (p : Pc) : (s.setPc k p).mbPayload = s.mbPayload := rfl
@[simp] theorem State.setPc_lanes (s : State) (k : Nat) (p : Pc) : (s.setPc k p).lanes = s.lanes := rfl
@[simp] theorem State.setPc_pfEvents (s : State) (k : Nat) (p : Pc) : (s.setPc k p).pfEvents = s.pfEvents := rfl
@[simp] theorem State.setPc_eventSeq (s : State) (k : Nat) (p : Pc) : (s.setPc k p).eventSeq = s.eventSeq := rfl
@[simp] theorem State.setPc_mcapEvents (s : State) (k : Nat) (p : Pc) : (s.setPc k p).mcapEvents = s.mcapEvents := rfl
@[simp] theorem State.setPc_goneSlices (s : State) (k : Nat) (p : Pc) : (s.setPc k p).goneSlices = s.goneSlices := rfl
@[simp] theorem State.setPc_notices (s : State) (k : Nat) (p : Pc) : (s.setPc k p).notices = s.notices := rfl
@[simp] theorem State.setPc_sysMap (s : State) (k : Nat) (p : Pc) : (s.setPc k p).sysMap = s.sysMap := rfl
@[simp] theorem State.setPc_repaired (s : State) (k : Nat) (p : Pc) : (s.setPc k p).repaired = s.repaired := rfl
@[simp] theorem State.setPc_elogBase (s : State) (k : Nat) (p : Pc) : (s.setPc k p).elogBase = s.elogBase := rfl
@[simp] theorem State.setPc_elogHead (s : State) (k : Nat) (p : Pc) : (s.setPc k p).elogHead = s.elogHead := rfl
@[simp] theorem State.setPc_elogTail (s : State) (k : Nat) (p : Pc) : (s.setPc k p).elogTail = s.elogTail := rfl
@[simp] theorem State.setPc_elogOvf (s : State) (k : Nat) (p : Pc) : (s.setPc k p).elogOvf = s.elogOvf := rfl
@[simp] theorem State.setPc_eseq (s : State) (k : Nat) (p : Pc) : (s.setPc k p).eseq = s.eseq := rfl
@[simp] theorem State.setPc_ecnt (s : State) (k : Nat) (p : Pc) : (s.setPc k p).ecnt = s.ecnt := rfl
@[simp] theorem State.setPc_instant (s : State) (k : Nat) (p : Pc) : (s.setPc k p).instant = s.instant := rfl
@[simp] theorem State.setPc_instantAt (s : State) (k : Nat) (p : Pc) : (s.setPc k p).instantAt = s.instantAt := rfl
@[simp] theorem State.setPc_instantLogged (s : State) (k : Nat) (p : Pc) : (s.setPc k p).instantLogged = s.instantLogged := rfl
@[simp] theorem State.setPc_windows (s : State) (k : Nat) (p : Pc) : (s.setPc k p).windows = s.windows := rfl
@[simp] theorem State.setPc_lasting (s : State) (k : Nat) (p : Pc) : (s.setPc k p).lasting = s.lasting := rfl
@[simp] theorem State.setPc_spares (s : State) (k : Nat) (p : Pc) : (s.setPc k p).spares = s.spares := rfl
@[simp] theorem State.setPc_fenced (s : State) (k : Nat) (p : Pc) : (s.setPc k p).fenced = s.fenced := rfl
@[simp] theorem State.setPc_xinvWorld (s : State) (k : Nat) (p : Pc) : (s.setPc k p).xinvWorld = s.xinvWorld := rfl
@[simp] theorem State.setPc_hssLeaves (s : State) (k : Nat) (p : Pc) : (s.setPc k p).hssLeaves = s.hssLeaves := rfl
@[simp] theorem State.setPc_drbg (s : State) (k : Nat) (p : Pc) : (s.setPc k p).drbg = s.drbg := rfl
@[simp] theorem State.setPc_drbgSeed (s : State) (k : Nat) (p : Pc) : (s.setPc k p).drbgSeed = s.drbgSeed := rfl
@[simp] theorem State.setPc_ageing (s : State) (k : Nat) (p : Pc) : (s.setPc k p).ageing = s.ageing := rfl
@[simp] theorem State.setPc_clocks (s : State) (k : Nat) (p : Pc) : (s.setPc k p).clocks = s.clocks := rfl
@[simp] theorem State.setPc_bootGen (s : State) (k : Nat) (p : Pc) : (s.setPc k p).bootGen = s.bootGen := rfl
@[simp] theorem State.setPc_march (s : State) (k : Nat) (p : Pc) : (s.setPc k p).march = s.march := rfl
@[simp] theorem State.setPc_host (s : State) (k : Nat) (p : Pc) : (s.setPc k p).host = s.host := rfl
@[simp] theorem State.setPc_interrupts (s : State) (k : Nat) (p : Pc) : (s.setPc k p).interrupts = s.interrupts := rfl
@[simp] theorem State.setPc_dram (s : State) (k : Nat) (p : Pc) : (s.setPc k p).dram = s.dram := rfl
@[simp] theorem State.setPc_badLines (s : State) (k : Nat) (p : Pc) : (s.setPc k p).badLines = s.badLines := rfl
@[simp] theorem State.setPc_poisonLines (s : State) (k : Nat) (p : Pc) : (s.setPc k p).poisonLines = s.poisonLines := rfl
@[simp] theorem State.setPc_majors (s : State) (k : Nat) (p : Pc) : (s.setPc k p).majors = s.majors := rfl
@[simp] theorem State.setPc_minors (s : State) (k : Nat) (p : Pc) : (s.setPc k p).minors = s.minors := rfl
@[simp] theorem State.setPc_sysmem (s : State) (k : Nat) (p : Pc) : (s.setPc k p).sysmem = s.sysmem := rfl
@[simp] theorem State.setPc_sysPoison (s : State) (k : Nat) (p : Pc) : (s.setPc k p).sysPoison = s.sysPoison := rfl
@[simp] theorem State.setPc_pcs (s : State) (k : Nat) (p : Pc) : (s.setPc k p).pcs = SMap.set s.pcs k p := rfl
@[simp] theorem State.setPc_cores (s : State) (k : Nat) (p : Pc) : (s.setPc k p).cores = s.cores := rfl
@[simp] theorem State.setPc_wgs (s : State) (k : Nat) (p : Pc) : (s.setPc k p).wgs = s.wgs := rfl
@[simp] theorem State.setPc_launches (s : State) (k : Nat) (p : Pc) : (s.setPc k p).launches = s.launches := rfl
@[simp] theorem State.setPc_worlds (s : State) (k : Nat) (p : Pc) : (s.setPc k p).worlds = s.worlds := rfl
@[simp] theorem State.setPc_ports (s : State) (k : Nat) (p : Pc) : (s.setPc k p).ports = s.ports := rfl
@[simp] theorem State.setPc_routes (s : State) (k : Nat) (p : Pc) : (s.setPc k p).routes = s.routes := rfl
@[simp] theorem State.setPc_device (s : State) (k : Nat) (p : Pc) : (s.setPc k p).device = s.device := rfl
@[simp] theorem State.setPc_fab (s : State) (k : Nat) (p : Pc) : (s.setPc k p).fab = s.fab := rfl
@[simp] theorem State.setPc_dedupe (s : State) (k : Nat) (p : Pc) : (s.setPc k p).dedupe = s.dedupe := rfl
@[simp] theorem State.setPc_amoIdent (s : State) (k : Nat) (p : Pc) : (s.setPc k p).amoIdent = s.amoIdent := rfl
@[simp] theorem State.setPc_sentReplies (s : State) (k : Nat) (p : Pc) : (s.setPc k p).sentReplies = s.sentReplies := rfl
@[simp] theorem State.setPc_seals (s : State) (k : Nat) (p : Pc) : (s.setPc k p).seals = s.seals := rfl
@[simp] theorem State.setPc_images (s : State) (k : Nat) (p : Pc) : (s.setPc k p).images = s.images := rfl
@[simp] theorem State.setPc_cks (s : State) (k : Nat) (p : Pc) : (s.setPc k p).cks = s.cks := rfl
@[simp] theorem State.setPc_linkKeys (s : State) (k : Nat) (p : Pc) : (s.setPc k p).linkKeys = s.linkKeys := rfl
@[simp] theorem State.setPc_resync (s : State) (k : Nat) (p : Pc) : (s.setPc k p).resync = s.resync := rfl
@[simp] theorem State.setPc_filling (s : State) (k : Nat) (p : Pc) : (s.setPc k p).filling = s.filling := rfl
@[simp] theorem State.setPc_answers (s : State) (k : Nat) (p : Pc) : (s.setPc k p).answers = s.answers := rfl
@[simp] theorem State.setPc_transfers (s : State) (k : Nat) (p : Pc) : (s.setPc k p).transfers = s.transfers := rfl
@[simp] theorem State.setPc_badNodes (s : State) (k : Nat) (p : Pc) : (s.setPc k p).badNodes = s.badNodes := rfl
@[simp] theorem State.setPc_failedNodes (s : State) (k : Nat) (p : Pc) : (s.setPc k p).failedNodes = s.failedNodes := rfl
@[simp] theorem State.setPc_badTags (s : State) (k : Nat) (p : Pc) : (s.setPc k p).badTags = s.badTags := rfl
@[simp] theorem State.setPc_sysBad (s : State) (k : Nat) (p : Pc) : (s.setPc k p).sysBad = s.sysBad := rfl
@[simp] theorem State.setPc_dramErrs (s : State) (k : Nat) (p : Pc) : (s.setPc k p).dramErrs = s.dramErrs := rfl
@[simp] theorem State.setPc_sysOff (s : State) (k : Nat) (p : Pc) : (s.setPc k p).sysOff = s.sysOff := rfl
@[simp] theorem State.setPc_topMajors (s : State) (k : Nat) (p : Pc) : (s.setPc k p).topMajors = s.topMajors := rfl
@[simp] theorem State.setPc_frames (s : State) (k : Nat) (p : Pc) : (s.setPc k p).frames = s.frames := rfl
@[simp] theorem State.setPc_governedAt (s : State) (k : Nat) (p : Pc) : (s.setPc k p).governedAt = s.governedAt := rfl
@[simp] theorem State.setPc_ksSlot (s : State) (k : Nat) (p : Pc) : (s.setPc k p).ksSlot = s.ksSlot := rfl
@[simp] theorem State.setPc_ktDraw (s : State) (k : Nat) (p : Pc) : (s.setPc k p).ktDraw = s.ktDraw := rfl
@[simp] theorem State.setPc_sigFail (s : State) (k : Nat) (p : Pc) : (s.setPc k p).sigFail = s.sigFail := rfl
@[simp] theorem State.setPc_maxClock (s : State) (k : Nat) (p : Pc) : (s.setPc k p).maxClock = s.maxClock := rfl
@[simp] theorem State.setPc_floors (s : State) (k : Nat) (p : Pc) : (s.setPc k p).floors = s.floors := rfl
@[simp] theorem State.setPc_grantedAt (s : State) (k : Nat) (p : Pc) : (s.setPc k p).grantedAt = s.grantedAt := rfl
@[simp] theorem State.setPc_watts (s : State) (k : Nat) (p : Pc) : (s.setPc k p).watts = s.watts := rfl
@[simp] theorem State.setPc_activity (s : State) (k : Nat) (p : Pc) : (s.setPc k p).activity = s.activity := rfl
@[simp] theorem State.setPc_plannedAt (s : State) (k : Nat) (p : Pc) : (s.setPc k p).plannedAt = s.plannedAt := rfl
@[simp] theorem State.setPc_pcPlannedAt (s : State) (k : Nat) (p : Pc) : (s.setPc k p).pcPlannedAt = s.pcPlannedAt := rfl
@[simp] theorem State.setPc_bridgeUp (s : State) (k : Nat) (p : Pc) : (s.setPc k p).bridgeUp = s.bridgeUp := rfl
@[simp] theorem State.setPc_bridge (s : State) (k : Nat) (p : Pc) : (s.setPc k p).bridge = s.bridge := rfl
@[simp] theorem State.setPc_amoBase (s : State) (k : Nat) (p : Pc) : (s.setPc k p).amoBase = s.amoBase := rfl
@[simp] theorem State.setPc_amoAcked (s : State) (k : Nat) (p : Pc) : (s.setPc k p).amoAcked = s.amoAcked := rfl
@[simp] theorem State.setPc_dieRows (s : State) (k : Nat) (p : Pc) : (s.setPc k p).dieRows = s.dieRows := rfl

/-! ### State.verdict: only the verdict of the syllable -/

@[simp] theorem State.verdict_tick (s : State) (v : Verdict) : (s.verdict v).tick = s.tick := rfl
@[simp] theorem State.verdict_ns (s : State) (v : Verdict) : (s.verdict v).ns = s.ns := rfl
@[simp] theorem State.verdict_turns (s : State) (v : Verdict) : (s.verdict v).turns = s.turns := rfl
@[simp] theorem State.verdict_clockAcc (s : State) (v : Verdict) : (s.verdict v).clockAcc = s.clockAcc := rfl
@[simp] theorem State.verdict_freeCount (s : State) (v : Verdict) : (s.verdict v).freeCount = s.freeCount := rfl
@[simp] theorem State.verdict_nextId (s : State) (v : Verdict) : (s.verdict v).nextId = s.nextId := rfl
@[simp] theorem State.verdict_stopped (s : State) (v : Verdict) : (s.verdict v).stopped = s.stopped := rfl
@[simp] theorem State.verdict_dstat (s : State) (v : Verdict) : (s.verdict v).dstat = s.dstat := rfl
@[simp] theorem State.verdict_dstatErr (s : State) (v : Verdict) : (s.verdict v).dstatErr = s.dstatErr := rfl
@[simp] theorem State.verdict_staged (s : State) (v : Verdict) : (s.verdict v).staged = s.staged := rfl
@[simp] theorem State.verdict_mbCmd (s : State) (v : Verdict) : (s.verdict v).mbCmd = s.mbCmd := rfl
@[simp] theorem State.verdict_mbStat (s : State) (v : Verdict) : (s.verdict v).mbStat = s.mbStat := rfl
@[simp] theorem State.verdict_mbPayload (s : State) (v : Verdict) : (s.verdict v).mbPayload = s.mbPayload := rfl
@[simp] theorem State.verdict_lanes (s : State) (v : Verdict) : (s.verdict v).lanes = s.lanes := rfl
@[simp] theorem State.verdict_pfEvents (s : State) (v : Verdict) : (s.verdict v).pfEvents = s.pfEvents := rfl
@[simp] theorem State.verdict_eventSeq (s : State) (v : Verdict) : (s.verdict v).eventSeq = s.eventSeq := rfl
@[simp] theorem State.verdict_mcapEvents (s : State) (v : Verdict) : (s.verdict v).mcapEvents = s.mcapEvents := rfl
@[simp] theorem State.verdict_goneSlices (s : State) (v : Verdict) : (s.verdict v).goneSlices = s.goneSlices := rfl
@[simp] theorem State.verdict_notices (s : State) (v : Verdict) : (s.verdict v).notices = s.notices := rfl
@[simp] theorem State.verdict_sysMap (s : State) (v : Verdict) : (s.verdict v).sysMap = s.sysMap := rfl
@[simp] theorem State.verdict_repaired (s : State) (v : Verdict) : (s.verdict v).repaired = s.repaired := rfl
@[simp] theorem State.verdict_elogBase (s : State) (v : Verdict) : (s.verdict v).elogBase = s.elogBase := rfl
@[simp] theorem State.verdict_elogHead (s : State) (v : Verdict) : (s.verdict v).elogHead = s.elogHead := rfl
@[simp] theorem State.verdict_elogTail (s : State) (v : Verdict) : (s.verdict v).elogTail = s.elogTail := rfl
@[simp] theorem State.verdict_elogOvf (s : State) (v : Verdict) : (s.verdict v).elogOvf = s.elogOvf := rfl
@[simp] theorem State.verdict_eseq (s : State) (v : Verdict) : (s.verdict v).eseq = s.eseq := rfl
@[simp] theorem State.verdict_ecnt (s : State) (v : Verdict) : (s.verdict v).ecnt = s.ecnt := rfl
@[simp] theorem State.verdict_instant (s : State) (v : Verdict) : (s.verdict v).instant = s.instant := rfl
@[simp] theorem State.verdict_instantAt (s : State) (v : Verdict) : (s.verdict v).instantAt = s.instantAt := rfl
@[simp] theorem State.verdict_instantLogged (s : State) (v : Verdict) : (s.verdict v).instantLogged = s.instantLogged := rfl
@[simp] theorem State.verdict_windows (s : State) (v : Verdict) : (s.verdict v).windows = s.windows := rfl
@[simp] theorem State.verdict_lasting (s : State) (v : Verdict) : (s.verdict v).lasting = s.lasting := rfl
@[simp] theorem State.verdict_spares (s : State) (v : Verdict) : (s.verdict v).spares = s.spares := rfl
@[simp] theorem State.verdict_fenced (s : State) (v : Verdict) : (s.verdict v).fenced = s.fenced := rfl
@[simp] theorem State.verdict_xinvWorld (s : State) (v : Verdict) : (s.verdict v).xinvWorld = s.xinvWorld := rfl
@[simp] theorem State.verdict_hssLeaves (s : State) (v : Verdict) : (s.verdict v).hssLeaves = s.hssLeaves := rfl
@[simp] theorem State.verdict_drbg (s : State) (v : Verdict) : (s.verdict v).drbg = s.drbg := rfl
@[simp] theorem State.verdict_drbgSeed (s : State) (v : Verdict) : (s.verdict v).drbgSeed = s.drbgSeed := rfl
@[simp] theorem State.verdict_ageing (s : State) (v : Verdict) : (s.verdict v).ageing = s.ageing := rfl
@[simp] theorem State.verdict_clocks (s : State) (v : Verdict) : (s.verdict v).clocks = s.clocks := rfl
@[simp] theorem State.verdict_bootGen (s : State) (v : Verdict) : (s.verdict v).bootGen = s.bootGen := rfl
@[simp] theorem State.verdict_march (s : State) (v : Verdict) : (s.verdict v).march = s.march := rfl
@[simp] theorem State.verdict_host (s : State) (v : Verdict) : (s.verdict v).host = s.host := rfl
@[simp] theorem State.verdict_interrupts (s : State) (v : Verdict) : (s.verdict v).interrupts = s.interrupts := rfl
@[simp] theorem State.verdict_dram (s : State) (v : Verdict) : (s.verdict v).dram = s.dram := rfl
@[simp] theorem State.verdict_badLines (s : State) (v : Verdict) : (s.verdict v).badLines = s.badLines := rfl
@[simp] theorem State.verdict_poisonLines (s : State) (v : Verdict) : (s.verdict v).poisonLines = s.poisonLines := rfl
@[simp] theorem State.verdict_majors (s : State) (v : Verdict) : (s.verdict v).majors = s.majors := rfl
@[simp] theorem State.verdict_minors (s : State) (v : Verdict) : (s.verdict v).minors = s.minors := rfl
@[simp] theorem State.verdict_sysmem (s : State) (v : Verdict) : (s.verdict v).sysmem = s.sysmem := rfl
@[simp] theorem State.verdict_sysPoison (s : State) (v : Verdict) : (s.verdict v).sysPoison = s.sysPoison := rfl
@[simp] theorem State.verdict_pcs (s : State) (v : Verdict) : (s.verdict v).pcs = s.pcs := rfl
@[simp] theorem State.verdict_cores (s : State) (v : Verdict) : (s.verdict v).cores = s.cores := rfl
@[simp] theorem State.verdict_wgs (s : State) (v : Verdict) : (s.verdict v).wgs = s.wgs := rfl
@[simp] theorem State.verdict_launches (s : State) (v : Verdict) : (s.verdict v).launches = s.launches := rfl
@[simp] theorem State.verdict_worlds (s : State) (v : Verdict) : (s.verdict v).worlds = s.worlds := rfl
@[simp] theorem State.verdict_ports (s : State) (v : Verdict) : (s.verdict v).ports = s.ports := rfl
@[simp] theorem State.verdict_routes (s : State) (v : Verdict) : (s.verdict v).routes = s.routes := rfl
@[simp] theorem State.verdict_device (s : State) (v : Verdict) : (s.verdict v).device = s.device := rfl
@[simp] theorem State.verdict_fab (s : State) (v : Verdict) : (s.verdict v).fab = s.fab := rfl
@[simp] theorem State.verdict_dedupe (s : State) (v : Verdict) : (s.verdict v).dedupe = s.dedupe := rfl
@[simp] theorem State.verdict_amoIdent (s : State) (v : Verdict) : (s.verdict v).amoIdent = s.amoIdent := rfl
@[simp] theorem State.verdict_sentReplies (s : State) (v : Verdict) : (s.verdict v).sentReplies = s.sentReplies := rfl
@[simp] theorem State.verdict_seals (s : State) (v : Verdict) : (s.verdict v).seals = s.seals := rfl
@[simp] theorem State.verdict_images (s : State) (v : Verdict) : (s.verdict v).images = s.images := rfl
@[simp] theorem State.verdict_cks (s : State) (v : Verdict) : (s.verdict v).cks = s.cks := rfl
@[simp] theorem State.verdict_linkKeys (s : State) (v : Verdict) : (s.verdict v).linkKeys = s.linkKeys := rfl
@[simp] theorem State.verdict_resync (s : State) (v : Verdict) : (s.verdict v).resync = s.resync := rfl
@[simp] theorem State.verdict_filling (s : State) (v : Verdict) : (s.verdict v).filling = s.filling := rfl
@[simp] theorem State.verdict_answers (s : State) (v : Verdict) : (s.verdict v).answers = s.answers := rfl
@[simp] theorem State.verdict_transfers (s : State) (v : Verdict) : (s.verdict v).transfers = s.transfers := rfl
@[simp] theorem State.verdict_badNodes (s : State) (v : Verdict) : (s.verdict v).badNodes = s.badNodes := rfl
@[simp] theorem State.verdict_failedNodes (s : State) (v : Verdict) : (s.verdict v).failedNodes = s.failedNodes := rfl
@[simp] theorem State.verdict_badTags (s : State) (v : Verdict) : (s.verdict v).badTags = s.badTags := rfl
@[simp] theorem State.verdict_sysBad (s : State) (v : Verdict) : (s.verdict v).sysBad = s.sysBad := rfl
@[simp] theorem State.verdict_dramErrs (s : State) (v : Verdict) : (s.verdict v).dramErrs = s.dramErrs := rfl
@[simp] theorem State.verdict_sysOff (s : State) (v : Verdict) : (s.verdict v).sysOff = s.sysOff := rfl
@[simp] theorem State.verdict_topMajors (s : State) (v : Verdict) : (s.verdict v).topMajors = s.topMajors := rfl
@[simp] theorem State.verdict_frames (s : State) (v : Verdict) : (s.verdict v).frames = s.frames := rfl
@[simp] theorem State.verdict_governedAt (s : State) (v : Verdict) : (s.verdict v).governedAt = s.governedAt := rfl
@[simp] theorem State.verdict_ksSlot (s : State) (v : Verdict) : (s.verdict v).ksSlot = s.ksSlot := rfl
@[simp] theorem State.verdict_ktDraw (s : State) (v : Verdict) : (s.verdict v).ktDraw = s.ktDraw := rfl
@[simp] theorem State.verdict_sigFail (s : State) (v : Verdict) : (s.verdict v).sigFail = s.sigFail := rfl
@[simp] theorem State.verdict_maxClock (s : State) (v : Verdict) : (s.verdict v).maxClock = s.maxClock := rfl
@[simp] theorem State.verdict_floors (s : State) (v : Verdict) : (s.verdict v).floors = s.floors := rfl
@[simp] theorem State.verdict_grantedAt (s : State) (v : Verdict) : (s.verdict v).grantedAt = s.grantedAt := rfl
@[simp] theorem State.verdict_watts (s : State) (v : Verdict) : (s.verdict v).watts = s.watts := rfl
@[simp] theorem State.verdict_activity (s : State) (v : Verdict) : (s.verdict v).activity = s.activity := rfl
@[simp] theorem State.verdict_plannedAt (s : State) (v : Verdict) : (s.verdict v).plannedAt = s.plannedAt := rfl
@[simp] theorem State.verdict_pcPlannedAt (s : State) (v : Verdict) : (s.verdict v).pcPlannedAt = s.pcPlannedAt := rfl
@[simp] theorem State.verdict_bridgeUp (s : State) (v : Verdict) : (s.verdict v).bridgeUp = s.bridgeUp := rfl
@[simp] theorem State.verdict_bridge (s : State) (v : Verdict) : (s.verdict v).bridge = s.bridge := rfl
@[simp] theorem State.verdict_amoBase (s : State) (v : Verdict) : (s.verdict v).amoBase = s.amoBase := rfl
@[simp] theorem State.verdict_amoAcked (s : State) (v : Verdict) : (s.verdict v).amoAcked = s.amoAcked := rfl
@[simp] theorem State.verdict_dieRows (s : State) (v : Verdict) : (s.verdict v).dieRows = s.dieRows := rfl
@[simp] theorem State.verdict_cur (s : State) (v : Verdict) : (s.verdict v).cur = { s.cur with verdict := v } := rfl

/-! ### State.bumpId: only the number of the next operation -/

@[simp] theorem State.bumpId_tick (s : State) : (s.bumpId).tick = s.tick := rfl
@[simp] theorem State.bumpId_ns (s : State) : (s.bumpId).ns = s.ns := rfl
@[simp] theorem State.bumpId_turns (s : State) : (s.bumpId).turns = s.turns := rfl
@[simp] theorem State.bumpId_clockAcc (s : State) : (s.bumpId).clockAcc = s.clockAcc := rfl
@[simp] theorem State.bumpId_freeCount (s : State) : (s.bumpId).freeCount = s.freeCount := rfl
@[simp] theorem State.bumpId_nextId (s : State) : (s.bumpId).nextId = s.nextId + 1 := rfl
@[simp] theorem State.bumpId_cur (s : State) : (s.bumpId).cur = s.cur := rfl
@[simp] theorem State.bumpId_stopped (s : State) : (s.bumpId).stopped = s.stopped := rfl
@[simp] theorem State.bumpId_dstat (s : State) : (s.bumpId).dstat = s.dstat := rfl
@[simp] theorem State.bumpId_dstatErr (s : State) : (s.bumpId).dstatErr = s.dstatErr := rfl
@[simp] theorem State.bumpId_staged (s : State) : (s.bumpId).staged = s.staged := rfl
@[simp] theorem State.bumpId_mbCmd (s : State) : (s.bumpId).mbCmd = s.mbCmd := rfl
@[simp] theorem State.bumpId_mbStat (s : State) : (s.bumpId).mbStat = s.mbStat := rfl
@[simp] theorem State.bumpId_mbPayload (s : State) : (s.bumpId).mbPayload = s.mbPayload := rfl
@[simp] theorem State.bumpId_lanes (s : State) : (s.bumpId).lanes = s.lanes := rfl
@[simp] theorem State.bumpId_pfEvents (s : State) : (s.bumpId).pfEvents = s.pfEvents := rfl
@[simp] theorem State.bumpId_eventSeq (s : State) : (s.bumpId).eventSeq = s.eventSeq := rfl
@[simp] theorem State.bumpId_mcapEvents (s : State) : (s.bumpId).mcapEvents = s.mcapEvents := rfl
@[simp] theorem State.bumpId_goneSlices (s : State) : (s.bumpId).goneSlices = s.goneSlices := rfl
@[simp] theorem State.bumpId_notices (s : State) : (s.bumpId).notices = s.notices := rfl
@[simp] theorem State.bumpId_sysMap (s : State) : (s.bumpId).sysMap = s.sysMap := rfl
@[simp] theorem State.bumpId_repaired (s : State) : (s.bumpId).repaired = s.repaired := rfl
@[simp] theorem State.bumpId_elogBase (s : State) : (s.bumpId).elogBase = s.elogBase := rfl
@[simp] theorem State.bumpId_elogHead (s : State) : (s.bumpId).elogHead = s.elogHead := rfl
@[simp] theorem State.bumpId_elogTail (s : State) : (s.bumpId).elogTail = s.elogTail := rfl
@[simp] theorem State.bumpId_elogOvf (s : State) : (s.bumpId).elogOvf = s.elogOvf := rfl
@[simp] theorem State.bumpId_eseq (s : State) : (s.bumpId).eseq = s.eseq := rfl
@[simp] theorem State.bumpId_ecnt (s : State) : (s.bumpId).ecnt = s.ecnt := rfl
@[simp] theorem State.bumpId_instant (s : State) : (s.bumpId).instant = s.instant := rfl
@[simp] theorem State.bumpId_instantAt (s : State) : (s.bumpId).instantAt = s.instantAt := rfl
@[simp] theorem State.bumpId_instantLogged (s : State) : (s.bumpId).instantLogged = s.instantLogged := rfl
@[simp] theorem State.bumpId_windows (s : State) : (s.bumpId).windows = s.windows := rfl
@[simp] theorem State.bumpId_lasting (s : State) : (s.bumpId).lasting = s.lasting := rfl
@[simp] theorem State.bumpId_spares (s : State) : (s.bumpId).spares = s.spares := rfl
@[simp] theorem State.bumpId_fenced (s : State) : (s.bumpId).fenced = s.fenced := rfl
@[simp] theorem State.bumpId_xinvWorld (s : State) : (s.bumpId).xinvWorld = s.xinvWorld := rfl
@[simp] theorem State.bumpId_hssLeaves (s : State) : (s.bumpId).hssLeaves = s.hssLeaves := rfl
@[simp] theorem State.bumpId_drbg (s : State) : (s.bumpId).drbg = s.drbg := rfl
@[simp] theorem State.bumpId_drbgSeed (s : State) : (s.bumpId).drbgSeed = s.drbgSeed := rfl
@[simp] theorem State.bumpId_ageing (s : State) : (s.bumpId).ageing = s.ageing := rfl
@[simp] theorem State.bumpId_clocks (s : State) : (s.bumpId).clocks = s.clocks := rfl
@[simp] theorem State.bumpId_bootGen (s : State) : (s.bumpId).bootGen = s.bootGen := rfl
@[simp] theorem State.bumpId_march (s : State) : (s.bumpId).march = s.march := rfl
@[simp] theorem State.bumpId_host (s : State) : (s.bumpId).host = s.host := rfl
@[simp] theorem State.bumpId_interrupts (s : State) : (s.bumpId).interrupts = s.interrupts := rfl
@[simp] theorem State.bumpId_dram (s : State) : (s.bumpId).dram = s.dram := rfl
@[simp] theorem State.bumpId_badLines (s : State) : (s.bumpId).badLines = s.badLines := rfl
@[simp] theorem State.bumpId_poisonLines (s : State) : (s.bumpId).poisonLines = s.poisonLines := rfl
@[simp] theorem State.bumpId_majors (s : State) : (s.bumpId).majors = s.majors := rfl
@[simp] theorem State.bumpId_minors (s : State) : (s.bumpId).minors = s.minors := rfl
@[simp] theorem State.bumpId_sysmem (s : State) : (s.bumpId).sysmem = s.sysmem := rfl
@[simp] theorem State.bumpId_sysPoison (s : State) : (s.bumpId).sysPoison = s.sysPoison := rfl
@[simp] theorem State.bumpId_pcs (s : State) : (s.bumpId).pcs = s.pcs := rfl
@[simp] theorem State.bumpId_cores (s : State) : (s.bumpId).cores = s.cores := rfl
@[simp] theorem State.bumpId_wgs (s : State) : (s.bumpId).wgs = s.wgs := rfl
@[simp] theorem State.bumpId_launches (s : State) : (s.bumpId).launches = s.launches := rfl
@[simp] theorem State.bumpId_worlds (s : State) : (s.bumpId).worlds = s.worlds := rfl
@[simp] theorem State.bumpId_ports (s : State) : (s.bumpId).ports = s.ports := rfl
@[simp] theorem State.bumpId_routes (s : State) : (s.bumpId).routes = s.routes := rfl
@[simp] theorem State.bumpId_device (s : State) : (s.bumpId).device = s.device := rfl
@[simp] theorem State.bumpId_fab (s : State) : (s.bumpId).fab = s.fab := rfl
@[simp] theorem State.bumpId_dedupe (s : State) : (s.bumpId).dedupe = s.dedupe := rfl
@[simp] theorem State.bumpId_amoIdent (s : State) : (s.bumpId).amoIdent = s.amoIdent := rfl
@[simp] theorem State.bumpId_sentReplies (s : State) : (s.bumpId).sentReplies = s.sentReplies := rfl
@[simp] theorem State.bumpId_seals (s : State) : (s.bumpId).seals = s.seals := rfl
@[simp] theorem State.bumpId_images (s : State) : (s.bumpId).images = s.images := rfl
@[simp] theorem State.bumpId_cks (s : State) : (s.bumpId).cks = s.cks := rfl
@[simp] theorem State.bumpId_linkKeys (s : State) : (s.bumpId).linkKeys = s.linkKeys := rfl
@[simp] theorem State.bumpId_resync (s : State) : (s.bumpId).resync = s.resync := rfl
@[simp] theorem State.bumpId_filling (s : State) : (s.bumpId).filling = s.filling := rfl
@[simp] theorem State.bumpId_answers (s : State) : (s.bumpId).answers = s.answers := rfl
@[simp] theorem State.bumpId_transfers (s : State) : (s.bumpId).transfers = s.transfers := rfl
@[simp] theorem State.bumpId_badNodes (s : State) : (s.bumpId).badNodes = s.badNodes := rfl
@[simp] theorem State.bumpId_failedNodes (s : State) : (s.bumpId).failedNodes = s.failedNodes := rfl
@[simp] theorem State.bumpId_badTags (s : State) : (s.bumpId).badTags = s.badTags := rfl
@[simp] theorem State.bumpId_sysBad (s : State) : (s.bumpId).sysBad = s.sysBad := rfl
@[simp] theorem State.bumpId_dramErrs (s : State) : (s.bumpId).dramErrs = s.dramErrs := rfl
@[simp] theorem State.bumpId_sysOff (s : State) : (s.bumpId).sysOff = s.sysOff := rfl
@[simp] theorem State.bumpId_topMajors (s : State) : (s.bumpId).topMajors = s.topMajors := rfl
@[simp] theorem State.bumpId_frames (s : State) : (s.bumpId).frames = s.frames := rfl
@[simp] theorem State.bumpId_governedAt (s : State) : (s.bumpId).governedAt = s.governedAt := rfl
@[simp] theorem State.bumpId_ksSlot (s : State) : (s.bumpId).ksSlot = s.ksSlot := rfl
@[simp] theorem State.bumpId_ktDraw (s : State) : (s.bumpId).ktDraw = s.ktDraw := rfl
@[simp] theorem State.bumpId_sigFail (s : State) : (s.bumpId).sigFail = s.sigFail := rfl
@[simp] theorem State.bumpId_maxClock (s : State) : (s.bumpId).maxClock = s.maxClock := rfl
@[simp] theorem State.bumpId_floors (s : State) : (s.bumpId).floors = s.floors := rfl
@[simp] theorem State.bumpId_grantedAt (s : State) : (s.bumpId).grantedAt = s.grantedAt := rfl
@[simp] theorem State.bumpId_watts (s : State) : (s.bumpId).watts = s.watts := rfl
@[simp] theorem State.bumpId_activity (s : State) : (s.bumpId).activity = s.activity := rfl
@[simp] theorem State.bumpId_plannedAt (s : State) : (s.bumpId).plannedAt = s.plannedAt := rfl
@[simp] theorem State.bumpId_pcPlannedAt (s : State) : (s.bumpId).pcPlannedAt = s.pcPlannedAt := rfl
@[simp] theorem State.bumpId_bridgeUp (s : State) : (s.bumpId).bridgeUp = s.bridgeUp := rfl
@[simp] theorem State.bumpId_bridge (s : State) : (s.bumpId).bridge = s.bridge := rfl
@[simp] theorem State.bumpId_amoBase (s : State) : (s.bumpId).amoBase = s.amoBase := rfl
@[simp] theorem State.bumpId_amoAcked (s : State) : (s.bumpId).amoAcked = s.amoAcked := rfl
@[simp] theorem State.bumpId_dieRows (s : State) : (s.bumpId).dieRows = s.dieRows := rfl

/-! ### State.putStrand: only the strand whose bundle is issued -/

@[simp] theorem State.putStrand_tick (s : State) (x : Strand) : (s.putStrand x).tick = s.tick := rfl
@[simp] theorem State.putStrand_ns (s : State) (x : Strand) : (s.putStrand x).ns = s.ns := rfl
@[simp] theorem State.putStrand_turns (s : State) (x : Strand) : (s.putStrand x).turns = s.turns := rfl
@[simp] theorem State.putStrand_clockAcc (s : State) (x : Strand) : (s.putStrand x).clockAcc = s.clockAcc := rfl
@[simp] theorem State.putStrand_freeCount (s : State) (x : Strand) : (s.putStrand x).freeCount = s.freeCount := rfl
@[simp] theorem State.putStrand_nextId (s : State) (x : Strand) : (s.putStrand x).nextId = s.nextId := rfl
@[simp] theorem State.putStrand_cur (s : State) (x : Strand) : (s.putStrand x).cur = s.cur := rfl
@[simp] theorem State.putStrand_stopped (s : State) (x : Strand) : (s.putStrand x).stopped = s.stopped := rfl
@[simp] theorem State.putStrand_dstat (s : State) (x : Strand) : (s.putStrand x).dstat = s.dstat := rfl
@[simp] theorem State.putStrand_dstatErr (s : State) (x : Strand) : (s.putStrand x).dstatErr = s.dstatErr := rfl
@[simp] theorem State.putStrand_staged (s : State) (x : Strand) : (s.putStrand x).staged = s.staged := rfl
@[simp] theorem State.putStrand_mbCmd (s : State) (x : Strand) : (s.putStrand x).mbCmd = s.mbCmd := rfl
@[simp] theorem State.putStrand_mbStat (s : State) (x : Strand) : (s.putStrand x).mbStat = s.mbStat := rfl
@[simp] theorem State.putStrand_mbPayload (s : State) (x : Strand) : (s.putStrand x).mbPayload = s.mbPayload := rfl
@[simp] theorem State.putStrand_lanes (s : State) (x : Strand) : (s.putStrand x).lanes = s.lanes := rfl
@[simp] theorem State.putStrand_pfEvents (s : State) (x : Strand) : (s.putStrand x).pfEvents = s.pfEvents := rfl
@[simp] theorem State.putStrand_eventSeq (s : State) (x : Strand) : (s.putStrand x).eventSeq = s.eventSeq := rfl
@[simp] theorem State.putStrand_mcapEvents (s : State) (x : Strand) : (s.putStrand x).mcapEvents = s.mcapEvents := rfl
@[simp] theorem State.putStrand_goneSlices (s : State) (x : Strand) : (s.putStrand x).goneSlices = s.goneSlices := rfl
@[simp] theorem State.putStrand_notices (s : State) (x : Strand) : (s.putStrand x).notices = s.notices := rfl
@[simp] theorem State.putStrand_sysMap (s : State) (x : Strand) : (s.putStrand x).sysMap = s.sysMap := rfl
@[simp] theorem State.putStrand_repaired (s : State) (x : Strand) : (s.putStrand x).repaired = s.repaired := rfl
@[simp] theorem State.putStrand_elogBase (s : State) (x : Strand) : (s.putStrand x).elogBase = s.elogBase := rfl
@[simp] theorem State.putStrand_elogHead (s : State) (x : Strand) : (s.putStrand x).elogHead = s.elogHead := rfl
@[simp] theorem State.putStrand_elogTail (s : State) (x : Strand) : (s.putStrand x).elogTail = s.elogTail := rfl
@[simp] theorem State.putStrand_elogOvf (s : State) (x : Strand) : (s.putStrand x).elogOvf = s.elogOvf := rfl
@[simp] theorem State.putStrand_eseq (s : State) (x : Strand) : (s.putStrand x).eseq = s.eseq := rfl
@[simp] theorem State.putStrand_ecnt (s : State) (x : Strand) : (s.putStrand x).ecnt = s.ecnt := rfl
@[simp] theorem State.putStrand_instant (s : State) (x : Strand) : (s.putStrand x).instant = s.instant := rfl
@[simp] theorem State.putStrand_instantAt (s : State) (x : Strand) : (s.putStrand x).instantAt = s.instantAt := rfl
@[simp] theorem State.putStrand_instantLogged (s : State) (x : Strand) : (s.putStrand x).instantLogged = s.instantLogged := rfl
@[simp] theorem State.putStrand_windows (s : State) (x : Strand) : (s.putStrand x).windows = s.windows := rfl
@[simp] theorem State.putStrand_lasting (s : State) (x : Strand) : (s.putStrand x).lasting = s.lasting := rfl
@[simp] theorem State.putStrand_spares (s : State) (x : Strand) : (s.putStrand x).spares = s.spares := rfl
@[simp] theorem State.putStrand_fenced (s : State) (x : Strand) : (s.putStrand x).fenced = s.fenced := rfl
@[simp] theorem State.putStrand_xinvWorld (s : State) (x : Strand) : (s.putStrand x).xinvWorld = s.xinvWorld := rfl
@[simp] theorem State.putStrand_hssLeaves (s : State) (x : Strand) : (s.putStrand x).hssLeaves = s.hssLeaves := rfl
@[simp] theorem State.putStrand_drbg (s : State) (x : Strand) : (s.putStrand x).drbg = s.drbg := rfl
@[simp] theorem State.putStrand_drbgSeed (s : State) (x : Strand) : (s.putStrand x).drbgSeed = s.drbgSeed := rfl
@[simp] theorem State.putStrand_ageing (s : State) (x : Strand) : (s.putStrand x).ageing = s.ageing := rfl
@[simp] theorem State.putStrand_clocks (s : State) (x : Strand) : (s.putStrand x).clocks = s.clocks := rfl
@[simp] theorem State.putStrand_bootGen (s : State) (x : Strand) : (s.putStrand x).bootGen = s.bootGen := rfl
@[simp] theorem State.putStrand_march (s : State) (x : Strand) : (s.putStrand x).march = s.march := rfl
@[simp] theorem State.putStrand_host (s : State) (x : Strand) : (s.putStrand x).host = s.host := rfl
@[simp] theorem State.putStrand_interrupts (s : State) (x : Strand) : (s.putStrand x).interrupts = s.interrupts := rfl
@[simp] theorem State.putStrand_dram (s : State) (x : Strand) : (s.putStrand x).dram = s.dram := rfl
@[simp] theorem State.putStrand_badLines (s : State) (x : Strand) : (s.putStrand x).badLines = s.badLines := rfl
@[simp] theorem State.putStrand_poisonLines (s : State) (x : Strand) : (s.putStrand x).poisonLines = s.poisonLines := rfl
@[simp] theorem State.putStrand_majors (s : State) (x : Strand) : (s.putStrand x).majors = s.majors := rfl
@[simp] theorem State.putStrand_minors (s : State) (x : Strand) : (s.putStrand x).minors = s.minors := rfl
@[simp] theorem State.putStrand_sysmem (s : State) (x : Strand) : (s.putStrand x).sysmem = s.sysmem := rfl
@[simp] theorem State.putStrand_sysPoison (s : State) (x : Strand) : (s.putStrand x).sysPoison = s.sysPoison := rfl
@[simp] theorem State.putStrand_pcs (s : State) (x : Strand) : (s.putStrand x).pcs = s.pcs := rfl
@[simp] theorem State.putStrand_cores (s : State) (x : Strand) : (s.putStrand x).cores = SMap.set s.cores s.cur.core ((s.coreAt s.cur.core).setStrand s.cur.strand x) := rfl
@[simp] theorem State.putStrand_wgs (s : State) (x : Strand) : (s.putStrand x).wgs = s.wgs := rfl
@[simp] theorem State.putStrand_launches (s : State) (x : Strand) : (s.putStrand x).launches = s.launches := rfl
@[simp] theorem State.putStrand_worlds (s : State) (x : Strand) : (s.putStrand x).worlds = s.worlds := rfl
@[simp] theorem State.putStrand_ports (s : State) (x : Strand) : (s.putStrand x).ports = s.ports := rfl
@[simp] theorem State.putStrand_routes (s : State) (x : Strand) : (s.putStrand x).routes = s.routes := rfl
@[simp] theorem State.putStrand_device (s : State) (x : Strand) : (s.putStrand x).device = s.device := rfl
@[simp] theorem State.putStrand_fab (s : State) (x : Strand) : (s.putStrand x).fab = s.fab := rfl
@[simp] theorem State.putStrand_dedupe (s : State) (x : Strand) : (s.putStrand x).dedupe = s.dedupe := rfl
@[simp] theorem State.putStrand_amoIdent (s : State) (x : Strand) : (s.putStrand x).amoIdent = s.amoIdent := rfl
@[simp] theorem State.putStrand_sentReplies (s : State) (x : Strand) : (s.putStrand x).sentReplies = s.sentReplies := rfl
@[simp] theorem State.putStrand_seals (s : State) (x : Strand) : (s.putStrand x).seals = s.seals := rfl
@[simp] theorem State.putStrand_images (s : State) (x : Strand) : (s.putStrand x).images = s.images := rfl
@[simp] theorem State.putStrand_cks (s : State) (x : Strand) : (s.putStrand x).cks = s.cks := rfl
@[simp] theorem State.putStrand_linkKeys (s : State) (x : Strand) : (s.putStrand x).linkKeys = s.linkKeys := rfl
@[simp] theorem State.putStrand_resync (s : State) (x : Strand) : (s.putStrand x).resync = s.resync := rfl
@[simp] theorem State.putStrand_filling (s : State) (x : Strand) : (s.putStrand x).filling = s.filling := rfl
@[simp] theorem State.putStrand_answers (s : State) (x : Strand) : (s.putStrand x).answers = s.answers := rfl
@[simp] theorem State.putStrand_transfers (s : State) (x : Strand) : (s.putStrand x).transfers = s.transfers := rfl
@[simp] theorem State.putStrand_badNodes (s : State) (x : Strand) : (s.putStrand x).badNodes = s.badNodes := rfl
@[simp] theorem State.putStrand_failedNodes (s : State) (x : Strand) : (s.putStrand x).failedNodes = s.failedNodes := rfl
@[simp] theorem State.putStrand_badTags (s : State) (x : Strand) : (s.putStrand x).badTags = s.badTags := rfl
@[simp] theorem State.putStrand_sysBad (s : State) (x : Strand) : (s.putStrand x).sysBad = s.sysBad := rfl
@[simp] theorem State.putStrand_dramErrs (s : State) (x : Strand) : (s.putStrand x).dramErrs = s.dramErrs := rfl
@[simp] theorem State.putStrand_sysOff (s : State) (x : Strand) : (s.putStrand x).sysOff = s.sysOff := rfl
@[simp] theorem State.putStrand_topMajors (s : State) (x : Strand) : (s.putStrand x).topMajors = s.topMajors := rfl
@[simp] theorem State.putStrand_frames (s : State) (x : Strand) : (s.putStrand x).frames = s.frames := rfl
@[simp] theorem State.putStrand_governedAt (s : State) (x : Strand) : (s.putStrand x).governedAt = s.governedAt := rfl
@[simp] theorem State.putStrand_ksSlot (s : State) (x : Strand) : (s.putStrand x).ksSlot = s.ksSlot := rfl
@[simp] theorem State.putStrand_ktDraw (s : State) (x : Strand) : (s.putStrand x).ktDraw = s.ktDraw := rfl
@[simp] theorem State.putStrand_sigFail (s : State) (x : Strand) : (s.putStrand x).sigFail = s.sigFail := rfl
@[simp] theorem State.putStrand_maxClock (s : State) (x : Strand) : (s.putStrand x).maxClock = s.maxClock := rfl
@[simp] theorem State.putStrand_floors (s : State) (x : Strand) : (s.putStrand x).floors = s.floors := rfl
@[simp] theorem State.putStrand_grantedAt (s : State) (x : Strand) : (s.putStrand x).grantedAt = s.grantedAt := rfl
@[simp] theorem State.putStrand_watts (s : State) (x : Strand) : (s.putStrand x).watts = s.watts := rfl
@[simp] theorem State.putStrand_activity (s : State) (x : Strand) : (s.putStrand x).activity = s.activity := rfl
@[simp] theorem State.putStrand_plannedAt (s : State) (x : Strand) : (s.putStrand x).plannedAt = s.plannedAt := rfl
@[simp] theorem State.putStrand_pcPlannedAt (s : State) (x : Strand) : (s.putStrand x).pcPlannedAt = s.pcPlannedAt := rfl
@[simp] theorem State.putStrand_bridgeUp (s : State) (x : Strand) : (s.putStrand x).bridgeUp = s.bridgeUp := rfl
@[simp] theorem State.putStrand_bridge (s : State) (x : Strand) : (s.putStrand x).bridge = s.bridge := rfl
@[simp] theorem State.putStrand_amoBase (s : State) (x : Strand) : (s.putStrand x).amoBase = s.amoBase := rfl
@[simp] theorem State.putStrand_amoAcked (s : State) (x : Strand) : (s.putStrand x).amoAcked = s.amoAcked := rfl
@[simp] theorem State.putStrand_dieRows (s : State) (x : Strand) : (s.putStrand x).dieRows = s.dieRows := rfl

/-! ### State.putCore: only the core whose bundle is issued -/

@[simp] theorem State.putCore_tick (s : State) (k : Core) : (s.putCore k).tick = s.tick := rfl
@[simp] theorem State.putCore_ns (s : State) (k : Core) : (s.putCore k).ns = s.ns := rfl
@[simp] theorem State.putCore_turns (s : State) (k : Core) : (s.putCore k).turns = s.turns := rfl
@[simp] theorem State.putCore_clockAcc (s : State) (k : Core) : (s.putCore k).clockAcc = s.clockAcc := rfl
@[simp] theorem State.putCore_freeCount (s : State) (k : Core) : (s.putCore k).freeCount = s.freeCount := rfl
@[simp] theorem State.putCore_nextId (s : State) (k : Core) : (s.putCore k).nextId = s.nextId := rfl
@[simp] theorem State.putCore_cur (s : State) (k : Core) : (s.putCore k).cur = s.cur := rfl
@[simp] theorem State.putCore_stopped (s : State) (k : Core) : (s.putCore k).stopped = s.stopped := rfl
@[simp] theorem State.putCore_dstat (s : State) (k : Core) : (s.putCore k).dstat = s.dstat := rfl
@[simp] theorem State.putCore_dstatErr (s : State) (k : Core) : (s.putCore k).dstatErr = s.dstatErr := rfl
@[simp] theorem State.putCore_staged (s : State) (k : Core) : (s.putCore k).staged = s.staged := rfl
@[simp] theorem State.putCore_mbCmd (s : State) (k : Core) : (s.putCore k).mbCmd = s.mbCmd := rfl
@[simp] theorem State.putCore_mbStat (s : State) (k : Core) : (s.putCore k).mbStat = s.mbStat := rfl
@[simp] theorem State.putCore_mbPayload (s : State) (k : Core) : (s.putCore k).mbPayload = s.mbPayload := rfl
@[simp] theorem State.putCore_lanes (s : State) (k : Core) : (s.putCore k).lanes = s.lanes := rfl
@[simp] theorem State.putCore_pfEvents (s : State) (k : Core) : (s.putCore k).pfEvents = s.pfEvents := rfl
@[simp] theorem State.putCore_eventSeq (s : State) (k : Core) : (s.putCore k).eventSeq = s.eventSeq := rfl
@[simp] theorem State.putCore_mcapEvents (s : State) (k : Core) : (s.putCore k).mcapEvents = s.mcapEvents := rfl
@[simp] theorem State.putCore_goneSlices (s : State) (k : Core) : (s.putCore k).goneSlices = s.goneSlices := rfl
@[simp] theorem State.putCore_notices (s : State) (k : Core) : (s.putCore k).notices = s.notices := rfl
@[simp] theorem State.putCore_sysMap (s : State) (k : Core) : (s.putCore k).sysMap = s.sysMap := rfl
@[simp] theorem State.putCore_repaired (s : State) (k : Core) : (s.putCore k).repaired = s.repaired := rfl
@[simp] theorem State.putCore_elogBase (s : State) (k : Core) : (s.putCore k).elogBase = s.elogBase := rfl
@[simp] theorem State.putCore_elogHead (s : State) (k : Core) : (s.putCore k).elogHead = s.elogHead := rfl
@[simp] theorem State.putCore_elogTail (s : State) (k : Core) : (s.putCore k).elogTail = s.elogTail := rfl
@[simp] theorem State.putCore_elogOvf (s : State) (k : Core) : (s.putCore k).elogOvf = s.elogOvf := rfl
@[simp] theorem State.putCore_eseq (s : State) (k : Core) : (s.putCore k).eseq = s.eseq := rfl
@[simp] theorem State.putCore_ecnt (s : State) (k : Core) : (s.putCore k).ecnt = s.ecnt := rfl
@[simp] theorem State.putCore_instant (s : State) (k : Core) : (s.putCore k).instant = s.instant := rfl
@[simp] theorem State.putCore_instantAt (s : State) (k : Core) : (s.putCore k).instantAt = s.instantAt := rfl
@[simp] theorem State.putCore_instantLogged (s : State) (k : Core) : (s.putCore k).instantLogged = s.instantLogged := rfl
@[simp] theorem State.putCore_windows (s : State) (k : Core) : (s.putCore k).windows = s.windows := rfl
@[simp] theorem State.putCore_lasting (s : State) (k : Core) : (s.putCore k).lasting = s.lasting := rfl
@[simp] theorem State.putCore_spares (s : State) (k : Core) : (s.putCore k).spares = s.spares := rfl
@[simp] theorem State.putCore_fenced (s : State) (k : Core) : (s.putCore k).fenced = s.fenced := rfl
@[simp] theorem State.putCore_xinvWorld (s : State) (k : Core) : (s.putCore k).xinvWorld = s.xinvWorld := rfl
@[simp] theorem State.putCore_hssLeaves (s : State) (k : Core) : (s.putCore k).hssLeaves = s.hssLeaves := rfl
@[simp] theorem State.putCore_drbg (s : State) (k : Core) : (s.putCore k).drbg = s.drbg := rfl
@[simp] theorem State.putCore_drbgSeed (s : State) (k : Core) : (s.putCore k).drbgSeed = s.drbgSeed := rfl
@[simp] theorem State.putCore_ageing (s : State) (k : Core) : (s.putCore k).ageing = s.ageing := rfl
@[simp] theorem State.putCore_clocks (s : State) (k : Core) : (s.putCore k).clocks = s.clocks := rfl
@[simp] theorem State.putCore_bootGen (s : State) (k : Core) : (s.putCore k).bootGen = s.bootGen := rfl
@[simp] theorem State.putCore_march (s : State) (k : Core) : (s.putCore k).march = s.march := rfl
@[simp] theorem State.putCore_host (s : State) (k : Core) : (s.putCore k).host = s.host := rfl
@[simp] theorem State.putCore_interrupts (s : State) (k : Core) : (s.putCore k).interrupts = s.interrupts := rfl
@[simp] theorem State.putCore_dram (s : State) (k : Core) : (s.putCore k).dram = s.dram := rfl
@[simp] theorem State.putCore_badLines (s : State) (k : Core) : (s.putCore k).badLines = s.badLines := rfl
@[simp] theorem State.putCore_poisonLines (s : State) (k : Core) : (s.putCore k).poisonLines = s.poisonLines := rfl
@[simp] theorem State.putCore_majors (s : State) (k : Core) : (s.putCore k).majors = s.majors := rfl
@[simp] theorem State.putCore_minors (s : State) (k : Core) : (s.putCore k).minors = s.minors := rfl
@[simp] theorem State.putCore_sysmem (s : State) (k : Core) : (s.putCore k).sysmem = s.sysmem := rfl
@[simp] theorem State.putCore_sysPoison (s : State) (k : Core) : (s.putCore k).sysPoison = s.sysPoison := rfl
@[simp] theorem State.putCore_pcs (s : State) (k : Core) : (s.putCore k).pcs = s.pcs := rfl
@[simp] theorem State.putCore_cores (s : State) (k : Core) : (s.putCore k).cores = SMap.set s.cores s.cur.core k := rfl
@[simp] theorem State.putCore_wgs (s : State) (k : Core) : (s.putCore k).wgs = s.wgs := rfl
@[simp] theorem State.putCore_launches (s : State) (k : Core) : (s.putCore k).launches = s.launches := rfl
@[simp] theorem State.putCore_worlds (s : State) (k : Core) : (s.putCore k).worlds = s.worlds := rfl
@[simp] theorem State.putCore_ports (s : State) (k : Core) : (s.putCore k).ports = s.ports := rfl
@[simp] theorem State.putCore_routes (s : State) (k : Core) : (s.putCore k).routes = s.routes := rfl
@[simp] theorem State.putCore_device (s : State) (k : Core) : (s.putCore k).device = s.device := rfl
@[simp] theorem State.putCore_fab (s : State) (k : Core) : (s.putCore k).fab = s.fab := rfl
@[simp] theorem State.putCore_dedupe (s : State) (k : Core) : (s.putCore k).dedupe = s.dedupe := rfl
@[simp] theorem State.putCore_amoIdent (s : State) (k : Core) : (s.putCore k).amoIdent = s.amoIdent := rfl
@[simp] theorem State.putCore_sentReplies (s : State) (k : Core) : (s.putCore k).sentReplies = s.sentReplies := rfl
@[simp] theorem State.putCore_seals (s : State) (k : Core) : (s.putCore k).seals = s.seals := rfl
@[simp] theorem State.putCore_images (s : State) (k : Core) : (s.putCore k).images = s.images := rfl
@[simp] theorem State.putCore_cks (s : State) (k : Core) : (s.putCore k).cks = s.cks := rfl
@[simp] theorem State.putCore_linkKeys (s : State) (k : Core) : (s.putCore k).linkKeys = s.linkKeys := rfl
@[simp] theorem State.putCore_resync (s : State) (k : Core) : (s.putCore k).resync = s.resync := rfl
@[simp] theorem State.putCore_filling (s : State) (k : Core) : (s.putCore k).filling = s.filling := rfl
@[simp] theorem State.putCore_answers (s : State) (k : Core) : (s.putCore k).answers = s.answers := rfl
@[simp] theorem State.putCore_transfers (s : State) (k : Core) : (s.putCore k).transfers = s.transfers := rfl
@[simp] theorem State.putCore_badNodes (s : State) (k : Core) : (s.putCore k).badNodes = s.badNodes := rfl
@[simp] theorem State.putCore_failedNodes (s : State) (k : Core) : (s.putCore k).failedNodes = s.failedNodes := rfl
@[simp] theorem State.putCore_badTags (s : State) (k : Core) : (s.putCore k).badTags = s.badTags := rfl
@[simp] theorem State.putCore_sysBad (s : State) (k : Core) : (s.putCore k).sysBad = s.sysBad := rfl
@[simp] theorem State.putCore_dramErrs (s : State) (k : Core) : (s.putCore k).dramErrs = s.dramErrs := rfl
@[simp] theorem State.putCore_sysOff (s : State) (k : Core) : (s.putCore k).sysOff = s.sysOff := rfl
@[simp] theorem State.putCore_topMajors (s : State) (k : Core) : (s.putCore k).topMajors = s.topMajors := rfl
@[simp] theorem State.putCore_frames (s : State) (k : Core) : (s.putCore k).frames = s.frames := rfl
@[simp] theorem State.putCore_governedAt (s : State) (k : Core) : (s.putCore k).governedAt = s.governedAt := rfl
@[simp] theorem State.putCore_ksSlot (s : State) (k : Core) : (s.putCore k).ksSlot = s.ksSlot := rfl
@[simp] theorem State.putCore_ktDraw (s : State) (k : Core) : (s.putCore k).ktDraw = s.ktDraw := rfl
@[simp] theorem State.putCore_sigFail (s : State) (k : Core) : (s.putCore k).sigFail = s.sigFail := rfl
@[simp] theorem State.putCore_maxClock (s : State) (k : Core) : (s.putCore k).maxClock = s.maxClock := rfl
@[simp] theorem State.putCore_floors (s : State) (k : Core) : (s.putCore k).floors = s.floors := rfl
@[simp] theorem State.putCore_grantedAt (s : State) (k : Core) : (s.putCore k).grantedAt = s.grantedAt := rfl
@[simp] theorem State.putCore_watts (s : State) (k : Core) : (s.putCore k).watts = s.watts := rfl
@[simp] theorem State.putCore_activity (s : State) (k : Core) : (s.putCore k).activity = s.activity := rfl
@[simp] theorem State.putCore_plannedAt (s : State) (k : Core) : (s.putCore k).plannedAt = s.plannedAt := rfl
@[simp] theorem State.putCore_pcPlannedAt (s : State) (k : Core) : (s.putCore k).pcPlannedAt = s.pcPlannedAt := rfl
@[simp] theorem State.putCore_bridgeUp (s : State) (k : Core) : (s.putCore k).bridgeUp = s.bridgeUp := rfl
@[simp] theorem State.putCore_bridge (s : State) (k : Core) : (s.putCore k).bridge = s.bridge := rfl
@[simp] theorem State.putCore_amoBase (s : State) (k : Core) : (s.putCore k).amoBase = s.amoBase := rfl
@[simp] theorem State.putCore_amoAcked (s : State) (k : Core) : (s.putCore k).amoAcked = s.amoAcked := rfl
@[simp] theorem State.putCore_dieRows (s : State) (k : Core) : (s.putCore k).dieRows = s.dieRows := rfl

/-! ### State.modWg: only the workgroups -/

@[simp] theorem State.modWg_tick (s : State) (i : Nat) (f : Workgroup → Workgroup) : (s.modWg i f).tick = s.tick := rfl
@[simp] theorem State.modWg_ns (s : State) (i : Nat) (f : Workgroup → Workgroup) : (s.modWg i f).ns = s.ns := rfl
@[simp] theorem State.modWg_turns (s : State) (i : Nat) (f : Workgroup → Workgroup) : (s.modWg i f).turns = s.turns := rfl
@[simp] theorem State.modWg_clockAcc (s : State) (i : Nat) (f : Workgroup → Workgroup) : (s.modWg i f).clockAcc = s.clockAcc := rfl
@[simp] theorem State.modWg_freeCount (s : State) (i : Nat) (f : Workgroup → Workgroup) : (s.modWg i f).freeCount = s.freeCount := rfl
@[simp] theorem State.modWg_nextId (s : State) (i : Nat) (f : Workgroup → Workgroup) : (s.modWg i f).nextId = s.nextId := rfl
@[simp] theorem State.modWg_cur (s : State) (i : Nat) (f : Workgroup → Workgroup) : (s.modWg i f).cur = s.cur := rfl
@[simp] theorem State.modWg_stopped (s : State) (i : Nat) (f : Workgroup → Workgroup) : (s.modWg i f).stopped = s.stopped := rfl
@[simp] theorem State.modWg_dstat (s : State) (i : Nat) (f : Workgroup → Workgroup) : (s.modWg i f).dstat = s.dstat := rfl
@[simp] theorem State.modWg_dstatErr (s : State) (i : Nat) (f : Workgroup → Workgroup) : (s.modWg i f).dstatErr = s.dstatErr := rfl
@[simp] theorem State.modWg_staged (s : State) (i : Nat) (f : Workgroup → Workgroup) : (s.modWg i f).staged = s.staged := rfl
@[simp] theorem State.modWg_mbCmd (s : State) (i : Nat) (f : Workgroup → Workgroup) : (s.modWg i f).mbCmd = s.mbCmd := rfl
@[simp] theorem State.modWg_mbStat (s : State) (i : Nat) (f : Workgroup → Workgroup) : (s.modWg i f).mbStat = s.mbStat := rfl
@[simp] theorem State.modWg_mbPayload (s : State) (i : Nat) (f : Workgroup → Workgroup) : (s.modWg i f).mbPayload = s.mbPayload := rfl
@[simp] theorem State.modWg_lanes (s : State) (i : Nat) (f : Workgroup → Workgroup) : (s.modWg i f).lanes = s.lanes := rfl
@[simp] theorem State.modWg_pfEvents (s : State) (i : Nat) (f : Workgroup → Workgroup) : (s.modWg i f).pfEvents = s.pfEvents := rfl
@[simp] theorem State.modWg_eventSeq (s : State) (i : Nat) (f : Workgroup → Workgroup) : (s.modWg i f).eventSeq = s.eventSeq := rfl
@[simp] theorem State.modWg_mcapEvents (s : State) (i : Nat) (f : Workgroup → Workgroup) : (s.modWg i f).mcapEvents = s.mcapEvents := rfl
@[simp] theorem State.modWg_goneSlices (s : State) (i : Nat) (f : Workgroup → Workgroup) : (s.modWg i f).goneSlices = s.goneSlices := rfl
@[simp] theorem State.modWg_notices (s : State) (i : Nat) (f : Workgroup → Workgroup) : (s.modWg i f).notices = s.notices := rfl
@[simp] theorem State.modWg_sysMap (s : State) (i : Nat) (f : Workgroup → Workgroup) : (s.modWg i f).sysMap = s.sysMap := rfl
@[simp] theorem State.modWg_repaired (s : State) (i : Nat) (f : Workgroup → Workgroup) : (s.modWg i f).repaired = s.repaired := rfl
@[simp] theorem State.modWg_elogBase (s : State) (i : Nat) (f : Workgroup → Workgroup) : (s.modWg i f).elogBase = s.elogBase := rfl
@[simp] theorem State.modWg_elogHead (s : State) (i : Nat) (f : Workgroup → Workgroup) : (s.modWg i f).elogHead = s.elogHead := rfl
@[simp] theorem State.modWg_elogTail (s : State) (i : Nat) (f : Workgroup → Workgroup) : (s.modWg i f).elogTail = s.elogTail := rfl
@[simp] theorem State.modWg_elogOvf (s : State) (i : Nat) (f : Workgroup → Workgroup) : (s.modWg i f).elogOvf = s.elogOvf := rfl
@[simp] theorem State.modWg_eseq (s : State) (i : Nat) (f : Workgroup → Workgroup) : (s.modWg i f).eseq = s.eseq := rfl
@[simp] theorem State.modWg_ecnt (s : State) (i : Nat) (f : Workgroup → Workgroup) : (s.modWg i f).ecnt = s.ecnt := rfl
@[simp] theorem State.modWg_instant (s : State) (i : Nat) (f : Workgroup → Workgroup) : (s.modWg i f).instant = s.instant := rfl
@[simp] theorem State.modWg_instantAt (s : State) (i : Nat) (f : Workgroup → Workgroup) : (s.modWg i f).instantAt = s.instantAt := rfl
@[simp] theorem State.modWg_instantLogged (s : State) (i : Nat) (f : Workgroup → Workgroup) : (s.modWg i f).instantLogged = s.instantLogged := rfl
@[simp] theorem State.modWg_windows (s : State) (i : Nat) (f : Workgroup → Workgroup) : (s.modWg i f).windows = s.windows := rfl
@[simp] theorem State.modWg_lasting (s : State) (i : Nat) (f : Workgroup → Workgroup) : (s.modWg i f).lasting = s.lasting := rfl
@[simp] theorem State.modWg_spares (s : State) (i : Nat) (f : Workgroup → Workgroup) : (s.modWg i f).spares = s.spares := rfl
@[simp] theorem State.modWg_fenced (s : State) (i : Nat) (f : Workgroup → Workgroup) : (s.modWg i f).fenced = s.fenced := rfl
@[simp] theorem State.modWg_xinvWorld (s : State) (i : Nat) (f : Workgroup → Workgroup) : (s.modWg i f).xinvWorld = s.xinvWorld := rfl
@[simp] theorem State.modWg_hssLeaves (s : State) (i : Nat) (f : Workgroup → Workgroup) : (s.modWg i f).hssLeaves = s.hssLeaves := rfl
@[simp] theorem State.modWg_drbg (s : State) (i : Nat) (f : Workgroup → Workgroup) : (s.modWg i f).drbg = s.drbg := rfl
@[simp] theorem State.modWg_drbgSeed (s : State) (i : Nat) (f : Workgroup → Workgroup) : (s.modWg i f).drbgSeed = s.drbgSeed := rfl
@[simp] theorem State.modWg_ageing (s : State) (i : Nat) (f : Workgroup → Workgroup) : (s.modWg i f).ageing = s.ageing := rfl
@[simp] theorem State.modWg_clocks (s : State) (i : Nat) (f : Workgroup → Workgroup) : (s.modWg i f).clocks = s.clocks := rfl
@[simp] theorem State.modWg_bootGen (s : State) (i : Nat) (f : Workgroup → Workgroup) : (s.modWg i f).bootGen = s.bootGen := rfl
@[simp] theorem State.modWg_march (s : State) (i : Nat) (f : Workgroup → Workgroup) : (s.modWg i f).march = s.march := rfl
@[simp] theorem State.modWg_host (s : State) (i : Nat) (f : Workgroup → Workgroup) : (s.modWg i f).host = s.host := rfl
@[simp] theorem State.modWg_interrupts (s : State) (i : Nat) (f : Workgroup → Workgroup) : (s.modWg i f).interrupts = s.interrupts := rfl
@[simp] theorem State.modWg_dram (s : State) (i : Nat) (f : Workgroup → Workgroup) : (s.modWg i f).dram = s.dram := rfl
@[simp] theorem State.modWg_badLines (s : State) (i : Nat) (f : Workgroup → Workgroup) : (s.modWg i f).badLines = s.badLines := rfl
@[simp] theorem State.modWg_poisonLines (s : State) (i : Nat) (f : Workgroup → Workgroup) : (s.modWg i f).poisonLines = s.poisonLines := rfl
@[simp] theorem State.modWg_majors (s : State) (i : Nat) (f : Workgroup → Workgroup) : (s.modWg i f).majors = s.majors := rfl
@[simp] theorem State.modWg_minors (s : State) (i : Nat) (f : Workgroup → Workgroup) : (s.modWg i f).minors = s.minors := rfl
@[simp] theorem State.modWg_sysmem (s : State) (i : Nat) (f : Workgroup → Workgroup) : (s.modWg i f).sysmem = s.sysmem := rfl
@[simp] theorem State.modWg_sysPoison (s : State) (i : Nat) (f : Workgroup → Workgroup) : (s.modWg i f).sysPoison = s.sysPoison := rfl
@[simp] theorem State.modWg_pcs (s : State) (i : Nat) (f : Workgroup → Workgroup) : (s.modWg i f).pcs = s.pcs := rfl
@[simp] theorem State.modWg_cores (s : State) (i : Nat) (f : Workgroup → Workgroup) : (s.modWg i f).cores = s.cores := rfl
@[simp] theorem State.modWg_wgs (s : State) (i : Nat) (f : Workgroup → Workgroup) : (s.modWg i f).wgs = s.wgs.map fun w => if w.id == i then f w else w := rfl
@[simp] theorem State.modWg_launches (s : State) (i : Nat) (f : Workgroup → Workgroup) : (s.modWg i f).launches = s.launches := rfl
@[simp] theorem State.modWg_worlds (s : State) (i : Nat) (f : Workgroup → Workgroup) : (s.modWg i f).worlds = s.worlds := rfl
@[simp] theorem State.modWg_ports (s : State) (i : Nat) (f : Workgroup → Workgroup) : (s.modWg i f).ports = s.ports := rfl
@[simp] theorem State.modWg_routes (s : State) (i : Nat) (f : Workgroup → Workgroup) : (s.modWg i f).routes = s.routes := rfl
@[simp] theorem State.modWg_device (s : State) (i : Nat) (f : Workgroup → Workgroup) : (s.modWg i f).device = s.device := rfl
@[simp] theorem State.modWg_fab (s : State) (i : Nat) (f : Workgroup → Workgroup) : (s.modWg i f).fab = s.fab := rfl
@[simp] theorem State.modWg_dedupe (s : State) (i : Nat) (f : Workgroup → Workgroup) : (s.modWg i f).dedupe = s.dedupe := rfl
@[simp] theorem State.modWg_amoIdent (s : State) (i : Nat) (f : Workgroup → Workgroup) : (s.modWg i f).amoIdent = s.amoIdent := rfl
@[simp] theorem State.modWg_sentReplies (s : State) (i : Nat) (f : Workgroup → Workgroup) : (s.modWg i f).sentReplies = s.sentReplies := rfl
@[simp] theorem State.modWg_seals (s : State) (i : Nat) (f : Workgroup → Workgroup) : (s.modWg i f).seals = s.seals := rfl
@[simp] theorem State.modWg_images (s : State) (i : Nat) (f : Workgroup → Workgroup) : (s.modWg i f).images = s.images := rfl
@[simp] theorem State.modWg_cks (s : State) (i : Nat) (f : Workgroup → Workgroup) : (s.modWg i f).cks = s.cks := rfl
@[simp] theorem State.modWg_linkKeys (s : State) (i : Nat) (f : Workgroup → Workgroup) : (s.modWg i f).linkKeys = s.linkKeys := rfl
@[simp] theorem State.modWg_resync (s : State) (i : Nat) (f : Workgroup → Workgroup) : (s.modWg i f).resync = s.resync := rfl
@[simp] theorem State.modWg_filling (s : State) (i : Nat) (f : Workgroup → Workgroup) : (s.modWg i f).filling = s.filling := rfl
@[simp] theorem State.modWg_answers (s : State) (i : Nat) (f : Workgroup → Workgroup) : (s.modWg i f).answers = s.answers := rfl
@[simp] theorem State.modWg_transfers (s : State) (i : Nat) (f : Workgroup → Workgroup) : (s.modWg i f).transfers = s.transfers := rfl
@[simp] theorem State.modWg_badNodes (s : State) (i : Nat) (f : Workgroup → Workgroup) : (s.modWg i f).badNodes = s.badNodes := rfl
@[simp] theorem State.modWg_failedNodes (s : State) (i : Nat) (f : Workgroup → Workgroup) : (s.modWg i f).failedNodes = s.failedNodes := rfl
@[simp] theorem State.modWg_badTags (s : State) (i : Nat) (f : Workgroup → Workgroup) : (s.modWg i f).badTags = s.badTags := rfl
@[simp] theorem State.modWg_sysBad (s : State) (i : Nat) (f : Workgroup → Workgroup) : (s.modWg i f).sysBad = s.sysBad := rfl
@[simp] theorem State.modWg_dramErrs (s : State) (i : Nat) (f : Workgroup → Workgroup) : (s.modWg i f).dramErrs = s.dramErrs := rfl
@[simp] theorem State.modWg_sysOff (s : State) (i : Nat) (f : Workgroup → Workgroup) : (s.modWg i f).sysOff = s.sysOff := rfl
@[simp] theorem State.modWg_topMajors (s : State) (i : Nat) (f : Workgroup → Workgroup) : (s.modWg i f).topMajors = s.topMajors := rfl
@[simp] theorem State.modWg_frames (s : State) (i : Nat) (f : Workgroup → Workgroup) : (s.modWg i f).frames = s.frames := rfl
@[simp] theorem State.modWg_governedAt (s : State) (i : Nat) (f : Workgroup → Workgroup) : (s.modWg i f).governedAt = s.governedAt := rfl
@[simp] theorem State.modWg_ksSlot (s : State) (i : Nat) (f : Workgroup → Workgroup) : (s.modWg i f).ksSlot = s.ksSlot := rfl
@[simp] theorem State.modWg_ktDraw (s : State) (i : Nat) (f : Workgroup → Workgroup) : (s.modWg i f).ktDraw = s.ktDraw := rfl
@[simp] theorem State.modWg_sigFail (s : State) (i : Nat) (f : Workgroup → Workgroup) : (s.modWg i f).sigFail = s.sigFail := rfl
@[simp] theorem State.modWg_maxClock (s : State) (i : Nat) (f : Workgroup → Workgroup) : (s.modWg i f).maxClock = s.maxClock := rfl
@[simp] theorem State.modWg_floors (s : State) (i : Nat) (f : Workgroup → Workgroup) : (s.modWg i f).floors = s.floors := rfl
@[simp] theorem State.modWg_grantedAt (s : State) (i : Nat) (f : Workgroup → Workgroup) : (s.modWg i f).grantedAt = s.grantedAt := rfl
@[simp] theorem State.modWg_watts (s : State) (i : Nat) (f : Workgroup → Workgroup) : (s.modWg i f).watts = s.watts := rfl
@[simp] theorem State.modWg_activity (s : State) (i : Nat) (f : Workgroup → Workgroup) : (s.modWg i f).activity = s.activity := rfl
@[simp] theorem State.modWg_plannedAt (s : State) (i : Nat) (f : Workgroup → Workgroup) : (s.modWg i f).plannedAt = s.plannedAt := rfl
@[simp] theorem State.modWg_pcPlannedAt (s : State) (i : Nat) (f : Workgroup → Workgroup) : (s.modWg i f).pcPlannedAt = s.pcPlannedAt := rfl
@[simp] theorem State.modWg_bridgeUp (s : State) (i : Nat) (f : Workgroup → Workgroup) : (s.modWg i f).bridgeUp = s.bridgeUp := rfl
@[simp] theorem State.modWg_bridge (s : State) (i : Nat) (f : Workgroup → Workgroup) : (s.modWg i f).bridge = s.bridge := rfl
@[simp] theorem State.modWg_amoBase (s : State) (i : Nat) (f : Workgroup → Workgroup) : (s.modWg i f).amoBase = s.amoBase := rfl
@[simp] theorem State.modWg_amoAcked (s : State) (i : Nat) (f : Workgroup → Workgroup) : (s.modWg i f).amoAcked = s.amoAcked := rfl
@[simp] theorem State.modWg_dieRows (s : State) (i : Nat) (f : Workgroup → Workgroup) : (s.modWg i f).dieRows = s.dieRows := rfl

/-! ### Core.setStrand: only the strands -/

@[simp] theorem Core.setStrand_wg (k : Core) (t : Nat) (x : Strand) : (k.setStrand t x).wg = k.wg := rfl
@[simp] theorem Core.setStrand_rank (k : Core) (t : Nat) (x : Strand) : (k.setStrand t x).rank = k.rank := rfl
@[simp] theorem Core.setStrand_cycle (k : Core) (t : Nat) (x : Strand) : (k.setStrand t x).cycle = k.cycle := rfl
@[simp] theorem Core.setStrand_bfmt (k : Core) (t : Nat) (x : Strand) : (k.setStrand t x).bfmt = k.bfmt := rfl
@[simp] theorem Core.setStrand_bwheel (k : Core) (t : Nat) (x : Strand) : (k.setStrand t x).bwheel = k.bwheel := rfl
@[simp] theorem Core.setStrand_mg (k : Core) (t : Nat) (x : Strand) : (k.setStrand t x).mg = k.mg := rfl
@[simp] theorem Core.setStrand_vctl (k : Core) (t : Nat) (x : Strand) : (k.setStrand t x).vctl = k.vctl := rfl
@[simp] theorem Core.setStrand_vctlEvent (k : Core) (t : Nat) (x : Strand) : (k.setStrand t x).vctlEvent = k.vctlEvent := rfl
@[simp] theorem Core.setStrand_spad (k : Core) (t : Nat) (x : Strand) : (k.setStrand t x).spad = k.spad := rfl
@[simp] theorem Core.setStrand_lines (k : Core) (t : Nat) (x : Strand) : (k.setStrand t x).lines = k.lines := rfl
@[simp] theorem Core.setStrand_scale (k : Core) (t : Nat) (x : Strand) : (k.setStrand t x).scale = k.scale := rfl
@[simp] theorem Core.setStrand_recs (k : Core) (t : Nat) (x : Strand) : (k.setStrand t x).recs = k.recs := rfl
@[simp] theorem Core.setStrand_accs (k : Core) (t : Nat) (x : Strand) : (k.setStrand t x).accs = k.accs := rfl
@[simp] theorem Core.setStrand_rings (k : Core) (t : Nat) (x : Strand) : (k.setStrand t x).rings = k.rings := rfl
@[simp] theorem Core.setStrand_mq (k : Core) (t : Nat) (x : Strand) : (k.setStrand t x).mq = k.mq := rfl
@[simp] theorem Core.setStrand_copies (k : Core) (t : Nat) (x : Strand) : (k.setStrand t x).copies = k.copies := rfl
@[simp] theorem Core.setStrand_rmw (k : Core) (t : Nat) (x : Strand) : (k.setStrand t x).rmw = k.rmw := rfl
@[simp] theorem Core.setStrand_lq (k : Core) (t : Nat) (x : Strand) : (k.setStrand t x).lq = k.lq := rfl
@[simp] theorem Core.setStrand_inbound (k : Core) (t : Nat) (x : Strand) : (k.setStrand t x).inbound = k.inbound := rfl
@[simp] theorem Core.setStrand_lineTag (k : Core) (t : Nat) (x : Strand) : (k.setStrand t x).lineTag = k.lineTag := rfl
@[simp] theorem Core.setStrand_ibuf (k : Core) (t : Nat) (x : Strand) : (k.setStrand t x).ibuf = k.ibuf := rfl
@[simp] theorem Core.setStrand_runner (k : Core) (t : Nat) (x : Strand) : (k.setStrand t x).runner = k.runner := rfl
@[simp] theorem Core.setStrand_lastRan (k : Core) (t : Nat) (x : Strand) : (k.setStrand t x).lastRan = k.lastRan := rfl
@[simp] theorem Core.setStrand_lastW (k : Core) (t : Nat) (x : Strand) : (k.setStrand t x).lastW = k.lastW := rfl
@[simp] theorem Core.setStrand_decision (k : Core) (t : Nat) (x : Strand) : (k.setStrand t x).decision = k.decision := rfl
@[simp] theorem Core.setStrand_strands (k : Core) (t : Nat) (x : Strand) : (k.setStrand t x).strands = SMap.set k.strands t x := rfl
@[simp] theorem Core.setStrand_remote (k : Core) (t : Nat) (x : Strand) : (k.setStrand t x).remote = k.remote := rfl
@[simp] theorem Core.setStrand_scrubAt (k : Core) (t : Nat) (x : Strand) : (k.setStrand t x).scrubAt = k.scrubAt := rfl
@[simp] theorem Core.setStrand_due (k : Core) (t : Nat) (x : Strand) : (k.setStrand t x).due = k.due := rfl
@[simp] theorem Core.setStrand_mFree (k : Core) (t : Nat) (x : Strand) : (k.setStrand t x).mFree = k.mFree := rfl

/-! ### Core.setRing: only the rings -/

@[simp] theorem Core.setRing_wg (k : Core) (q : Nat) (r : Ring) : (k.setRing q r).wg = k.wg := rfl
@[simp] theorem Core.setRing_rank (k : Core) (q : Nat) (r : Ring) : (k.setRing q r).rank = k.rank := rfl
@[simp] theorem Core.setRing_cycle (k : Core) (q : Nat) (r : Ring) : (k.setRing q r).cycle = k.cycle := rfl
@[simp] theorem Core.setRing_bfmt (k : Core) (q : Nat) (r : Ring) : (k.setRing q r).bfmt = k.bfmt := rfl
@[simp] theorem Core.setRing_bwheel (k : Core) (q : Nat) (r : Ring) : (k.setRing q r).bwheel = k.bwheel := rfl
@[simp] theorem Core.setRing_mg (k : Core) (q : Nat) (r : Ring) : (k.setRing q r).mg = k.mg := rfl
@[simp] theorem Core.setRing_vctl (k : Core) (q : Nat) (r : Ring) : (k.setRing q r).vctl = k.vctl := rfl
@[simp] theorem Core.setRing_vctlEvent (k : Core) (q : Nat) (r : Ring) : (k.setRing q r).vctlEvent = k.vctlEvent := rfl
@[simp] theorem Core.setRing_spad (k : Core) (q : Nat) (r : Ring) : (k.setRing q r).spad = k.spad := rfl
@[simp] theorem Core.setRing_lines (k : Core) (q : Nat) (r : Ring) : (k.setRing q r).lines = k.lines := rfl
@[simp] theorem Core.setRing_scale (k : Core) (q : Nat) (r : Ring) : (k.setRing q r).scale = k.scale := rfl
@[simp] theorem Core.setRing_recs (k : Core) (q : Nat) (r : Ring) : (k.setRing q r).recs = k.recs := rfl
@[simp] theorem Core.setRing_accs (k : Core) (q : Nat) (r : Ring) : (k.setRing q r).accs = k.accs := rfl
@[simp] theorem Core.setRing_rings (k : Core) (q : Nat) (r : Ring) : (k.setRing q r).rings = SMap.set k.rings q r := rfl
@[simp] theorem Core.setRing_mq (k : Core) (q : Nat) (r : Ring) : (k.setRing q r).mq = k.mq := rfl
@[simp] theorem Core.setRing_copies (k : Core) (q : Nat) (r : Ring) : (k.setRing q r).copies = k.copies := rfl
@[simp] theorem Core.setRing_rmw (k : Core) (q : Nat) (r : Ring) : (k.setRing q r).rmw = k.rmw := rfl
@[simp] theorem Core.setRing_lq (k : Core) (q : Nat) (r : Ring) : (k.setRing q r).lq = k.lq := rfl
@[simp] theorem Core.setRing_inbound (k : Core) (q : Nat) (r : Ring) : (k.setRing q r).inbound = k.inbound := rfl
@[simp] theorem Core.setRing_lineTag (k : Core) (q : Nat) (r : Ring) : (k.setRing q r).lineTag = k.lineTag := rfl
@[simp] theorem Core.setRing_ibuf (k : Core) (q : Nat) (r : Ring) : (k.setRing q r).ibuf = k.ibuf := rfl
@[simp] theorem Core.setRing_runner (k : Core) (q : Nat) (r : Ring) : (k.setRing q r).runner = k.runner := rfl
@[simp] theorem Core.setRing_lastRan (k : Core) (q : Nat) (r : Ring) : (k.setRing q r).lastRan = k.lastRan := rfl
@[simp] theorem Core.setRing_lastW (k : Core) (q : Nat) (r : Ring) : (k.setRing q r).lastW = k.lastW := rfl
@[simp] theorem Core.setRing_decision (k : Core) (q : Nat) (r : Ring) : (k.setRing q r).decision = k.decision := rfl
@[simp] theorem Core.setRing_strands (k : Core) (q : Nat) (r : Ring) : (k.setRing q r).strands = k.strands := rfl
@[simp] theorem Core.setRing_remote (k : Core) (q : Nat) (r : Ring) : (k.setRing q r).remote = k.remote := rfl
@[simp] theorem Core.setRing_scrubAt (k : Core) (q : Nat) (r : Ring) : (k.setRing q r).scrubAt = k.scrubAt := rfl
@[simp] theorem Core.setRing_due (k : Core) (q : Nat) (r : Ring) : (k.setRing q r).due = k.due := rfl
@[simp] theorem Core.setRing_mFree (k : Core) (q : Nat) (r : Ring) : (k.setRing q r).mFree = k.mFree := rfl

/-! ### Strand.hold: only the held results -/

@[simp] theorem Strand.hold_status (x : Strand) (h : Held) : (x.hold h).status = x.status := rfl
@[simp] theorem Strand.hold_pc (x : Strand) (h : Held) : (x.hold h).pc = x.pc := rfl
@[simp] theorem Strand.hold_belt (x : Strand) (h : Held) : (x.hold h).belt = x.belt := rfl
@[simp] theorem Strand.hold_n (x : Strand) (h : Held) : (x.hold h).n = x.n := rfl
@[simp] theorem Strand.hold_v (x : Strand) (h : Held) : (x.hold h).v = x.v := rfl
@[simp] theorem Strand.hold_sc (x : Strand) (h : Held) : (x.hold h).sc = x.sc := rfl
@[simp] theorem Strand.hold_em (x : Strand) (h : Held) : (x.hold h).em = x.em := rfl
@[simp] theorem Strand.hold_cm (x : Strand) (h : Held) : (x.hold h).cm = x.cm := rfl
@[simp] theorem Strand.hold_ctime (x : Strand) (h : Held) : (x.hold h).ctime = x.ctime := rfl
@[simp] theorem Strand.hold_phasen (x : Strand) (h : Held) : (x.hold h).phasen = x.phasen := rfl
@[simp] theorem Strand.hold_strandId (x : Strand) (h : Held) : (x.hold h).strandId = x.strandId := rfl
@[simp] theorem Strand.hold_world (x : Strand) (h : Held) : (x.hold h).world = x.world := rfl
@[simp] theorem Strand.hold_repActive (x : Strand) (h : Held) : (x.hold h).repActive = x.repActive := rfl
@[simp] theorem Strand.hold_repCount (x : Strand) (h : Held) : (x.hold h).repCount = x.repCount := rfl
@[simp] theorem Strand.hold_repIndex (x : Strand) (h : Held) : (x.hold h).repIndex = x.repIndex := rfl
@[simp] theorem Strand.hold_repStep (x : Strand) (h : Held) : (x.hold h).repStep = x.repStep := rfl
@[simp] theorem Strand.hold_repAddr (x : Strand) (h : Held) : (x.hold h).repAddr = x.repAddr := rfl
@[simp] theorem Strand.hold_lc (x : Strand) (h : Held) : (x.hold h).lc = x.lc := rfl
@[simp] theorem Strand.hold_fault (x : Strand) (h : Held) : (x.hold h).fault = x.fault := rfl
@[simp] theorem Strand.hold_faddr (x : Strand) (h : Held) : (x.hold h).faddr = x.faddr := rfl
@[simp] theorem Strand.hold_fcount (x : Strand) (h : Held) : (x.hold h).fcount = x.fcount := rfl
@[simp] theorem Strand.hold_sync (x : Strand) (h : Held) : (x.hold h).sync = x.sync := rfl
@[simp] theorem Strand.hold_regions (x : Strand) (h : Held) : (x.hold h).regions = x.regions := rfl
@[simp] theorem Strand.hold_held (x : Strand) (h : Held) : (x.hold h).held = x.held ++ [h] := rfl
@[simp] theorem Strand.hold_past (x : Strand) (h : Held) : (x.hold h).past = x.past := rfl
@[simp] theorem Strand.hold_reports (x : Strand) (h : Held) : (x.hold h).reports = x.reports := rfl
@[simp] theorem Strand.hold_freshAt (x : Strand) (h : Held) : (x.hold h).freshAt = x.freshAt := rfl
@[simp] theorem Strand.hold_fresh (x : Strand) (h : Held) : (x.hold h).fresh = x.fresh := rfl
@[simp] theorem Strand.hold_owed (x : Strand) (h : Held) : (x.hold h).owed = x.owed := rfl
@[simp] theorem Strand.hold_wait (x : Strand) (h : Held) : (x.hold h).wait = x.wait := rfl
@[simp] theorem Strand.hold_divider (x : Strand) (h : Held) : (x.hold h).divider = x.divider := rfl
@[simp] theorem Strand.hold_lastL (x : Strand) (h : Held) : (x.hold h).lastL = x.lastL := rfl
@[simp] theorem Strand.hold_fences (x : Strand) (h : Held) : (x.hold h).fences = x.fences := rfl
@[simp] theorem Strand.hold_arrived (x : Strand) (h : Held) : (x.hold h).arrived = x.arrived := rfl
@[simp] theorem Strand.hold_released (x : Strand) (h : Held) : (x.hold h).released = x.released := rfl
@[simp] theorem Strand.hold_sent (x : Strand) (h : Held) : (x.hold h).sent = x.sent := rfl
@[simp] theorem Strand.hold_reserves (x : Strand) (h : Held) : (x.hold h).reserves = x.reserves := rfl
@[simp] theorem Strand.hold_debugUnposted (x : Strand) (h : Held) : (x.hold h).debugUnposted = x.debugUnposted := rfl
@[simp] theorem Strand.hold_notified (x : Strand) (h : Held) : (x.hold h).notified = x.notified := rfl

/-! ### Strand.setN: only the named registers -/

@[simp] theorem Strand.setN_status (x : Strand) (r : Nat) (v : Word) : (x.setN r v).status = x.status := rfl
@[simp] theorem Strand.setN_pc (x : Strand) (r : Nat) (v : Word) : (x.setN r v).pc = x.pc := rfl
@[simp] theorem Strand.setN_belt (x : Strand) (r : Nat) (v : Word) : (x.setN r v).belt = x.belt := rfl
@[simp] theorem Strand.setN_n (x : Strand) (r : Nat) (v : Word) : (x.setN r v).n = x.n.set r v := rfl
@[simp] theorem Strand.setN_v (x : Strand) (r : Nat) (v : Word) : (x.setN r v).v = x.v := rfl
@[simp] theorem Strand.setN_sc (x : Strand) (r : Nat) (v : Word) : (x.setN r v).sc = x.sc := rfl
@[simp] theorem Strand.setN_em (x : Strand) (r : Nat) (v : Word) : (x.setN r v).em = x.em := rfl
@[simp] theorem Strand.setN_cm (x : Strand) (r : Nat) (v : Word) : (x.setN r v).cm = x.cm := rfl
@[simp] theorem Strand.setN_ctime (x : Strand) (r : Nat) (v : Word) : (x.setN r v).ctime = x.ctime := rfl
@[simp] theorem Strand.setN_phasen (x : Strand) (r : Nat) (v : Word) : (x.setN r v).phasen = x.phasen := rfl
@[simp] theorem Strand.setN_strandId (x : Strand) (r : Nat) (v : Word) : (x.setN r v).strandId = x.strandId := rfl
@[simp] theorem Strand.setN_world (x : Strand) (r : Nat) (v : Word) : (x.setN r v).world = x.world := rfl
@[simp] theorem Strand.setN_repActive (x : Strand) (r : Nat) (v : Word) : (x.setN r v).repActive = x.repActive := rfl
@[simp] theorem Strand.setN_repCount (x : Strand) (r : Nat) (v : Word) : (x.setN r v).repCount = x.repCount := rfl
@[simp] theorem Strand.setN_repIndex (x : Strand) (r : Nat) (v : Word) : (x.setN r v).repIndex = x.repIndex := rfl
@[simp] theorem Strand.setN_repStep (x : Strand) (r : Nat) (v : Word) : (x.setN r v).repStep = x.repStep := rfl
@[simp] theorem Strand.setN_repAddr (x : Strand) (r : Nat) (v : Word) : (x.setN r v).repAddr = x.repAddr := rfl
@[simp] theorem Strand.setN_lc (x : Strand) (r : Nat) (v : Word) : (x.setN r v).lc = x.lc := rfl
@[simp] theorem Strand.setN_fault (x : Strand) (r : Nat) (v : Word) : (x.setN r v).fault = x.fault := rfl
@[simp] theorem Strand.setN_faddr (x : Strand) (r : Nat) (v : Word) : (x.setN r v).faddr = x.faddr := rfl
@[simp] theorem Strand.setN_fcount (x : Strand) (r : Nat) (v : Word) : (x.setN r v).fcount = x.fcount := rfl
@[simp] theorem Strand.setN_sync (x : Strand) (r : Nat) (v : Word) : (x.setN r v).sync = x.sync := rfl
@[simp] theorem Strand.setN_regions (x : Strand) (r : Nat) (v : Word) : (x.setN r v).regions = x.regions := rfl
@[simp] theorem Strand.setN_held (x : Strand) (r : Nat) (v : Word) : (x.setN r v).held = x.held := rfl
@[simp] theorem Strand.setN_past (x : Strand) (r : Nat) (v : Word) : (x.setN r v).past = x.past := rfl
@[simp] theorem Strand.setN_reports (x : Strand) (r : Nat) (v : Word) : (x.setN r v).reports = x.reports := rfl
@[simp] theorem Strand.setN_freshAt (x : Strand) (r : Nat) (v : Word) : (x.setN r v).freshAt = x.freshAt := rfl
@[simp] theorem Strand.setN_fresh (x : Strand) (r : Nat) (v : Word) : (x.setN r v).fresh = x.fresh := rfl
@[simp] theorem Strand.setN_owed (x : Strand) (r : Nat) (v : Word) : (x.setN r v).owed = x.owed := rfl
@[simp] theorem Strand.setN_wait (x : Strand) (r : Nat) (v : Word) : (x.setN r v).wait = x.wait := rfl
@[simp] theorem Strand.setN_divider (x : Strand) (r : Nat) (v : Word) : (x.setN r v).divider = x.divider := rfl
@[simp] theorem Strand.setN_lastL (x : Strand) (r : Nat) (v : Word) : (x.setN r v).lastL = x.lastL := rfl
@[simp] theorem Strand.setN_fences (x : Strand) (r : Nat) (v : Word) : (x.setN r v).fences = x.fences := rfl
@[simp] theorem Strand.setN_arrived (x : Strand) (r : Nat) (v : Word) : (x.setN r v).arrived = x.arrived := rfl
@[simp] theorem Strand.setN_released (x : Strand) (r : Nat) (v : Word) : (x.setN r v).released = x.released := rfl
@[simp] theorem Strand.setN_sent (x : Strand) (r : Nat) (v : Word) : (x.setN r v).sent = x.sent := rfl
@[simp] theorem Strand.setN_reserves (x : Strand) (r : Nat) (v : Word) : (x.setN r v).reserves = x.reserves := rfl
@[simp] theorem Strand.setN_debugUnposted (x : Strand) (r : Nat) (v : Word) : (x.setN r v).debugUnposted = x.debugUnposted := rfl
@[simp] theorem Strand.setN_notified (x : Strand) (r : Nat) (v : Word) : (x.setN r v).notified = x.notified := rfl

/-! ### Strand.setV: only the vector registers -/

@[simp] theorem Strand.setV_status (x : Strand) (r : Nat) (v : VReg) : (x.setV r v).status = x.status := rfl
@[simp] theorem Strand.setV_pc (x : Strand) (r : Nat) (v : VReg) : (x.setV r v).pc = x.pc := rfl
@[simp] theorem Strand.setV_belt (x : Strand) (r : Nat) (v : VReg) : (x.setV r v).belt = x.belt := rfl
@[simp] theorem Strand.setV_n (x : Strand) (r : Nat) (v : VReg) : (x.setV r v).n = x.n := rfl
@[simp] theorem Strand.setV_v (x : Strand) (r : Nat) (v : VReg) : (x.setV r v).v = SMap.set x.v r v := rfl
@[simp] theorem Strand.setV_sc (x : Strand) (r : Nat) (v : VReg) : (x.setV r v).sc = x.sc := rfl
@[simp] theorem Strand.setV_em (x : Strand) (r : Nat) (v : VReg) : (x.setV r v).em = x.em := rfl
@[simp] theorem Strand.setV_cm (x : Strand) (r : Nat) (v : VReg) : (x.setV r v).cm = x.cm := rfl
@[simp] theorem Strand.setV_ctime (x : Strand) (r : Nat) (v : VReg) : (x.setV r v).ctime = x.ctime := rfl
@[simp] theorem Strand.setV_phasen (x : Strand) (r : Nat) (v : VReg) : (x.setV r v).phasen = x.phasen := rfl
@[simp] theorem Strand.setV_strandId (x : Strand) (r : Nat) (v : VReg) : (x.setV r v).strandId = x.strandId := rfl
@[simp] theorem Strand.setV_world (x : Strand) (r : Nat) (v : VReg) : (x.setV r v).world = x.world := rfl
@[simp] theorem Strand.setV_repActive (x : Strand) (r : Nat) (v : VReg) : (x.setV r v).repActive = x.repActive := rfl
@[simp] theorem Strand.setV_repCount (x : Strand) (r : Nat) (v : VReg) : (x.setV r v).repCount = x.repCount := rfl
@[simp] theorem Strand.setV_repIndex (x : Strand) (r : Nat) (v : VReg) : (x.setV r v).repIndex = x.repIndex := rfl
@[simp] theorem Strand.setV_repStep (x : Strand) (r : Nat) (v : VReg) : (x.setV r v).repStep = x.repStep := rfl
@[simp] theorem Strand.setV_repAddr (x : Strand) (r : Nat) (v : VReg) : (x.setV r v).repAddr = x.repAddr := rfl
@[simp] theorem Strand.setV_lc (x : Strand) (r : Nat) (v : VReg) : (x.setV r v).lc = x.lc := rfl
@[simp] theorem Strand.setV_fault (x : Strand) (r : Nat) (v : VReg) : (x.setV r v).fault = x.fault := rfl
@[simp] theorem Strand.setV_faddr (x : Strand) (r : Nat) (v : VReg) : (x.setV r v).faddr = x.faddr := rfl
@[simp] theorem Strand.setV_fcount (x : Strand) (r : Nat) (v : VReg) : (x.setV r v).fcount = x.fcount := rfl
@[simp] theorem Strand.setV_sync (x : Strand) (r : Nat) (v : VReg) : (x.setV r v).sync = x.sync := rfl
@[simp] theorem Strand.setV_regions (x : Strand) (r : Nat) (v : VReg) : (x.setV r v).regions = x.regions := rfl
@[simp] theorem Strand.setV_held (x : Strand) (r : Nat) (v : VReg) : (x.setV r v).held = x.held := rfl
@[simp] theorem Strand.setV_past (x : Strand) (r : Nat) (v : VReg) : (x.setV r v).past = x.past := rfl
@[simp] theorem Strand.setV_reports (x : Strand) (r : Nat) (v : VReg) : (x.setV r v).reports = x.reports := rfl
@[simp] theorem Strand.setV_freshAt (x : Strand) (r : Nat) (v : VReg) : (x.setV r v).freshAt = x.freshAt := rfl
@[simp] theorem Strand.setV_fresh (x : Strand) (r : Nat) (v : VReg) : (x.setV r v).fresh = x.fresh := rfl
@[simp] theorem Strand.setV_owed (x : Strand) (r : Nat) (v : VReg) : (x.setV r v).owed = x.owed := rfl
@[simp] theorem Strand.setV_wait (x : Strand) (r : Nat) (v : VReg) : (x.setV r v).wait = x.wait := rfl
@[simp] theorem Strand.setV_divider (x : Strand) (r : Nat) (v : VReg) : (x.setV r v).divider = x.divider := rfl
@[simp] theorem Strand.setV_lastL (x : Strand) (r : Nat) (v : VReg) : (x.setV r v).lastL = x.lastL := rfl
@[simp] theorem Strand.setV_fences (x : Strand) (r : Nat) (v : VReg) : (x.setV r v).fences = x.fences := rfl
@[simp] theorem Strand.setV_arrived (x : Strand) (r : Nat) (v : VReg) : (x.setV r v).arrived = x.arrived := rfl
@[simp] theorem Strand.setV_released (x : Strand) (r : Nat) (v : VReg) : (x.setV r v).released = x.released := rfl
@[simp] theorem Strand.setV_sent (x : Strand) (r : Nat) (v : VReg) : (x.setV r v).sent = x.sent := rfl
@[simp] theorem Strand.setV_reserves (x : Strand) (r : Nat) (v : VReg) : (x.setV r v).reserves = x.reserves := rfl
@[simp] theorem Strand.setV_debugUnposted (x : Strand) (r : Nat) (v : VReg) : (x.setV r v).debugUnposted = x.debugUnposted := rfl
@[simp] theorem Strand.setV_notified (x : Strand) (r : Nat) (v : VReg) : (x.setV r v).notified = x.notified := rfl

/-! ### Strand.pushBelt: only the belt -/

@[simp] theorem Strand.pushBelt_status (x : Strand) (v : Word) : (x.pushBelt v).status = x.status := rfl
@[simp] theorem Strand.pushBelt_pc (x : Strand) (v : Word) : (x.pushBelt v).pc = x.pc := rfl
@[simp] theorem Strand.pushBelt_belt (x : Strand) (v : Word) : (x.pushBelt v).belt = (v :: x.belt).take 16 := rfl
@[simp] theorem Strand.pushBelt_n (x : Strand) (v : Word) : (x.pushBelt v).n = x.n := rfl
@[simp] theorem Strand.pushBelt_v (x : Strand) (v : Word) : (x.pushBelt v).v = x.v := rfl
@[simp] theorem Strand.pushBelt_sc (x : Strand) (v : Word) : (x.pushBelt v).sc = x.sc := rfl
@[simp] theorem Strand.pushBelt_em (x : Strand) (v : Word) : (x.pushBelt v).em = x.em := rfl
@[simp] theorem Strand.pushBelt_cm (x : Strand) (v : Word) : (x.pushBelt v).cm = x.cm := rfl
@[simp] theorem Strand.pushBelt_ctime (x : Strand) (v : Word) : (x.pushBelt v).ctime = x.ctime := rfl
@[simp] theorem Strand.pushBelt_phasen (x : Strand) (v : Word) : (x.pushBelt v).phasen = x.phasen := rfl
@[simp] theorem Strand.pushBelt_strandId (x : Strand) (v : Word) : (x.pushBelt v).strandId = x.strandId := rfl
@[simp] theorem Strand.pushBelt_world (x : Strand) (v : Word) : (x.pushBelt v).world = x.world := rfl
@[simp] theorem Strand.pushBelt_repActive (x : Strand) (v : Word) : (x.pushBelt v).repActive = x.repActive := rfl
@[simp] theorem Strand.pushBelt_repCount (x : Strand) (v : Word) : (x.pushBelt v).repCount = x.repCount := rfl
@[simp] theorem Strand.pushBelt_repIndex (x : Strand) (v : Word) : (x.pushBelt v).repIndex = x.repIndex := rfl
@[simp] theorem Strand.pushBelt_repStep (x : Strand) (v : Word) : (x.pushBelt v).repStep = x.repStep := rfl
@[simp] theorem Strand.pushBelt_repAddr (x : Strand) (v : Word) : (x.pushBelt v).repAddr = x.repAddr := rfl
@[simp] theorem Strand.pushBelt_lc (x : Strand) (v : Word) : (x.pushBelt v).lc = x.lc := rfl
@[simp] theorem Strand.pushBelt_fault (x : Strand) (v : Word) : (x.pushBelt v).fault = x.fault := rfl
@[simp] theorem Strand.pushBelt_faddr (x : Strand) (v : Word) : (x.pushBelt v).faddr = x.faddr := rfl
@[simp] theorem Strand.pushBelt_fcount (x : Strand) (v : Word) : (x.pushBelt v).fcount = x.fcount := rfl
@[simp] theorem Strand.pushBelt_sync (x : Strand) (v : Word) : (x.pushBelt v).sync = x.sync := rfl
@[simp] theorem Strand.pushBelt_regions (x : Strand) (v : Word) : (x.pushBelt v).regions = x.regions := rfl
@[simp] theorem Strand.pushBelt_held (x : Strand) (v : Word) : (x.pushBelt v).held = x.held := rfl
@[simp] theorem Strand.pushBelt_past (x : Strand) (v : Word) : (x.pushBelt v).past = x.past := rfl
@[simp] theorem Strand.pushBelt_reports (x : Strand) (v : Word) : (x.pushBelt v).reports = x.reports := rfl
@[simp] theorem Strand.pushBelt_freshAt (x : Strand) (v : Word) : (x.pushBelt v).freshAt = x.freshAt := rfl
@[simp] theorem Strand.pushBelt_fresh (x : Strand) (v : Word) : (x.pushBelt v).fresh = x.fresh := rfl
@[simp] theorem Strand.pushBelt_owed (x : Strand) (v : Word) : (x.pushBelt v).owed = x.owed := rfl
@[simp] theorem Strand.pushBelt_wait (x : Strand) (v : Word) : (x.pushBelt v).wait = x.wait := rfl
@[simp] theorem Strand.pushBelt_divider (x : Strand) (v : Word) : (x.pushBelt v).divider = x.divider := rfl
@[simp] theorem Strand.pushBelt_lastL (x : Strand) (v : Word) : (x.pushBelt v).lastL = x.lastL := rfl
@[simp] theorem Strand.pushBelt_fences (x : Strand) (v : Word) : (x.pushBelt v).fences = x.fences := rfl
@[simp] theorem Strand.pushBelt_arrived (x : Strand) (v : Word) : (x.pushBelt v).arrived = x.arrived := rfl
@[simp] theorem Strand.pushBelt_released (x : Strand) (v : Word) : (x.pushBelt v).released = x.released := rfl
@[simp] theorem Strand.pushBelt_sent (x : Strand) (v : Word) : (x.pushBelt v).sent = x.sent := rfl
@[simp] theorem Strand.pushBelt_reserves (x : Strand) (v : Word) : (x.pushBelt v).reserves = x.reserves := rfl
@[simp] theorem Strand.pushBelt_debugUnposted (x : Strand) (v : Word) : (x.pushBelt v).debugUnposted = x.debugUnposted := rfl
@[simp] theorem Strand.pushBelt_notified (x : Strand) (v : Word) : (x.pushBelt v).notified = x.notified := rfl

/-! ### Strand.useDiv: only the divider -/

@[simp] theorem Strand.useDiv_status (x : Strand) (u : Nat) : (x.useDiv u).status = x.status := rfl
@[simp] theorem Strand.useDiv_pc (x : Strand) (u : Nat) : (x.useDiv u).pc = x.pc := rfl
@[simp] theorem Strand.useDiv_belt (x : Strand) (u : Nat) : (x.useDiv u).belt = x.belt := rfl
@[simp] theorem Strand.useDiv_n (x : Strand) (u : Nat) : (x.useDiv u).n = x.n := rfl
@[simp] theorem Strand.useDiv_v (x : Strand) (u : Nat) : (x.useDiv u).v = x.v := rfl
@[simp] theorem Strand.useDiv_sc (x : Strand) (u : Nat) : (x.useDiv u).sc = x.sc := rfl
@[simp] theorem Strand.useDiv_em (x : Strand) (u : Nat) : (x.useDiv u).em = x.em := rfl
@[simp] theorem Strand.useDiv_cm (x : Strand) (u : Nat) : (x.useDiv u).cm = x.cm := rfl
@[simp] theorem Strand.useDiv_ctime (x : Strand) (u : Nat) : (x.useDiv u).ctime = x.ctime := rfl
@[simp] theorem Strand.useDiv_phasen (x : Strand) (u : Nat) : (x.useDiv u).phasen = x.phasen := rfl
@[simp] theorem Strand.useDiv_strandId (x : Strand) (u : Nat) : (x.useDiv u).strandId = x.strandId := rfl
@[simp] theorem Strand.useDiv_world (x : Strand) (u : Nat) : (x.useDiv u).world = x.world := rfl
@[simp] theorem Strand.useDiv_repActive (x : Strand) (u : Nat) : (x.useDiv u).repActive = x.repActive := rfl
@[simp] theorem Strand.useDiv_repCount (x : Strand) (u : Nat) : (x.useDiv u).repCount = x.repCount := rfl
@[simp] theorem Strand.useDiv_repIndex (x : Strand) (u : Nat) : (x.useDiv u).repIndex = x.repIndex := rfl
@[simp] theorem Strand.useDiv_repStep (x : Strand) (u : Nat) : (x.useDiv u).repStep = x.repStep := rfl
@[simp] theorem Strand.useDiv_repAddr (x : Strand) (u : Nat) : (x.useDiv u).repAddr = x.repAddr := rfl
@[simp] theorem Strand.useDiv_lc (x : Strand) (u : Nat) : (x.useDiv u).lc = x.lc := rfl
@[simp] theorem Strand.useDiv_fault (x : Strand) (u : Nat) : (x.useDiv u).fault = x.fault := rfl
@[simp] theorem Strand.useDiv_faddr (x : Strand) (u : Nat) : (x.useDiv u).faddr = x.faddr := rfl
@[simp] theorem Strand.useDiv_fcount (x : Strand) (u : Nat) : (x.useDiv u).fcount = x.fcount := rfl
@[simp] theorem Strand.useDiv_sync (x : Strand) (u : Nat) : (x.useDiv u).sync = x.sync := rfl
@[simp] theorem Strand.useDiv_regions (x : Strand) (u : Nat) : (x.useDiv u).regions = x.regions := rfl
@[simp] theorem Strand.useDiv_held (x : Strand) (u : Nat) : (x.useDiv u).held = x.held := rfl
@[simp] theorem Strand.useDiv_past (x : Strand) (u : Nat) : (x.useDiv u).past = x.past := rfl
@[simp] theorem Strand.useDiv_reports (x : Strand) (u : Nat) : (x.useDiv u).reports = x.reports := rfl
@[simp] theorem Strand.useDiv_freshAt (x : Strand) (u : Nat) : (x.useDiv u).freshAt = x.freshAt := rfl
@[simp] theorem Strand.useDiv_fresh (x : Strand) (u : Nat) : (x.useDiv u).fresh = x.fresh := rfl
@[simp] theorem Strand.useDiv_owed (x : Strand) (u : Nat) : (x.useDiv u).owed = x.owed := rfl
@[simp] theorem Strand.useDiv_wait (x : Strand) (u : Nat) : (x.useDiv u).wait = x.wait := rfl
@[simp] theorem Strand.useDiv_divider (x : Strand) (u : Nat) : (x.useDiv u).divider = SMap.set x.divider u x.ctime := rfl
@[simp] theorem Strand.useDiv_lastL (x : Strand) (u : Nat) : (x.useDiv u).lastL = x.lastL := rfl
@[simp] theorem Strand.useDiv_fences (x : Strand) (u : Nat) : (x.useDiv u).fences = x.fences := rfl
@[simp] theorem Strand.useDiv_arrived (x : Strand) (u : Nat) : (x.useDiv u).arrived = x.arrived := rfl
@[simp] theorem Strand.useDiv_released (x : Strand) (u : Nat) : (x.useDiv u).released = x.released := rfl
@[simp] theorem Strand.useDiv_sent (x : Strand) (u : Nat) : (x.useDiv u).sent = x.sent := rfl
@[simp] theorem Strand.useDiv_reserves (x : Strand) (u : Nat) : (x.useDiv u).reserves = x.reserves := rfl
@[simp] theorem Strand.useDiv_debugUnposted (x : Strand) (u : Nat) : (x.useDiv u).debugUnposted = x.debugUnposted := rfl
@[simp] theorem Strand.useDiv_notified (x : Strand) (u : Nat) : (x.useDiv u).notified = x.notified := rfl

end Sys2Proof.Machine
end

