-- ==== Sys2Proof/Laws/Places.lean ====
section
/-! SUPPORT. What stands in a place of the state after another place, or the same, was written: cores, strands, worlds, pseudo-channels, rings. -/

namespace Sys2Proof.Machine

open Sys2Proof

/-! ### Cores and strands -/

@[simp] theorem State.coreAt_setCore_same (s : State) (c : Nat) (k : Core) : (s.setCore c k).coreAt c = k := by
  simp [State.coreAt]

theorem State.coreAt_setCore_ne (s : State) {c d : Nat} (k : Core) (h : d ≠ c) : (s.setCore c k).coreAt d = s.coreAt d := by
  simp [State.coreAt, SMap.get_set_ne _ _ _ h]

@[simp] theorem State.setCore_setCore (s : State) (c : Nat) (k l : Core) : (s.setCore c k).setCore c l = s.setCore c l := by
  simp [State.setCore]

@[simp] theorem Core.strandAt_setStrand_same (k : Core) (t : Nat) (x : Strand) : (k.setStrand t x).strandAt t = x := by
  simp [Core.strandAt]

theorem Core.strandAt_setStrand_ne (k : Core) {t u : Nat} (x : Strand) (h : u ≠ t) : (k.setStrand t x).strandAt u = k.strandAt u := by
  simp [Core.strandAt, SMap.get_set_ne _ _ _ h]

@[simp] theorem State.strandAt_setStrandAt_same (s : State) (c t : Nat) (x : Strand) : (s.setStrandAt c t x).strandAt c t = x := by
  simp [State.strandAt, State.setStrandAt]

theorem State.strandAt_setStrandAt_ne (s : State) {c t d u : Nat} (x : Strand) (h : d ≠ c ∨ u ≠ t) :
    (s.setStrandAt c t x).strandAt d u = s.strandAt d u := by
  by_cases e : d = c
  · subst e
    have hu : u ≠ t := h.resolve_left fun h => h rfl
    simp [State.strandAt, State.setStrandAt, Core.strandAt_setStrand_ne _ x hu]
  · simp [State.strandAt, State.setStrandAt, State.coreAt_setCore_ne s _ e]

@[simp] theorem State.strand_putStrand (s : State) (x : Strand) : (s.putStrand x).strand = x := by
  simp [State.strand, State.putStrand, State.setStrandAt, State.strandAt]

@[simp] theorem State.core_putCore (s : State) (k : Core) : (s.putCore k).core = k := by
  simp [State.core, State.putCore]

@[simp] theorem State.strand_verdict (s : State) (v : Verdict) : (s.verdict v).strand = s.strand := rfl
@[simp] theorem State.core_verdict (s : State) (v : Verdict) : (s.verdict v).core = s.core := rfl
@[simp] theorem State.coreAt_verdict (s : State) (v : Verdict) (c : Nat) : (s.verdict v).coreAt c = s.coreAt c := rfl
@[simp] theorem State.coreAt_setWorld (s : State) (w : Nat) (x : World) (c : Nat) : (s.setWorld w x).coreAt c = s.coreAt c := rfl
@[simp] theorem State.coreAt_setPc (s : State) (k : Nat) (p : Pc) (c : Nat) : (s.setPc k p).coreAt c = s.coreAt c := rfl

/-! ### Worlds, pseudo-channels, rings -/

@[simp] theorem State.worldAt_setWorld_same (s : State) (w : Nat) (x : World) : (s.setWorld w x).worldAt w = x := by
  simp [State.worldAt]

theorem State.worldAt_setWorld_ne (s : State) {w v : Nat} (x : World) (h : v ≠ w) : (s.setWorld w x).worldAt v = s.worldAt v := by
  simp [State.worldAt, SMap.get_set_ne _ _ _ h]

@[simp] theorem State.setWorld_setWorld (s : State) (w : Nat) (x y : World) : (s.setWorld w x).setWorld w y = s.setWorld w y := by
  simp [State.setWorld]

@[simp] theorem State.worldAt_setCore (s : State) (c : Nat) (k : Core) (w : Nat) : (s.setCore c k).worldAt w = s.worldAt w := rfl

@[simp] theorem State.pcAt_setPc_same (s : State) (k : Nat) (p : Pc) : (s.setPc k p).pcAt k = p := by
  simp [State.pcAt]

theorem State.pcAt_setPc_ne (s : State) {k j : Nat} (p : Pc) (h : j ≠ k) : (s.setPc k p).pcAt j = s.pcAt j := by
  simp [State.pcAt, SMap.get_set_ne _ _ _ h]

@[simp] theorem State.pcAt_setCore (s : State) (c : Nat) (k : Core) (j : Nat) : (s.setCore c k).pcAt j = s.pcAt j := rfl

@[simp] theorem Core.ring_setRing_same (k : Core) (q : Nat) (r : Ring) : (k.setRing q r).ring q = r := by
  simp [Core.ring]

theorem Core.ring_setRing_ne (k : Core) {q p : Nat} (r : Ring) (h : p ≠ q) : (k.setRing q r).ring p = k.ring p := by
  simp [Core.ring, SMap.get_set_ne _ _ _ h]

end Sys2Proof.Machine
end

