-- ==== Sys2Proof/Laws/Outcomes.lean ====
section
/-! SUPPORT. What the shared ways to end a syllable can answer: a held result, a flight, a retirement, a block, a precise fault. A proof about an instruction cites these and unfolds none of them. -/

namespace Sys2Proof.Machine

open Sys2Proof

/-! ### Precise faults -/

theorem State.fault_eq (s : State) (code : Nat) : s.fault code = .next (s.takePrecise (s.precise code 0)) := rfl

theorem State.faultD_eq (s : State) (code detail : Nat) : s.faultD code detail = .next (s.takePrecise (s.precise code detail)) := rfl

@[simp] theorem State.takePrecise_verdict (s : State) (f : FaultRec) : (s.takePrecise f).cur.verdict = .faulted := rfl

@[simp] theorem State.takePrecise_raised (s : State) (f : FaultRec) : (s.takePrecise f).cur.raised = some f := rfl

/-! ### Scalar results -/

theorem dstReg_eq (d : R5) : dstReg d = if d.toNat ≤ 15 then some d.toNat else none := by
  unfold dstReg
  by_cases h : d.toNat ≤ 15
  · rw [if_pos h, if_pos (by omega)]
  · rw [if_neg h, if_neg (by omega)]

theorem Strand.holdAll_eq (x : Strand) (due : Nat) (arrive : List (BitVec 4)) (ls : List Landing) :
    x.holdAll due arrive ls = { x with held := x.held ++ heldResults due arrive ls } := by
  induction ls generalizing x with
  | nil => simp [Strand.holdAll, heldResults]
  | cons l ls ih =>
    cases ls with
    | nil => rfl
    | cons l2 ls =>
      rw [Strand.holdAll.eq_3 _ _ _ _ _ (by simp), ih]
      simp [heldResults, Strand.holdScalar, Strand.hold]

/-- Results of latency `lat`: held where there is room, else SCHED (R33). -/
theorem State.hold_eq (s : State) (lat : Nat) (ls : List Landing) :
    (s.room ls.length → s.hold lat ls = .next (s.holds lat ls))
    ∧ (¬ s.room ls.length → s.hold lat ls = .next (s.takePrecise (s.precise cSched 0))) := by
  unfold State.room State.hold
  refine ⟨fun h => ?_, fun h => ?_⟩
  · rw [if_neg (by omega), Strand.holdAll_eq]; rfl
  · rw [if_pos (by omega)]; rfl

theorem State.result_eq (s : State) (d : R5) (lat : Nat) (v : Word) (h : s.room 1) : s.result d lat v = .next (s.gives d lat v) := by
  unfold State.result
  rw [(State.hold_eq s lat [.push v (dstReg d)]).1 h, dstReg_eq]
  rfl

theorem State.result_full (s : State) (d : R5) (lat : Nat) (v : Word) (h : ¬ s.room 1) :
    s.result d lat v = .next (s.takePrecise (s.precise cSched 0)) :=
  (State.hold_eq s lat [.push v (dstReg d)]).2 h

/-! ### Dividers -/

theorem Strand.divBusy_eq (s : State) (unit n : Nat) : s.strand.divBusy unit n = false ↔ s.divFree unit n := by
  unfold Strand.divBusy State.divFree
  split
  · next t h => simp [h]
  · next h => simp [h]

theorem State.divResult_eq (s : State) (d : R5) (unit n lat : Nat) (v : Word) (hr : s.room 1) (hd : s.divFree unit n) :
    s.divResult d unit n lat v = .next (s.givesDiv unit d lat v) := by
  unfold State.divResult
  unfold State.room at hr
  rw [if_neg (by rw [(Strand.divBusy_eq s unit n).2 hd]; simp), if_neg (by omega), Strand.holdAll_eq, dstReg_eq]
  rfl

theorem State.divResult_busy (s : State) (d : R5) (unit n lat : Nat) (v : Word) (hd : ¬ s.divFree unit n) :
    s.divResult d unit n lat v = .next (s.takePrecise (s.precise cSched 0)) := by
  unfold State.divResult
  rw [if_pos (by
    cases h : s.strand.divBusy unit n with
    | true => rfl
    | false => exact absurd ((Strand.divBusy_eq s unit n).1 h) hd)]
  rfl

theorem State.divResult_full (s : State) (d : R5) (unit n lat : Nat) (v : Word) (h : ¬ s.room 1) :
    s.divResult d unit n lat v = .next (s.takePrecise (s.precise cSched 0)) := by
  unfold State.divResult
  unfold State.room at h
  split
  · rfl
  · rw [if_pos (by omega)]; rfl

/-! ### Flights -/

theorem State.startFlight_eq (s : State) (f : Flight) (h : s.room 1) : s.startFlight f = .next (s.starts f true) := by
  unfold State.startFlight
  unfold State.room at h
  rw [if_neg (by omega)]
  rfl

theorem State.startFlight_full (s : State) (f : Flight) (h : ¬ s.room 1) : s.startFlight f = .next (s.takePrecise (s.precise cSched 0)) := by
  unfold State.startFlight
  unfold State.room at h
  rw [if_pos (by omega)]
  rfl

/-! ### Retirement and blocking -/

theorem State.retire_eq (s : State) : s.retire = .next s.retires := rfl

theorem State.block_eq (s : State) : s.block = .next (s.verdict .blocked) := rfl

theorem State.ok_eq (s : State) : s.ok = .next (s.verdict .ok) := rfl

/-! ### Dispatch -/

/-- A syllable run inside the machine is exec of it. -/
theorem runSyl_exec (i : Instr) (s : State) (h : i.homeSlot.isSome = true) : runSyl i s = exec i s := by
  cases i <;> first | rfl | exact Bool.noConfusion h

/-! ### Reads of the scratchpad -/

/-- Without a verification mode the cells are delivered as they are (R349). -/
theorem stuckBit_off (v : Word) (h : vctlEn v = false) (a : Nat) (b : Byte) : stuckBit v a b = b := by
  unfold stuckBit; simp [h]

/-- A line's bytes as a reader of a sound line sees them. -/
theorem Core.byteAt_unwritten (k : Core) (l : Nat) (h : (k.line l).written = false) :
    List.replicate 64 (0 : Byte) = (List.range 64).map fun j => k.byteAt (l * 64 + j) := by
  rw [eq_comm, List.eq_replicate_iff]
  refine ⟨by rw [List.length_map, List.length_range], fun b hb => ?_⟩
  obtain ⟨j, hj, rfl⟩ := List.mem_map.1 hb
  have : (l * 64 + j) / 64 = l := by have := List.mem_range.1 hj; omega
  unfold Core.byteAt; rw [this, h]; rfl

theorem Core.byteAt_written (k : Core) (l : Nat) (h : (k.line l).written = true) :
    Memory.readN k.spad (l * 64) 64 = (List.range 64).map fun j => k.byteAt (l * 64 + j) := by
  unfold Memory.readN
  refine List.map_congr_left fun j hj => ?_
  have : (l * 64 + j) / 64 = l := by have := List.mem_range.1 hj; omega
  unfold Core.byteAt; rw [this, h]; rfl

/-- A read of a sound line gives its bytes and reports nothing (R89, R135 to R137). -/
theorem State.readLine_sound (s : State) (c world l : Nat) (v : Word) (hv : vctlEn v = false) (h : (s.coreAt c).sound world l) :
    s.readLine c world l v = ⟨(List.range 64).map fun j => (s.coreAt c).byteAt (l * 64 + j), [], s.setCore c (s.coreAt c)⟩ := by
  obtain ⟨h1, h2, h3, -⟩ := h
  have ht : vctlLineTgt v = false := by unfold vctlLineTgt; rw [hv]; rfl
  have hm : Ecc.sound.multiple = [] := by decide
  have hs : Ecc.sound.single = [] := by decide
  have he : ∀ m : LineMeta, m.err = Ecc.sound → m.poison = false → m.tag = world →
      ({ tag := world, poison := false, written := m.written, err := Ecc.sound } : LineMeta) = m := by
    intro m a b d; cases m; simp_all
  unfold State.readLine State.readLineWith
  simp only [ht, Bool.false_and, Bool.false_eq_true, if_false, h1, h2, h3, hm, hs, List.isEmpty_nil, Bool.not_true, Bool.or_false,
    bne_self_eq_false, List.append_nil, List.foldl_nil, Bool.false_or, he _ h1 h2 h3, ite_true]
  cases hw : ((s.coreAt c).line l).written with
  | false => rw [Core.byteAt_unwritten _ _ hw]; rfl
  | true =>
    rw [← Core.byteAt_written _ _ hw]
    simp [stuckBit_off _ hv]

/-- Reads of sound lines one after the other (R349). -/
theorem State.readLines_sound (c world : Nat) (v : Word) (hv : vctlEn v = false) (n : Nat) : ∀ (s : State) (l : Nat), (∀ i, i < n → (s.coreAt c).sound world (l + i)) →
    s.readLines c world v l n = ⟨(List.range (64 * n)).map fun j => (s.coreAt c).byteAt (l * 64 + j), [],
      if n = 0 then s else s.setCore c (s.coreAt c)⟩ := by
  induction n with
  | zero => intro s l _; rfl
  | succ n ih =>
    intro s l h
    have h0 : (s.coreAt c).sound world l := h 0 (by omega)
    have hr := ih (s.setCore c (s.coreAt c)) (l + 1) (fun i hi => by
      rw [State.coreAt_setCore_same]; have := h (i + 1) (by omega); rwa [show l + 1 + i = l + (i + 1) by omega])
    unfold State.readLines
    rw [State.readLine_sound s c world l v hv h0]
    simp only [hr, State.coreAt_setCore_same, State.setCore_setCore, List.nil_append, ite_self]
    rw [show 64 * (n + 1) = 64 + 64 * n by omega, List.range_add, List.map_append, List.map_map]
    have : (fun j => (s.coreAt c).byteAt ((l + 1) * 64 + j)) = (fun j => (s.coreAt c).byteAt (l * 64 + j)) ∘ (64 + ·) := by
      funext j; show _ = (s.coreAt c).byteAt (l * 64 + (64 + j)); rw [show l * 64 + (64 + j) = (l + 1) * 64 + j by omega]
    rw [this, if_neg (by omega)]

/-- A read of the scratchpad over sound lines gives the bytes there, and nothing to report (R89, R135 to R137). -/
theorem State.readSpad_sound (s : State) (c world a n : Nat) (v : Word) (hv : vctlEn v = false) (hn : 0 < n) (h : ∀ l, a / 64 ≤ l → l ≤ (a + n - 1) / 64 → (s.coreAt c).sound world l) :
    s.readSpad c world a n v = ⟨(List.range n).map fun j => (s.coreAt c).byteAt (a + j), [], s.setCore c (s.coreAt c)⟩ := by
  unfold State.readSpad
  rw [if_neg (by simp; omega)]
  simp only
  rw [State.readLines_sound c world v hv _ s (a / 64) (fun i hi => h _ (by omega) (by omega)), if_neg (by omega)]
  congr 1
  rw [← List.map_drop, ← List.map_take]
  apply List.ext_getElem
  · simp; omega
  · intro i hi _
    simp at hi ⊢
    congr 1
    omega
/-! ### Turns -/

/-- A wait whose test has passed only retires (R29). -/
theorem wait_retires (i : Instr) (s u : State) (h : exec i s = .next u) (hv : u.cur.verdict = .ok) (hw : isWait i = true) : u = s.retires := by
  cases i <;> simp [isWait] at hw
  case qwait q n =>
    simp only [exec, execQwait] at h
    split at h
    · rw [State.fault_eq] at h; cases h; simp at hv
    · split at h
      · rw [State.block_eq] at h; cases h; simp [State.verdict] at hv
      · rw [State.retire_eq] at h; cases h; rfl
  case swwait k g =>
    simp only [exec, execSwwait] at h
    split at h
    · rw [State.fault_eq] at h; cases h; simp at hv
    · split at h
      · rw [State.fault_eq] at h; cases h; simp at hv
      · split at h
        · rw [State.block_eq] at h; cases h; simp [State.verdict] at hv
        · rw [State.retire_eq] at h; cases h; rfl

/-- A turn of a core is its cycle. -/
theorem step_cycle (s : State) (c : Nat) (us : List Turn) (hst : s.stopped = false) (htu : s.turns = .cycle c :: us) :
    step s = .next ((s.withTurns us).takeCycle c) := by
  unfold step State.takeTurn State.withTurns
  rw [htu, if_neg (by simp [hst])]; rfl

/-- A cycle of a core that has come is taken (R3). -/
theorem takeCycle_due (s : State) (c : Nat) (h : 0 < (s.coreAt c).due) : s.takeCycle c = (s.spendDue c).coreCycle c := by
  unfold State.takeCycle State.cycleDue
  rw [if_pos (by simpa using h)]

/-- No cycle of a core that has not come is taken (R3). -/
theorem takeCycle_idle (s : State) (c : Nat) (h : (s.coreAt c).due = 0) : s.takeCycle c = s := by
  unfold State.takeCycle State.cycleDue
  rw [if_neg (by simp [h])]

/-- The cycle of a core that runs a strand (R299, R300). -/
theorem coreCycle_run (s : State) (c t : Nat) (e : State × List Nat) (he : e = s.beforeRun c) (h1 : (s.coreAt c).wg.isSome = true)
    (h2 : s.resync.contains c = false) (hsel : (e.1.coreAt c).select e.2 = some t) :
    s.coreCycle c = ((e.1.modCore c fun k => k.countWaits e.2 (some t)).runStrand c t).endCycle c := by
  unfold State.coreCycle State.cycles
  rw [h1, h2]
  simp only [Bool.not_false, Bool.and_self, Bool.not_true, Bool.false_eq_true, if_false, ← he, hsel]

/-- An access for a bank's latch (R142). -/
theorem State.pendL_eq (s : State) (bank cls : Nat) (op : LOp) (arrive : List (BitVec 4)) : s.pendL bank cls op arrive = s.latches bank cls op arrive := rfl

/-! ### Error events -/

@[simp] theorem State.putSys_eseq (s : State) (a : Nat) (bs : List Byte) (p : Bool) : (s.putSys a bs p).eseq = s.eseq := rfl
@[simp] theorem State.putSys_ecnt (s : State) (a : Nat) (bs : List Byte) (p : Bool) : (s.putSys a bs p).ecnt = s.ecnt := rfl

theorem State.sysWrite_cases (s : State) (world va : Nat) (bs : List Byte) :
    s.sysWrite world va bs = s ∨ ∃ a, s.sysWrite world va bs = s.putSys a bs false := by
  unfold State.sysWrite
  split
  · exact .inr ⟨_, rfl⟩
  · exact .inl rfl

@[simp] theorem State.sysWrite_eseq (s : State) (world va : Nat) (bs : List Byte) : (s.sysWrite world va bs).eseq = s.eseq := by
  rcases State.sysWrite_cases s world va bs with h | ⟨a, h⟩ <;> rw [h]
  rfl

@[simp] theorem State.sysWrite_ecnt (s : State) (world va : Nat) (bs : List Byte) : (s.sysWrite world va bs).ecnt = s.ecnt := by
  rcases State.sysWrite_cases s world va bs with h | ⟨a, h⟩ <;> rw [h]
  rfl

/-- The entries that an event writes leave the number of events and the counters (R345). -/
theorem writeEntries_counts (at_ seq : Nat → Word) (xs : List (LogLine × Nat)) : ∀ s : State,
    (xs.foldl (fun (s : State) x => s.writeEntry (at_ x.2) (seq x.2) x.1.bytes) s).eseq = s.eseq
      ∧ (xs.foldl (fun (s : State) x => s.writeEntry (at_ x.2) (seq x.2) x.1.bytes) s).ecnt = s.ecnt := by
  induction xs with
  | nil => exact fun s => ⟨rfl, rfl⟩
  | cons x xs ih =>
    intro s
    have h := ih (s.writeEntry (at_ x.2) (seq x.2) x.1.bytes)
    rw [List.foldl_cons, h.1, h.2]
    exact ⟨State.sysWrite_eseq .., State.sysWrite_ecnt ..⟩

/-- An error event takes the next sequence number (R343). -/
@[simp] theorem State.errorEvent_eseq (s : State) (e : ErrEvent) : (s.errorEvent e).eseq = s.eseq + 1 :=
  (writeEntries_counts (fun i => s.elogHead - word s.loggedNow + word i) (fun i => s.eseq - word s.thisTick.length + 1 + word i) _ _).1

/-- An error event raises the counter of its category and no other (R343). -/
@[simp] theorem State.errorEvent_ecnt (s : State) (e : ErrEvent) :
    (s.errorEvent e).ecnt = SMap.set s.ecnt e.cat (SMap.get s.ecnt 0 e.cat + 1) :=
  (writeEntries_counts (fun i => s.elogHead - word s.loggedNow + word i) (fun i => s.eseq - word s.thisTick.length + 1 + word i) _ _).2

/-- An error event of one of the eight categories keeps ESEQ the sum of the counters (R343). -/
theorem State.errorEvent_counted (s : State) (e : ErrEvent) (hc : e.cat < 8) (h : s.errorsCounted) : (s.errorEvent e).errorsCounted := by
  unfold State.errorsCounted at *
  rw [State.errorEvent_eseq, State.errorEvent_ecnt, h]
  have hr : List.range 8 = [0, 1, 2, 3, 4, 5, 6, 7] := rfl
  simp only [hr, List.foldl]
  generalize e.cat = c at *
  have g : ∀ j, SMap.get (SMap.set s.ecnt c (SMap.get s.ecnt 0 c + 1)) 0 j = SMap.get s.ecnt 0 j + if j = c then 1 else 0 := by
    intro j
    by_cases hj : j = c
    · subst hj; simp
    · simp [SMap.get_set_ne _ _ _ hj, hj]
  simp only [g]
  have : c = 0 ∨ c = 1 ∨ c = 2 ∨ c = 3 ∨ c = 4 ∨ c = 5 ∨ c = 6 ∨ c = 7 := by omega
  rcases this with rfl | rfl | rfl | rfl | rfl | rfl | rfl | rfl <;> simp <;> ac_rfl

end Sys2Proof.Machine
end

