-- ==== Sys2Proof/Laws/PerInstr.lean ====
section
/-! SUPPORT. Facts about every instruction as syntax, one lemma per constructor. -/

namespace Sys2Proof.Laws

set_option Elab.async false

open Sys2Proof

/-- An instruction has words in no slot class but that of its home slot; only nop has a word in every class (R11, R24). -/
def Homed.Statement (i : Instr) : Prop := ∀ cls w, encode cls i = some w → i = .nop ∨ i.homeSlot.map Slot.cls = some cls

theorem Homed.nop : Homed.Statement .nop := fun _ _ _ => .inl rfl

theorem Homed.add (f : SR) : Homed.Statement (.add f) := by
  intro cls _ h
  cases cls <;> first | exact .inr rfl | exact nomatch h

theorem Homed.sub (f : SR) : Homed.Statement (.sub f) := by
  intro cls _ h
  cases cls <;> first | exact .inr rfl | exact nomatch h

theorem Homed.mul (f : SR) : Homed.Statement (.mul f) := by
  intro cls _ h
  cases cls <;> first | exact .inr rfl | exact nomatch h

theorem Homed.mulh (f : SR) : Homed.Statement (.mulh f) := by
  intro cls _ h
  cases cls <;> first | exact .inr rfl | exact nomatch h

theorem Homed.mulhu (f : SR) : Homed.Statement (.mulhu f) := by
  intro cls _ h
  cases cls <;> first | exact .inr rfl | exact nomatch h

theorem Homed.div (f : SR) : Homed.Statement (.div f) := by
  intro cls _ h
  cases cls <;> first | exact .inr rfl | exact nomatch h

theorem Homed.divu (f : SR) : Homed.Statement (.divu f) := by
  intro cls _ h
  cases cls <;> first | exact .inr rfl | exact nomatch h

theorem Homed.rem (f : SR) : Homed.Statement (.rem f) := by
  intro cls _ h
  cases cls <;> first | exact .inr rfl | exact nomatch h

theorem Homed.remu (f : SR) : Homed.Statement (.remu f) := by
  intro cls _ h
  cases cls <;> first | exact .inr rfl | exact nomatch h

theorem Homed.and (f : SR) : Homed.Statement (.and f) := by
  intro cls _ h
  cases cls <;> first | exact .inr rfl | exact nomatch h

theorem Homed.or (f : SR) : Homed.Statement (.or f) := by
  intro cls _ h
  cases cls <;> first | exact .inr rfl | exact nomatch h

theorem Homed.xor (f : SR) : Homed.Statement (.xor f) := by
  intro cls _ h
  cases cls <;> first | exact .inr rfl | exact nomatch h

theorem Homed.shl (f : SR) : Homed.Statement (.shl f) := by
  intro cls _ h
  cases cls <;> first | exact .inr rfl | exact nomatch h

theorem Homed.shr (f : SR) : Homed.Statement (.shr f) := by
  intro cls _ h
  cases cls <;> first | exact .inr rfl | exact nomatch h

theorem Homed.sra (f : SR) : Homed.Statement (.sra f) := by
  intro cls _ h
  cases cls <;> first | exact .inr rfl | exact nomatch h

theorem Homed.rotr (f : SR) : Homed.Statement (.rotr f) := by
  intro cls _ h
  cases cls <;> first | exact .inr rfl | exact nomatch h

theorem Homed.min (f : SR) : Homed.Statement (.min f) := by
  intro cls _ h
  cases cls <;> first | exact .inr rfl | exact nomatch h

theorem Homed.max (f : SR) : Homed.Statement (.max f) := by
  intro cls _ h
  cases cls <;> first | exact .inr rfl | exact nomatch h

theorem Homed.minu (f : SR) : Homed.Statement (.minu f) := by
  intro cls _ h
  cases cls <;> first | exact .inr rfl | exact nomatch h

theorem Homed.maxu (f : SR) : Homed.Statement (.maxu f) := by
  intro cls _ h
  cases cls <;> first | exact .inr rfl | exact nomatch h

theorem Homed.seq (f : SR) : Homed.Statement (.seq f) := by
  intro cls _ h
  cases cls <;> first | exact .inr rfl | exact nomatch h

theorem Homed.sne (f : SR) : Homed.Statement (.sne f) := by
  intro cls _ h
  cases cls <;> first | exact .inr rfl | exact nomatch h

theorem Homed.slt (f : SR) : Homed.Statement (.slt f) := by
  intro cls _ h
  cases cls <;> first | exact .inr rfl | exact nomatch h

theorem Homed.sltu (f : SR) : Homed.Statement (.sltu f) := by
  intro cls _ h
  cases cls <;> first | exact .inr rfl | exact nomatch h

theorem Homed.sel (f : SR) : Homed.Statement (.sel f) := by
  intro cls _ h
  cases cls <;> first | exact .inr rfl | exact nomatch h

theorem Homed.clz (f : SR) : Homed.Statement (.clz f) := by
  intro cls _ h
  cases cls <;> first | exact .inr rfl | exact nomatch h

theorem Homed.ctz (f : SR) : Homed.Statement (.ctz f) := by
  intro cls _ h
  cases cls <;> first | exact .inr rfl | exact nomatch h

theorem Homed.popc (f : SR) : Homed.Statement (.popc f) := by
  intro cls _ h
  cases cls <;> first | exact .inr rfl | exact nomatch h

theorem Homed.mov (f : SR) : Homed.Statement (.mov f) := by
  intro cls _ h
  cases cls <;> first | exact .inr rfl | exact nomatch h

theorem Homed.padd (f : SR) : Homed.Statement (.padd f) := by
  intro cls _ h
  cases cls <;> first | exact .inr rfl | exact nomatch h

theorem Homed.addi (f : SI) : Homed.Statement (.addi f) := by
  intro cls _ h
  cases cls <;> first | exact .inr rfl | exact nomatch h

theorem Homed.andi (f : SI) : Homed.Statement (.andi f) := by
  intro cls _ h
  cases cls <;> first | exact .inr rfl | exact nomatch h

theorem Homed.ori (f : SI) : Homed.Statement (.ori f) := by
  intro cls _ h
  cases cls <;> first | exact .inr rfl | exact nomatch h

theorem Homed.xori (f : SI) : Homed.Statement (.xori f) := by
  intro cls _ h
  cases cls <;> first | exact .inr rfl | exact nomatch h

theorem Homed.shli (f : SI) : Homed.Statement (.shli f) := by
  intro cls _ h
  cases cls <;> first | exact .inr rfl | exact nomatch h

theorem Homed.shri (f : SI) : Homed.Statement (.shri f) := by
  intro cls _ h
  cases cls <;> first | exact .inr rfl | exact nomatch h

theorem Homed.srai (f : SI) : Homed.Statement (.srai f) := by
  intro cls _ h
  cases cls <;> first | exact .inr rfl | exact nomatch h

theorem Homed.rotri (f : SI) : Homed.Statement (.rotri f) := by
  intro cls _ h
  cases cls <;> first | exact .inr rfl | exact nomatch h

theorem Homed.slti (f : SI) : Homed.Statement (.slti f) := by
  intro cls _ h
  cases cls <;> first | exact .inr rfl | exact nomatch h

theorem Homed.sltui (f : SI) : Homed.Statement (.sltui f) := by
  intro cls _ h
  cases cls <;> first | exact .inr rfl | exact nomatch h

theorem Homed.seqi (f : SI) : Homed.Statement (.seqi f) := by
  intro cls _ h
  cases cls <;> first | exact .inr rfl | exact nomatch h

theorem Homed.ptag (f : SI) : Homed.Statement (.ptag f) := by
  intro cls _ h
  cases cls <;> first | exact .inr rfl | exact nomatch h

theorem Homed.li (f : SL) : Homed.Statement (.li f) := by
  intro cls _ h
  cases cls <;> first | exact .inr rfl | exact nomatch h

theorem Homed.lcat (f : SL) : Homed.Statement (.lcat f) := by
  intro cls _ h
  cases cls <;> first | exact .inr rfl | exact nomatch h

theorem Homed.lpc (f : SL) : Homed.Statement (.lpc f) := by
  intro cls _ h
  cases cls <;> first | exact .inr rfl | exact nomatch h

theorem Homed.rng (f : SR) : Homed.Statement (.rng f) := by
  intro cls _ h
  cases cls <;> first | exact .inr rfl | exact nomatch h

theorem Homed.ctradd (f : SR) : Homed.Statement (.ctradd f) := by
  intro cls _ h
  cases cls <;> first | exact .inr rfl | exact nomatch h

theorem Homed.msave (f : SR) : Homed.Statement (.msave f) := by
  intro cls _ h
  cases cls <;> first | exact .inr rfl | exact nomatch h

theorem Homed.mrest (f : SR) : Homed.Statement (.mrest f) := by
  intro cls _ h
  cases cls <;> first | exact .inr rfl | exact nomatch h

theorem Homed.mcomb (f : SR) : Homed.Statement (.mcomb f) := by
  intro cls _ h
  cases cls <;> first | exact .inr rfl | exact nomatch h

theorem Homed.mcm (f : SR) : Homed.Statement (.mcm f) := by
  intro cls _ h
  cases cls <;> first | exact .inr rfl | exact nomatch h

theorem Homed.fadd (f : SR) : Homed.Statement (.fadd f) := by
  intro cls _ h
  cases cls <;> first | exact .inr rfl | exact nomatch h

theorem Homed.fsub (f : SR) : Homed.Statement (.fsub f) := by
  intro cls _ h
  cases cls <;> first | exact .inr rfl | exact nomatch h

theorem Homed.fmul (f : SR) : Homed.Statement (.fmul f) := by
  intro cls _ h
  cases cls <;> first | exact .inr rfl | exact nomatch h

theorem Homed.ffma (f : SR) : Homed.Statement (.ffma f) := by
  intro cls _ h
  cases cls <;> first | exact .inr rfl | exact nomatch h

theorem Homed.fdiv (f : SR) : Homed.Statement (.fdiv f) := by
  intro cls _ h
  cases cls <;> first | exact .inr rfl | exact nomatch h

theorem Homed.fsqrt (f : SR) : Homed.Statement (.fsqrt f) := by
  intro cls _ h
  cases cls <;> first | exact .inr rfl | exact nomatch h

theorem Homed.fmin (f : SR) : Homed.Statement (.fmin f) := by
  intro cls _ h
  cases cls <;> first | exact .inr rfl | exact nomatch h

theorem Homed.fmax (f : SR) : Homed.Statement (.fmax f) := by
  intro cls _ h
  cases cls <;> first | exact .inr rfl | exact nomatch h

theorem Homed.feq (f : SR) : Homed.Statement (.feq f) := by
  intro cls _ h
  cases cls <;> first | exact .inr rfl | exact nomatch h

theorem Homed.flt (f : SR) : Homed.Statement (.flt f) := by
  intro cls _ h
  cases cls <;> first | exact .inr rfl | exact nomatch h

theorem Homed.fle (f : SR) : Homed.Statement (.fle f) := by
  intro cls _ h
  cases cls <;> first | exact .inr rfl | exact nomatch h

theorem Homed.fclass (f : SR) : Homed.Statement (.fclass f) := by
  intro cls _ h
  cases cls <;> first | exact .inr rfl | exact nomatch h

theorem Homed.fcvt (f : SR) : Homed.Statement (.fcvt f) := by
  intro cls _ h
  cases cls <;> first | exact .inr rfl | exact nomatch h

theorem Homed.fabs (f : SR) : Homed.Statement (.fabs f) := by
  intro cls _ h
  cases cls <;> first | exact .inr rfl | exact nomatch h

theorem Homed.fneg (f : SR) : Homed.Statement (.fneg f) := by
  intro cls _ h
  cases cls <;> first | exact .inr rfl | exact nomatch h

theorem Homed.ldB (f : SI) : Homed.Statement (.ldB f) := by
  intro cls _ h
  cases cls <;> first | exact .inr rfl | exact nomatch h

theorem Homed.ldH (f : SI) : Homed.Statement (.ldH f) := by
  intro cls _ h
  cases cls <;> first | exact .inr rfl | exact nomatch h

theorem Homed.ldW (f : SI) : Homed.Statement (.ldW f) := by
  intro cls _ h
  cases cls <;> first | exact .inr rfl | exact nomatch h

theorem Homed.ldD (f : SI) : Homed.Statement (.ldD f) := by
  intro cls _ h
  cases cls <;> first | exact .inr rfl | exact nomatch h

theorem Homed.ldnB (f : SI) : Homed.Statement (.ldnB f) := by
  intro cls _ h
  cases cls <;> first | exact .inr rfl | exact nomatch h

theorem Homed.ldnH (f : SI) : Homed.Statement (.ldnH f) := by
  intro cls _ h
  cases cls <;> first | exact .inr rfl | exact nomatch h

theorem Homed.ldnW (f : SI) : Homed.Statement (.ldnW f) := by
  intro cls _ h
  cases cls <;> first | exact .inr rfl | exact nomatch h

theorem Homed.stB (f : SS) : Homed.Statement (.stB f) := by
  intro cls _ h
  cases cls <;> first | exact .inr rfl | exact nomatch h

theorem Homed.stH (f : SS) : Homed.Statement (.stH f) := by
  intro cls _ h
  cases cls <;> first | exact .inr rfl | exact nomatch h

theorem Homed.stW (f : SS) : Homed.Statement (.stW f) := by
  intro cls _ h
  cases cls <;> first | exact .inr rfl | exact nomatch h

theorem Homed.stD (f : SS) : Homed.Statement (.stD f) := by
  intro cls _ h
  cases cls <;> first | exact .inr rfl | exact nomatch h

theorem Homed.vadd (f : VF) : Homed.Statement (.vadd f) := by
  intro cls _ h
  cases cls <;> first | exact .inr rfl | exact nomatch h

theorem Homed.vsub (f : VF) : Homed.Statement (.vsub f) := by
  intro cls _ h
  cases cls <;> first | exact .inr rfl | exact nomatch h

theorem Homed.vmul (f : VF) : Homed.Statement (.vmul f) := by
  intro cls _ h
  cases cls <;> first | exact .inr rfl | exact nomatch h

theorem Homed.vfma (f : VF) : Homed.Statement (.vfma f) := by
  intro cls _ h
  cases cls <;> first | exact .inr rfl | exact nomatch h

theorem Homed.vfms (f : VF) : Homed.Statement (.vfms f) := by
  intro cls _ h
  cases cls <;> first | exact .inr rfl | exact nomatch h

theorem Homed.vfnma (f : VF) : Homed.Statement (.vfnma f) := by
  intro cls _ h
  cases cls <;> first | exact .inr rfl | exact nomatch h

theorem Homed.vdiv (f : VF) : Homed.Statement (.vdiv f) := by
  intro cls _ h
  cases cls <;> first | exact .inr rfl | exact nomatch h

theorem Homed.vsqrt (f : VF) : Homed.Statement (.vsqrt f) := by
  intro cls _ h
  cases cls <;> first | exact .inr rfl | exact nomatch h

theorem Homed.vmin (f : VF) : Homed.Statement (.vmin f) := by
  intro cls _ h
  cases cls <;> first | exact .inr rfl | exact nomatch h

theorem Homed.vmax (f : VF) : Homed.Statement (.vmax f) := by
  intro cls _ h
  cases cls <;> first | exact .inr rfl | exact nomatch h

theorem Homed.vabs (f : VF) : Homed.Statement (.vabs f) := by
  intro cls _ h
  cases cls <;> first | exact .inr rfl | exact nomatch h

theorem Homed.vneg (f : VF) : Homed.Statement (.vneg f) := by
  intro cls _ h
  cases cls <;> first | exact .inr rfl | exact nomatch h

theorem Homed.vexp2 (f : VF) : Homed.Statement (.vexp2 f) := by
  intro cls _ h
  cases cls <;> first | exact .inr rfl | exact nomatch h

theorem Homed.vlog2 (f : VF) : Homed.Statement (.vlog2 f) := by
  intro cls _ h
  cases cls <;> first | exact .inr rfl | exact nomatch h

theorem Homed.vrcp (f : VF) : Homed.Statement (.vrcp f) := by
  intro cls _ h
  cases cls <;> first | exact .inr rfl | exact nomatch h

theorem Homed.vrsqrt (f : VF) : Homed.Statement (.vrsqrt f) := by
  intro cls _ h
  cases cls <;> first | exact .inr rfl | exact nomatch h

theorem Homed.vand (f : VF) : Homed.Statement (.vand f) := by
  intro cls _ h
  cases cls <;> first | exact .inr rfl | exact nomatch h

theorem Homed.vor (f : VF) : Homed.Statement (.vor f) := by
  intro cls _ h
  cases cls <;> first | exact .inr rfl | exact nomatch h

theorem Homed.vxor (f : VF) : Homed.Statement (.vxor f) := by
  intro cls _ h
  cases cls <;> first | exact .inr rfl | exact nomatch h

theorem Homed.vshl (f : VF) : Homed.Statement (.vshl f) := by
  intro cls _ h
  cases cls <;> first | exact .inr rfl | exact nomatch h

theorem Homed.vshr (f : VF) : Homed.Statement (.vshr f) := by
  intro cls _ h
  cases cls <;> first | exact .inr rfl | exact nomatch h

theorem Homed.vsra (f : VF) : Homed.Statement (.vsra f) := by
  intro cls _ h
  cases cls <;> first | exact .inr rfl | exact nomatch h

theorem Homed.vcmp (f : VF) : Homed.Statement (.vcmp f) := by
  intro cls _ h
  cases cls <;> first | exact .inr rfl | exact nomatch h

theorem Homed.vsel (f : VF) : Homed.Statement (.vsel f) := by
  intro cls _ h
  cases cls <;> first | exact .inr rfl | exact nomatch h

theorem Homed.vcvt (f : VF) : Homed.Statement (.vcvt f) := by
  intro cls _ h
  cases cls <;> first | exact .inr rfl | exact nomatch h

theorem Homed.vbcst (f : VF) : Homed.Statement (.vbcst f) := by
  intro cls _ h
  cases cls <;> first | exact .inr rfl | exact nomatch h

theorem Homed.vmov (f : VF) : Homed.Statement (.vmov f) := by
  intro cls _ h
  cases cls <;> first | exact .inr rfl | exact nomatch h

theorem Homed.vslide (f : VF) : Homed.Statement (.vslide f) := by
  intro cls _ h
  cases cls <;> first | exact .inr rfl | exact nomatch h

theorem Homed.vperm (f : VF) : Homed.Statement (.vperm f) := by
  intro cls _ h
  cases cls <;> first | exact .inr rfl | exact nomatch h

theorem Homed.vscan (f : VF) : Homed.Statement (.vscan f) := by
  intro cls _ h
  cases cls <;> first | exact .inr rfl | exact nomatch h

theorem Homed.vred (f : VF) : Homed.Statement (.vred f) := by
  intro cls _ h
  cases cls <;> first | exact .inr rfl | exact nomatch h

theorem Homed.vpopc (f : VF) : Homed.Statement (.vpopc f) := by
  intro cls _ h
  cases cls <;> first | exact .inr rfl | exact nomatch h

theorem Homed.vdot4 (f : VF) : Homed.Statement (.vdot4 f) := by
  intro cls _ h
  cases cls <;> first | exact .inr rfl | exact nomatch h

theorem Homed.vclass (f : VF) : Homed.Statement (.vclass f) := by
  intro cls _ h
  cases cls <;> first | exact .inr rfl | exact nomatch h

theorem Homed.vadds (f : VF) : Homed.Statement (.vadds f) := by
  intro cls _ h
  cases cls <;> first | exact .inr rfl | exact nomatch h

theorem Homed.vmuls (f : VF) : Homed.Statement (.vmuls f) := by
  intro cls _ h
  cases cls <;> first | exact .inr rfl | exact nomatch h

theorem Homed.vfmas (f : VF) : Homed.Statement (.vfmas f) := by
  intro cls _ h
  cases cls <;> first | exact .inr rfl | exact nomatch h

theorem Homed.vmins (f : VF) : Homed.Statement (.vmins f) := by
  intro cls _ h
  cases cls <;> first | exact .inr rfl | exact nomatch h

theorem Homed.vmaxs (f : VF) : Homed.Statement (.vmaxs f) := by
  intro cls _ h
  cases cls <;> first | exact .inr rfl | exact nomatch h

theorem Homed.vminn (f : VF) : Homed.Statement (.vminn f) := by
  intro cls _ h
  cases cls <;> first | exact .inr rfl | exact nomatch h

theorem Homed.vmaxn (f : VF) : Homed.Statement (.vmaxn f) := by
  intro cls _ h
  cases cls <;> first | exact .inr rfl | exact nomatch h

theorem Homed.vld (f : VF) : Homed.Statement (.vld f) := by
  intro cls _ h
  cases cls <;> first | exact .inr rfl | exact nomatch h

theorem Homed.vlds (f : VF) : Homed.Statement (.vlds f) := by
  intro cls _ h
  cases cls <;> first | exact .inr rfl | exact nomatch h

theorem Homed.vldx (f : VF) : Homed.Statement (.vldx f) := by
  intro cls _ h
  cases cls <;> first | exact .inr rfl | exact nomatch h

theorem Homed.vst (f : VF) : Homed.Statement (.vst f) := by
  intro cls _ h
  cases cls <;> first | exact .inr rfl | exact nomatch h

theorem Homed.vsts (f : VF) : Homed.Statement (.vsts f) := by
  intro cls _ h
  cases cls <;> first | exact .inr rfl | exact nomatch h

theorem Homed.vstx (f : VF) : Homed.Statement (.vstx f) := by
  intro cls _ h
  cases cls <;> first | exact .inr rfl | exact nomatch h

theorem Homed.vacr (f : VF) : Homed.Statement (.vacr f) := by
  intro cls _ h
  cases cls <;> first | exact .inr rfl | exact nomatch h

theorem Homed.vacw (f : VF) : Homed.Statement (.vacw f) := by
  intro cls _ h
  cases cls <;> first | exact .inr rfl | exact nomatch h

theorem Homed.mma (f : MF) : Homed.Statement (.mma f) := by
  intro cls _ h
  cases cls <;> first | exact .inr rfl | exact nomatch h

theorem Homed.mmas (f : MF) : Homed.Statement (.mmas f) := by
  intro cls _ h
  cases cls <;> first | exact .inr rfl | exact nomatch h

theorem Homed.mzero (f : MF) : Homed.Statement (.mzero f) := by
  intro cls _ h
  cases cls <;> first | exact .inr rfl | exact nomatch h

theorem Homed.mgeo (f : MF) : Homed.Statement (.mgeo f) := by
  intro cls _ h
  cases cls <;> first | exact .inr rfl | exact nomatch h

theorem Homed.tquant (f : MF) : Homed.Statement (.tquant f) := by
  intro cls _ h
  cases cls <;> first | exact .inr rfl | exact nomatch h

theorem Homed.tcast (f : MF) : Homed.Statement (.tcast f) := by
  intro cls _ h
  cases cls <;> first | exact .inr rfl | exact nomatch h

theorem Homed.mchk (f : MF) : Homed.Statement (.mchk f) := by
  intro cls _ h
  cases cls <;> first | exact .inr rfl | exact nomatch h

theorem Homed.mscl (f : MF) : Homed.Statement (.mscl f) := by
  intro cls _ h
  cases cls <;> first | exact .inr rfl | exact nomatch h

theorem Homed.macc (f : MF) : Homed.Statement (.macc f) := by
  intro cls _ h
  cases cls <;> first | exact .inr rfl | exact nomatch h

theorem Homed.mact (f : MemF) : Homed.Statement (.mact f) := by
  intro cls _ h
  cases cls <;> first | exact .inr rfl | exact nomatch h

theorem Homed.mpre (f : MemF) : Homed.Statement (.mpre f) := by
  intro cls _ h
  cases cls <;> first | exact .inr rfl | exact nomatch h

theorem Homed.mprea (f : MemF) : Homed.Statement (.mprea f) := by
  intro cls _ h
  cases cls <;> first | exact .inr rfl | exact nomatch h

theorem Homed.mrd (f : MemF) : Homed.Statement (.mrd f) := by
  intro cls _ h
  cases cls <;> first | exact .inr rfl | exact nomatch h

theorem Homed.mwr (f : MemF) : Homed.Statement (.mwr f) := by
  intro cls _ h
  cases cls <;> first | exact .inr rfl | exact nomatch h

theorem Homed.mref (f : MemF) : Homed.Statement (.mref f) := by
  intro cls _ h
  cases cls <;> first | exact .inr rfl | exact nomatch h

theorem Homed.mrefa (f : MemF) : Homed.Statement (.mrefa f) := by
  intro cls _ h
  cases cls <;> first | exact .inr rfl | exact nomatch h

theorem Homed.mrdt (f : MemF) : Homed.Statement (.mrdt f) := by
  intro cls _ h
  cases cls <;> first | exact .inr rfl | exact nomatch h

theorem Homed.mnop (f : MemF) : Homed.Statement (.mnop f) := by
  intro cls _ h
  cases cls <;> first | exact .inr rfl | exact nomatch h

theorem Homed.xcpy (f : CopyF) : Homed.Statement (.xcpy f) := by
  intro cls _ h
  cases cls <;> first | exact .inr rfl | exact nomatch h

theorem Homed.xcpyt (f : CopyF) : Homed.Statement (.xcpyt f) := by
  intro cls _ h
  cases cls <;> first | exact .inr rfl | exact nomatch h

theorem Homed.xfill (f : CopyF) : Homed.Statement (.xfill f) := by
  intro cls _ h
  cases cls <;> first | exact .inr rfl | exact nomatch h

theorem Homed.tscale (x y : R5) : Homed.Statement (.tscale x y) := by
  intro cls _ h
  cases cls <;> first | exact .inr rfl | exact nomatch h

theorem Homed.qcfg (x : R5) (q : BitVec 4) : Homed.Statement (.qcfg x q) := by
  intro cls _ h
  cases cls <;> first | exact .inr rfl | exact nomatch h

theorem Homed.qpush (q : BitVec 4) (n : BitVec 8) : Homed.Statement (.qpush q n) := by
  intro cls _ h
  cases cls <;> first | exact .inr rfl | exact nomatch h

theorem Homed.qpushRef (x : R5) (n : BitVec 8) : Homed.Statement (.qpushRef x n) := by
  intro cls _ h
  cases cls <;> first | exact .inr rfl | exact nomatch h

theorem Homed.qpop (q : BitVec 4) (n : BitVec 8) : Homed.Statement (.qpop q n) := by
  intro cls _ h
  cases cls <;> first | exact .inr rfl | exact nomatch h

theorem Homed.swset (x : R5) (k : BitVec 4) : Homed.Statement (.swset x k) := by
  intro cls _ h
  cases cls <;> first | exact .inr rfl | exact nomatch h

theorem Homed.pput (f : PutF) : Homed.Statement (.pput f) := by
  intro cls _ h
  cases cls <;> first | exact .inr rfl | exact nomatch h

theorem Homed.pget (f : PutF) : Homed.Statement (.pget f) := by
  intro cls _ h
  cases cls <;> first | exact .inr rfl | exact nomatch h

theorem Homed.pputv (f : PutvF) : Homed.Statement (.pputv f) := by
  intro cls _ h
  cases cls <;> first | exact .inr rfl | exact nomatch h

theorem Homed.pamo (f : PamoF) : Homed.Statement (.pamo f) := by
  intro cls _ h
  cases cls <;> first | exact .inr rfl | exact nomatch h

theorem Homed.csum (f : CopyF) : Homed.Statement (.csum f) := by
  intro cls _ h
  cases cls <;> first | exact .inr rfl | exact nomatch h

theorem Homed.cksave (x : R5) (sync : BitVec 4) : Homed.Statement (.cksave x sync) := by
  intro cls _ h
  cases cls <;> first | exact .inr rfl | exact nomatch h

theorem Homed.ckload (x : R5) (sync : BitVec 4) : Homed.Statement (.ckload x sync) := by
  intro cls _ h
  cases cls <;> first | exact .inr rfl | exact nomatch h

theorem Homed.br (off : BitVec 24) : Homed.Statement (.br off) := by
  intro cls _ h
  cases cls <;> first | exact .inr rfl | exact nomatch h

theorem Homed.brz (a : R5) (off : BitVec 19) : Homed.Statement (.brz a off) := by
  intro cls _ h
  cases cls <;> first | exact .inr rfl | exact nomatch h

theorem Homed.brnz (a : R5) (off : BitVec 19) : Homed.Statement (.brnz a off) := by
  intro cls _ h
  cases cls <;> first | exact .inr rfl | exact nomatch h

theorem Homed.brcm (cond : BitVec 2) (ty : VType) (off : BitVec 19) : Homed.Statement (.brcm cond ty off) := by
  intro cls _ h
  cases cls <;> first | exact .inr rfl | exact nomatch h

theorem Homed.call (off : BitVec 24) : Homed.Statement (.call off) := by
  intro cls _ h
  cases cls <;> first | exact .inr rfl | exact nomatch h

theorem Homed.ret : Homed.Statement .ret := by
  intro cls _ h
  cases cls <;> first | exact .inr rfl | exact nomatch h

theorem Homed.jmp (a : R5) : Homed.Statement (.jmp a) := by
  intro cls _ h
  cases cls <;> first | exact .inr rfl | exact nomatch h

theorem Homed.loop (a : R5) (off : BitVec 19) : Homed.Statement (.loop a off) := by
  intro cls _ h
  cases cls <;> first | exact .inr rfl | exact nomatch h

theorem Homed.rep (n : BitVec 6) (step : BitVec 18) : Homed.Statement (.rep n step) := by
  intro cls _ h
  cases cls <;> first | exact .inr rfl | exact nomatch h

theorem Homed.repRepetition (core strand : Nat) : Homed.Statement (.repRepetition core strand) := by
  intro cls _ h
  cases cls <;> first | exact .inr rfl | exact nomatch h

theorem Homed.endStrand : Homed.Statement .endStrand := by
  intro cls _ h
  cases cls <;> first | exact .inr rfl | exact nomatch h

theorem Homed.qwait (q : BitVec 4) (n : BitVec 12) : Homed.Statement (.qwait q n) := by
  intro cls _ h
  cases cls <;> first | exact .inr rfl | exact nomatch h

theorem Homed.qarv (q : BitVec 4) (n : BitVec 8) : Homed.Statement (.qarv q n) := by
  intro cls _ h
  cases cls <;> first | exact .inr rfl | exact nomatch h

theorem Homed.swwait (k : BitVec 4) (g : R5) : Homed.Statement (.swwait k g) := by
  intro cls _ h
  cases cls <;> first | exact .inr rfl | exact nomatch h

theorem Homed.phase : Homed.Statement .phase := by
  intro cls _ h
  cases cls <;> first | exact .inr rfl | exact nomatch h

theorem Homed.xfence (src dst : BitVec 7) : Homed.Statement (.xfence src dst) := by
  intro cls _ h
  cases cls <;> first | exact .inr rfl | exact nomatch h

theorem Homed.ifence : Homed.Statement .ifence := by
  intro cls _ h
  cases cls <;> first | exact .inr rfl | exact nomatch h

theorem Homed.aadd (f : AtomF) : Homed.Statement (.aadd f) := by
  intro cls _ h
  cases cls <;> first | exact .inr rfl | exact nomatch h

theorem Homed.aand (f : AtomF) : Homed.Statement (.aand f) := by
  intro cls _ h
  cases cls <;> first | exact .inr rfl | exact nomatch h

theorem Homed.aor (f : AtomF) : Homed.Statement (.aor f) := by
  intro cls _ h
  cases cls <;> first | exact .inr rfl | exact nomatch h

theorem Homed.axor (f : AtomF) : Homed.Statement (.axor f) := by
  intro cls _ h
  cases cls <;> first | exact .inr rfl | exact nomatch h

theorem Homed.amin (f : AtomF) : Homed.Statement (.amin f) := by
  intro cls _ h
  cases cls <;> first | exact .inr rfl | exact nomatch h

theorem Homed.amax (f : AtomF) : Homed.Statement (.amax f) := by
  intro cls _ h
  cases cls <;> first | exact .inr rfl | exact nomatch h

theorem Homed.aminu (f : AtomF) : Homed.Statement (.aminu f) := by
  intro cls _ h
  cases cls <;> first | exact .inr rfl | exact nomatch h

theorem Homed.amaxu (f : AtomF) : Homed.Statement (.amaxu f) := by
  intro cls _ h
  cases cls <;> first | exact .inr rfl | exact nomatch h

theorem Homed.aswp (f : AtomF) : Homed.Statement (.aswp f) := by
  intro cls _ h
  cases cls <;> first | exact .inr rfl | exact nomatch h

theorem Homed.acas (f : AtomF) : Homed.Statement (.acas f) := by
  intro cls _ h
  cases cls <;> first | exact .inr rfl | exact nomatch h

theorem Homed.afadd (f : AtomF) : Homed.Statement (.afadd f) := by
  intro cls _ h
  cases cls <;> first | exact .inr rfl | exact nomatch h

theorem Homed.atomicPerform (core bank : Nat) : Homed.Statement (.atomicPerform core bank) := by
  intro cls _ h
  cases cls <;> first | exact .inr rfl | exact nomatch h

theorem Homed.cropen (mask : BitVec 8) (off : BitVec 16) : Homed.Statement (.cropen mask off) := by
  intro cls _ h
  cases cls <;> first | exact .inr rfl | exact nomatch h

theorem Homed.crclose : Homed.Statement .crclose := by
  intro cls _ h
  cases cls <;> first | exact .inr rfl | exact nomatch h

theorem Homed.cmpd (reg : R5) (mask : BitVec 8) : Homed.Statement (.cmpd reg mask) := by
  intro cls _ h
  cases cls <;> first | exact .inr rfl | exact nomatch h

theorem Homed.trap (imm : BitVec 16) : Homed.Statement (.trap imm) := by
  intro cls _ h
  cases cls <;> first | exact .inr rfl | exact nomatch h

theorem Homed.brk (imm : BitVec 16) : Homed.Statement (.brk imm) := by
  intro cls _ h
  cases cls <;> first | exact .inr rfl | exact nomatch h

theorem Homed.sysr (d : R5) (idx : BitVec 12) : Homed.Statement (.sysr d idx) := by
  intro cls _ h
  cases cls <;> first | exact .inr rfl | exact nomatch h

theorem Homed.sysw (src : R5) (idx : BitVec 12) : Homed.Statement (.sysw src idx) := by
  intro cls _ h
  cases cls <;> first | exact .inr rfl | exact nomatch h

theorem Homed.bwheelWrite (src : R5) (k : BitVec 4) : Homed.Statement (.bwheelWrite src k) := by
  intro cls _ h
  cases cls <;> first | exact .inr rfl | exact nomatch h

theorem Homed.syncRegisterWrite (src : R5) (k : BitVec 4) : Homed.Statement (.syncRegisterWrite src k) := by
  intro cls _ h
  cases cls <;> first | exact .inr rfl | exact nomatch h

theorem Homed.repcWrite (src : R5) : Homed.Statement (.repcWrite src) := by
  intro cls _ h
  cases cls <;> first | exact .inr rfl | exact nomatch h

theorem Homed.lcWrite (src : R5) : Homed.Statement (.lcWrite src) := by
  intro cls _ h
  cases cls <;> first | exact .inr rfl | exact nomatch h

theorem Homed.mgWrite (src : R5) : Homed.Statement (.mgWrite src) := by
  intro cls _ h
  cases cls <;> first | exact .inr rfl | exact nomatch h

theorem Homed.vctlWrite (src : R5) : Homed.Statement (.vctlWrite src) := by
  intro cls _ h
  cases cls <;> first | exact .inr rfl | exact nomatch h

theorem Homed.xinvWrite (src : R5) : Homed.Statement (.xinvWrite src) := by
  intro cls _ h
  cases cls <;> first | exact .inr rfl | exact nomatch h

theorem Homed.estatWrite (src : R5) : Homed.Statement (.estatWrite src) := by
  intro cls _ h
  cases cls <;> first | exact .inr rfl | exact nomatch h

theorem Homed.scrub (a len : R5) (sync : BitVec 4) : Homed.Statement (.scrub a len sync) := by
  intro cls _ h
  cases cls <;> first | exact .inr rfl | exact nomatch h

theorem Homed.krot (a : R5) (sync : BitVec 4) : Homed.Statement (.krot a sync) := by
  intro cls _ h
  cases cls <;> first | exact .inr rfl | exact nomatch h

theorem Homed.metr (d a : R5) : Homed.Statement (.metr d a) := by
  intro cls _ h
  cases cls <;> first | exact .inr rfl | exact nomatch h

theorem Homed.mets (a : R5) (sync : BitVec 4) : Homed.Statement (.mets a sync) := by
  intro cls _ h
  cases cls <;> first | exact .inr rfl | exact nomatch h

theorem Homed.seal (a : R5) (sync : BitVec 4) : Homed.Statement (.seal a sync) := by
  intro cls _ h
  cases cls <;> first | exact .inr rfl | exact nomatch h

theorem Homed.unseal (a : R5) (sync : BitVec 4) : Homed.Statement (.unseal a sync) := by
  intro cls _ h
  cases cls <;> first | exact .inr rfl | exact nomatch h

theorem Homed.resultLanding (core strand : Nat) : Homed.Statement (.resultLanding core strand) := by
  intro cls _ h
  cases cls <;> first | exact .inr rfl | exact nomatch h

theorem Homed.reset (sigOk : Bool) : Homed.Statement (.reset sigOk) := by
  intro cls _ h
  cases cls <;> first | exact .inr rfl | exact nomatch h

theorem Homed.commandPlay (stack pc arrive : Nat) : Homed.Statement (.commandPlay stack pc arrive) := by
  intro cls _ h
  cases cls <;> first | exact .inr rfl | exact nomatch h

theorem Homed.grainLanding (stack pc : Nat) : Homed.Statement (.grainLanding stack pc) := by
  intro cls _ h
  cases cls <;> first | exact .inr rfl | exact nomatch h

theorem Homed.lineVerdict (stack pc : Nat) : Homed.Statement (.lineVerdict stack pc) := by
  intro cls _ h
  cases cls <;> first | exact .inr rfl | exact nomatch h

theorem Homed.lineCommit (stack pc : Nat) : Homed.Statement (.lineCommit stack pc) := by
  intro cls _ h
  cases cls <;> first | exact .inr rfl | exact nomatch h

theorem Homed.refreshClock (stack pc : Nat) : Homed.Statement (.refreshClock stack pc) := by
  intro cls _ h
  cases cls <;> first | exact .inr rfl | exact nomatch h

theorem Homed.rowOpenLimit (stack pc bank : Nat) : Homed.Statement (.rowOpenLimit stack pc bank) := by
  intro cls _ h
  cases cls <;> first | exact .inr rfl | exact nomatch h

theorem Homed.rowRepair (stack pc bank row : Nat) : Homed.Statement (.rowRepair stack pc bank row) := by
  intro cls _ h
  cases cls <;> first | exact .inr rfl | exact nomatch h

theorem Homed.withdrawalNotice (stack pc : Nat) (sids : BitVec 4) (noticeUs : Nat) : Homed.Statement (.withdrawalNotice stack pc sids noticeUs) := by
  intro cls _ h
  cases cls <;> first | exact .inr rfl | exact nomatch h

theorem Homed.layerMapOut (stack sid : Nat) : Homed.Statement (.layerMapOut stack sid) := by
  intro cls _ h
  cases cls <;> first | exact .inr rfl | exact nomatch h

theorem Homed.channelRetirement (stack pc : Nat) : Homed.Statement (.channelRetirement stack pc) := by
  intro cls _ h
  cases cls <;> first | exact .inr rfl | exact nomatch h

theorem Homed.withdrawn (stack pc : Nat) (sids : BitVec 4) : Homed.Statement (.withdrawn stack pc sids) := by
  intro cls _ h
  cases cls <;> first | exact .inr rfl | exact nomatch h

theorem Homed.logicalChannelMove (world lchan stack pc : Nat) : Homed.Statement (.logicalChannelMove world lchan stack pc) := by
  intro cls _ h
  cases cls <;> first | exact .inr rfl | exact nomatch h

theorem Homed.systemSliceMove (stack slice pc sid : Nat) : Homed.Statement (.systemSliceMove stack slice pc sid) := by
  intro cls _ h
  cases cls <;> first | exact .inr rfl | exact nomatch h

theorem Homed.sliceFillComplete (world lchan sidslot stack pc sid : Nat) : Homed.Statement (.sliceFillComplete world lchan sidslot stack pc sid) := by
  intro cls _ h
  cases cls <;> first | exact .inr rfl | exact nomatch h

theorem Homed.syncCount (core bank : Nat) : Homed.Statement (.syncCount core bank) := by
  intro cls _ h
  cases cls <;> first | exact .inr rfl | exact nomatch h

theorem Homed.copyComplete (core id : Nat) : Homed.Statement (.copyComplete core id) := by
  intro cls _ h
  cases cls <;> first | exact .inr rfl | exact nomatch h

theorem Homed.matrixOperationStart (core : Nat) : Homed.Statement (.matrixOperationStart core) := by
  intro cls _ h
  cases cls <;> first | exact .inr rfl | exact nomatch h

theorem Homed.matrixOperationRetire (core : Nat) : Homed.Statement (.matrixOperationRetire core) := by
  intro cls _ h
  cases cls <;> first | exact .inr rfl | exact nomatch h

theorem Homed.putRequest (r : PeerReq) (notify : Bool) (data : Payload) : Homed.Statement (.putRequest r notify data) := by
  intro cls _ h
  cases cls <;> first | exact .inr rfl | exact nomatch h

theorem Homed.getRequest (r : PeerReq) (lines : Nat) : Homed.Statement (.getRequest r lines) := by
  intro cls _ h
  cases cls <;> first | exact .inr rfl | exact nomatch h

theorem Homed.pamoRequest (r : PeerReq) (ident : Nat) (aop : BitVec 4) (wide : Bool) (v c : Word) : Homed.Statement (.pamoRequest r ident aop wide v c) := by
  intro cls _ h
  cases cls <;> first | exact .inr rfl | exact nomatch h

theorem Homed.putAcknowledgement (id : Nat) (reply : Reply) : Homed.Statement (.putAcknowledgement id reply) := by
  intro cls _ h
  cases cls <;> first | exact .inr rfl | exact nomatch h

theorem Homed.getDataArrival (id : Nat) (reply : Reply) (data : Payload) : Homed.Statement (.getDataArrival id reply data) := by
  intro cls _ h
  cases cls <;> first | exact .inr rfl | exact nomatch h

theorem Homed.pamoReply (id : Nat) (reply : Reply) (old : Word) (poison : Bool) : Homed.Statement (.pamoReply id reply old poison) := by
  intro cls _ h
  cases cls <;> first | exact .inr rfl | exact nomatch h

theorem Homed.csumResult (id : Nat) (total : List Word) : Homed.Statement (.csumResult id total) := by
  intro cls _ h
  cases cls <;> first | exact .inr rfl | exact nomatch h

theorem Homed.retryResend (id : Nat) : Homed.Statement (.retryResend id) := by
  intro cls _ h
  cases cls <;> first | exact .inr rfl | exact nomatch h

theorem Homed.frameAuthFailure (port : Nat) : Homed.Statement (.frameAuthFailure port) := by
  intro cls _ h
  cases cls <;> first | exact .inr rfl | exact nomatch h

theorem Homed.peerLost (device : Nat) : Homed.Statement (.peerLost device) := by
  intro cls _ h
  cases cls <;> first | exact .inr rfl | exact nomatch h

theorem Homed.linkRekey (port : Nat) : Homed.Statement (.linkRekey port) := by
  intro cls _ h
  cases cls <;> first | exact .inr rfl | exact nomatch h

theorem Homed.bridgeFailure : Homed.Statement .bridgeFailure := by
  intro cls _ h
  cases cls <;> first | exact .inr rfl | exact nomatch h

theorem Homed.peerBinding (world device remote : Nat) (ok : Bool) : Homed.Statement (.peerBinding world device remote ok) := by
  intro cls _ h
  cases cls <;> first | exact .inr rfl | exact nomatch h

theorem Homed.qnotifyWrite (world q : Nat) (n : Nat) : Homed.Statement (.qnotifyWrite world q n) := by
  intro cls _ h
  cases cls <;> first | exact .inr rfl | exact nomatch h

theorem Homed.submissionFetchRetry (world q : Nat) : Homed.Statement (.submissionFetchRetry world q) := by
  intro cls _ h
  cases cls <;> first | exact .inr rfl | exact nomatch h

theorem Homed.queueEnable (world q : Nat) (v : Word) : Homed.Statement (.queueEnable world q v) := by
  intro cls _ h
  cases cls <;> first | exact .inr rfl | exact nomatch h

theorem Homed.queueDisable (world q : Nat) : Homed.Statement (.queueDisable world q) := by
  intro cls _ h
  cases cls <;> first | exact .inr rfl | exact nomatch h

theorem Homed.qconsWrite (world q n : Nat) : Homed.Statement (.qconsWrite world q n) := by
  intro cls _ h
  cases cls <;> first | exact .inr rfl | exact nomatch h

theorem Homed.workgroupStart (world : Nat) : Homed.Statement (.workgroupStart world) := by
  intro cls _ h
  cases cls <;> first | exact .inr rfl | exact nomatch h

theorem Homed.strandFinish (core strand : Nat) : Homed.Statement (.strandFinish core strand) := by
  intro cls _ h
  cases cls <;> first | exact .inr rfl | exact nomatch h

theorem Homed.launchComplete (world q seq : Nat) : Homed.Statement (.launchComplete world q seq) := by
  intro cls _ h
  cases cls <;> first | exact .inr rfl | exact nomatch h

theorem Homed.coalescingTimeout (world q : Nat) : Homed.Statement (.coalescingTimeout world q) := by
  intro cls _ h
  cases cls <;> first | exact .inr rfl | exact nomatch h

theorem Homed.allowanceExhausted (world q seq : Nat) : Homed.Statement (.allowanceExhausted world q seq) := by
  intro cls _ h
  cases cls <;> first | exact .inr rfl | exact nomatch h

theorem Homed.waitLimitSwitch (core : Nat) : Homed.Statement (.waitLimitSwitch core) := by
  intro cls _ h
  cases cls <;> first | exact .inr rfl | exact nomatch h

theorem Homed.governorEvaluation : Homed.Statement .governorEvaluation := by
  intro cls _ h
  cases cls <;> first | exact .inr rfl | exact nomatch h

theorem Homed.clusterMove (cluster : Nat) : Homed.Statement (.clusterMove cluster) := by
  intro cls _ h
  cases cls <;> first | exact .inr rfl | exact nomatch h

theorem Homed.phaseBoundary (wg : Nat) : Homed.Statement (.phaseBoundary wg) := by
  intro cls _ h
  cases cls <;> first | exact .inr rfl | exact nomatch h

theorem Homed.faultDelivery (core strand : Nat) : Homed.Statement (.faultDelivery core strand) := by
  intro cls _ h
  cases cls <;> first | exact .inr rfl | exact nomatch h

theorem Homed.lockstepMismatch (core : Nat) : Homed.Statement (.lockstepMismatch core) := by
  intro cls _ h
  cases cls <;> first | exact .inr rfl | exact nomatch h

theorem Homed.scratchpadScrub (core bank block : Nat) : Homed.Statement (.scratchpadScrub core bank block) := by
  intro cls _ h
  cases cls <;> first | exact .inr rfl | exact nomatch h

theorem Homed.sealNoticeEnd (id : Nat) : Homed.Statement (.sealNoticeEnd id) := by
  intro cls _ h
  cases cls <;> first | exact .inr rfl | exact nomatch h

theorem Homed.sealStopped (id : Nat) : Homed.Statement (.sealStopped id) := by
  intro cls _ h
  cases cls <;> first | exact .inr rfl | exact nomatch h

theorem Homed.sealDrainComplete (id : Nat) : Homed.Statement (.sealDrainComplete id) := by
  intro cls _ h
  cases cls <;> first | exact .inr rfl | exact nomatch h

theorem Homed.sealImageCommitted (id : Nat) : Homed.Statement (.sealImageCommitted id) := by
  intro cls _ h
  cases cls <;> first | exact .inr rfl | exact nomatch h

theorem Homed.unsealPlacement (id : Nat) : Homed.Statement (.unsealPlacement id) := by
  intro cls _ h
  cases cls <;> first | exact .inr rfl | exact nomatch h

theorem Homed.restorePoint (wg : Nat) : Homed.Statement (.restorePoint wg) := by
  intro cls _ h
  cases cls <;> first | exact .inr rfl | exact nomatch h

theorem Homed.krotComplete (world : Nat) : Homed.Statement (.krotComplete world) := by
  intro cls _ h
  cases cls <;> first | exact .inr rfl | exact nomatch h

theorem Homed.meterStatementSigned (world : Nat) : Homed.Statement (.meterStatementSigned world) := by
  intro cls _ h
  cases cls <;> first | exact .inr rfl | exact nomatch h

theorem Homed.cksaveComplete (id core : Nat) : Homed.Statement (.cksaveComplete id core) := by
  intro cls _ h
  cases cls <;> first | exact .inr rfl | exact nomatch h

theorem Homed.ckloadComplete (id : Nat) (result : CkFetch) (sources : List Nat) (plain : List Byte) : Homed.Statement (.ckloadComplete id result sources plain) := by
  intro cls _ h
  cases cls <;> first | exact .inr rfl | exact nomatch h

theorem Homed.debugResume (world core strand : Nat) : Homed.Statement (.debugResume world core strand) := by
  intro cls _ h
  cases cls <;> first | exact .inr rfl | exact nomatch h

theorem Homed.lockInterfaceRequest (world : Nat) : Homed.Statement (.lockInterfaceRequest world) := by
  intro cls _ h
  cases cls <;> first | exact .inr rfl | exact nomatch h

theorem Homed.startInterfaceRequest (world : Nat) : Homed.Statement (.startInterfaceRequest world) := by
  intro cls _ h
  cases cls <;> first | exact .inr rfl | exact nomatch h

theorem Homed.stopInterfaceRequest (world : Nat) : Homed.Statement (.stopInterfaceRequest world) := by
  intro cls _ h
  cases cls <;> first | exact .inr rfl | exact nomatch h

theorem Homed.ideIntegrityFailure (world : Nat) : Homed.Statement (.ideIntegrityFailure world) := by
  intro cls _ h
  cases cls <;> first | exact .inr rfl | exact nomatch h

theorem Homed.functionLevelReset (world : Nat) : Homed.Statement (.functionLevelReset world) := by
  intro cls _ h
  cases cls <;> first | exact .inr rfl | exact nomatch h

theorem Homed.spdmSessionLoss (world : Nat) : Homed.Statement (.spdmSessionLoss world) := by
  intro cls _ h
  cases cls <;> first | exact .inr rfl | exact nomatch h

theorem Homed.getMeasurements (world : Nat) (index : MeasureReq) : Homed.Statement (.getMeasurements world index) := by
  intro cls _ h
  cases cls <;> first | exact .inr rfl | exact nomatch h

theorem Homed.challenge (world : Nat) : Homed.Statement (.challenge world) := by
  intro cls _ h
  cases cls <;> first | exact .inr rfl | exact nomatch h

theorem Homed.keyExchange (world : Nat) : Homed.Statement (.keyExchange world) := by
  intro cls _ h
  cases cls <;> first | exact .inr rfl | exact nomatch h

theorem Homed.pwctlWrite (world : Nat) (v : Word) : Homed.Statement (.pwctlWrite world v) := by
  intro cls _ h
  cases cls <;> first | exact .inr rfl | exact nomatch h

theorem Homed.frozenRegisterWrite (world offset : Nat) (v : Word) : Homed.Statement (.frozenRegisterWrite world offset v) := by
  intro cls _ h
  cases cls <;> first | exact .inr rfl | exact nomatch h

theorem Homed.vfConfigWrite (world : Nat) (item : VfItem) : Homed.Statement (.vfConfigWrite world item) := by
  intro cls _ h
  cases cls <;> first | exact .inr rfl | exact nomatch h

theorem Homed.meterBind (world : Nat) (p : Policy) : Homed.Statement (.meterBind world p) := by
  intro cls _ h
  cases cls <;> first | exact .inr rfl | exact nomatch h

theorem Homed.meterUnbind (world meter : Nat) : Homed.Statement (.meterUnbind world meter) := by
  intro cls _ h
  cases cls <;> first | exact .inr rfl | exact nomatch h

theorem Homed.meterPred (world : Nat) (values : List Word) (last : BitVec 256) (sigOk : Bool) : Homed.Statement (.meterPred world values last sigOk) := by
  intro cls _ h
  cases cls <;> first | exact .inr rfl | exact nomatch h

theorem Homed.migrationQuiesce (world : Nat) (permitOk : Bool) : Homed.Statement (.migrationQuiesce world permitOk) := by
  intro cls _ h
  cases cls <;> first | exact .inr rfl | exact nomatch h

theorem Homed.migrationArm (world : Nat) (image : Nat) : Homed.Statement (.migrationArm world image) := by
  intro cls _ h
  cases cls <;> first | exact .inr rfl | exact nomatch h

theorem Homed.migrationErase (world : Nat) (ackOk : Bool) : Homed.Statement (.migrationErase world ackOk) := by
  intro cls _ h
  cases cls <;> first | exact .inr rfl | exact nomatch h

theorem Homed.migrationConfirm (world : Nat) : Homed.Statement (.migrationConfirm world) := by
  intro cls _ h
  cases cls <;> first | exact .inr rfl | exact nomatch h

theorem Homed.migrationAbort (world : Nat) : Homed.Statement (.migrationAbort world) := by
  intro cls _ h
  cases cls <;> first | exact .inr rfl | exact nomatch h

theorem Homed.armedTimeout (world : Nat) : Homed.Statement (.armedTimeout world) := by
  intro cls _ h
  cases cls <;> first | exact .inr rfl | exact nomatch h

theorem Homed.escrowRelease (world : Nat) (ok : Bool) : Homed.Statement (.escrowRelease world ok) := by
  intro cls _ h
  cases cls <;> first | exact .inr rfl | exact nomatch h

theorem Homed.drbgReseed : Homed.Statement .drbgReseed := by
  intro cls _ h
  cases cls <;> first | exact .inr rfl | exact nomatch h

theorem Homed.readTelemetry (stack : Nat) : Homed.Statement (.readTelemetry stack) := by
  intro cls _ h
  cases cls <;> first | exact .inr rfl | exact nomatch h

theorem Homed.readRepairInventory (stack : Nat) : Homed.Statement (.readRepairInventory stack) := by
  intro cls _ h
  cases cls <;> first | exact .inr rfl | exact nomatch h

theorem Homed.stageFirmwareImage (verifies : Bool) : Homed.Statement (.stageFirmwareImage verifies) := by
  intro cls _ h
  cases cls <;> first | exact .inr rfl | exact nomatch h

theorem Homed.readAgeingRecord (stack : Nat) : Homed.Statement (.readAgeingRecord stack) := by
  intro cls _ h
  cases cls <;> first | exact .inr rfl | exact nomatch h

theorem Homed.bar2Access (world offset : Nat) (write : Option (List Byte)) (len : Nat) : Homed.Statement (.bar2Access world offset write len) := by
  intro cls _ h
  cases cls <;> first | exact .inr rfl | exact nomatch h

theorem Homed.unsupportedRequest (kind : Unsupported) : Homed.Statement (.unsupportedRequest kind) := by
  intro cls _ h
  cases cls <;> first | exact .inr rfl | exact nomatch h

theorem Homed.hearthGrant (grants : List Grant) : Homed.Statement (.hearthGrant grants) := by
  intro cls _ h
  cases cls <;> first | exact .inr rfl | exact nomatch h

theorem Homed.voltageReplan (cluster : Nat) (slower : Nat) : Homed.Statement (.voltageReplan cluster slower) := by
  intro cls _ h
  cases cls <;> first | exact .inr rfl | exact nomatch h

theorem Homed.remoteTokenArrival (id : Nat) : Homed.Statement (.remoteTokenArrival id) := by
  intro cls _ h
  cases cls <;> first | exact .inr rfl | exact nomatch h

theorem Homed.replyAcknowledgement (src ident : Nat) : Homed.Statement (.replyAcknowledgement src ident) := by
  intro cls _ h
  cases cls <;> first | exact .inr rfl | exact nomatch h

theorem Homed.bridgeLaneRepair : Homed.Statement .bridgeLaneRepair := by
  intro cls _ h
  cases cls <;> first | exact .inr rfl | exact nomatch h

theorem Homed.systemChannelPatrol (stack : Nat) (errors : Nat) : Homed.Statement (.systemChannelPatrol stack errors) := by
  intro cls _ h
  cases cls <;> first | exact .inr rfl | exact nomatch h

theorem Homed.lockstepResynchronised (core : Nat) : Homed.Statement (.lockstepResynchronised core) := by
  intro cls _ h
  cases cls <;> first | exact .inr rfl | exact nomatch h

end Sys2Proof.Laws
end

