-- ==== Sys2Proof/Tests/Slice0.lean ====
section
/-! SUPPORT. The model's own tests: the well-formedness checks refuse what they should, the words that the spec gives decode to its instructions, a few single steps give the values that the spec gives, and for each statement a concrete state that meets its hypotheses. -/

namespace Sys2Proof.Tests

set_option Elab.async false

open Sys2Proof Sys2Proof.Machine

/-! ### Well-formedness: one ill-formed term for each check -/

theorem test_wf_destination : (Instr.add ⟨16, 0, 0, 0, 0⟩).wf = false := by decide
theorem test_wf_unused_source : (Instr.add ⟨31, 0, 0, 1, 0⟩).wf = false := by decide
theorem test_wf_function : (Instr.sel ⟨31, 0, 0, 0, 1⟩).wf = false := by decide
theorem test_wf_unary : (Instr.mov ⟨31, 0, 1, 0, 0⟩).wf = false := by decide
theorem test_wf_immediate_destination : (Instr.addi ⟨30, 0, 0⟩).wf = false := by decide
theorem test_wf_shift_amount : (Instr.shli ⟨31, 0, 64⟩).wf = false := by decide
theorem test_wf_ptag_low_bits : (Instr.ptag ⟨31, 0, 1⟩).wf = false := by decide
theorem test_wf_li_destination : (Instr.li ⟨17, 0⟩).wf = false := by decide
theorem test_wf_lcat_belt : (Instr.lcat ⟨31, 0⟩).wf = false := by decide
theorem test_wf_pair_destination : (Instr.rng ⟨15, 16, 0, 0, 0⟩).wf = false := by decide
theorem test_wf_pair_source : (Instr.ctradd ⟨0, 17, 0, 0, 0⟩).wf = false := by decide
theorem test_wf_msave_function : (Instr.msave ⟨31, 0, 0, 0, 4⟩).wf = false := by decide
theorem test_wf_mrest_source : (Instr.mrest ⟨31, 0, 1, 0, 0⟩).wf = false := by decide
theorem test_wf_mcomb_function : (Instr.mcomb ⟨31, 0, 0, 0, 8⟩).wf = false := by decide
theorem test_wf_mcm_function : (Instr.mcm ⟨31, 0, 0, 0, 4⟩).wf = false := by decide
theorem test_wf_fp_rounding : (Instr.fadd ⟨31, 0, 0, 0, 8⟩).wf = false := by decide
theorem test_wf_fp_no_rounding : (Instr.fmin ⟨31, 0, 0, 0, 2⟩).wf = false := by decide
theorem test_wf_fp_source : (Instr.fsqrt ⟨31, 0, 1, 0, 0⟩).wf = false := by decide
theorem test_wf_fcvt_kind : (Instr.fcvt ⟨31, 0, 9, 0, 0⟩).wf = false := by decide
theorem test_wf_load_destination : (Instr.ldD ⟨30, 0, 0⟩).wf = false := by decide
theorem test_wf_vector_source : (Instr.vadd ⟨.w256, false, 0, 0, 0, 1, .i8⟩).wf = false := by decide
theorem test_wf_vector_float_only : (Instr.vdiv ⟨.w256, false, 0, 0, 0, 0, .i32⟩).wf = false := by decide
theorem test_wf_vector_integer_only : (Instr.vand ⟨.w256, false, 0, 0, 0, 0, .f32⟩).wf = false := by decide
theorem test_wf_vcmp_predicate : (Instr.vcmp ⟨.w256, false, 0, 0, 0, 6, .f32⟩).wf = false := by decide
theorem test_wf_vcvt_same_type : (Instr.vcvt ⟨.w256, false, 0, 0, 0, 0, .i8⟩).wf = false := by decide
theorem test_wf_vslide_distance : (Instr.vslide ⟨.w256, false, 0, 0, 0, 5, .f64⟩).wf = false := by decide
theorem test_wf_vscan_operation : (Instr.vscan ⟨.w256, false, 0, 0, 0, 24, .i8⟩).wf = false := by decide
theorem test_wf_vred_duplicate : (Instr.vred ⟨.w256, true, 31, 0, 0, 0, .i8⟩).wf = false := by decide
theorem test_wf_vpopc_source : (Instr.vpopc ⟨.w256, false, 31, 1, 0, 0, .i8⟩).wf = false := by decide
theorem test_wf_vdot4_type : (Instr.vdot4 ⟨.w256, false, 0, 0, 0, 0, .i16⟩).wf = false := by decide
theorem test_wf_vld_field : (Instr.vld ⟨.w256, false, 0, 0, 0, 1, .i8⟩).wf = false := by decide
theorem test_wf_vldx_field : (Instr.vldx ⟨.w256, false, 0, 0, 1, 0, .i8⟩).wf = false := by decide
theorem test_wf_vst_duplicate : (Instr.vst ⟨.w256, true, 0, 0, 0, 0, .i8⟩).wf = false := by decide
theorem test_wf_vacr_operation : (Instr.vacr ⟨.w256, false, 0, 0, 0, 8, .f64⟩).wf = false := by decide
theorem test_wf_vacw_duplicate : (Instr.vacw ⟨.w256, true, 0, 0, 0, 0, .f64⟩).wf = false := by decide
theorem test_wf_mzero_ring : (Instr.mzero ⟨0, 1, 0, 0, 0, false, false, false, false, false⟩).wf = false := by decide
theorem test_wf_row_command_count : (Instr.mact ⟨0, 0, 1, 1, 15⟩).wf = false := by decide
theorem test_wf_pget_notify : (Instr.pget ⟨0, 0, true, 0, 15⟩).wf = false := by decide
theorem test_wf_pputv_width : (Instr.pputv ⟨0, 0, false, 3, 15⟩).wf = false := by decide
theorem test_wf_pamo_operation : (Instr.pamo ⟨0, 16, 11, false, true, 0, 15⟩).wf = false := by decide
theorem test_wf_brcm_condition : (Instr.brcm 3 .i8 0).wf = false := by decide
theorem test_wf_loop_offset : (Instr.loop 0 0).wf = false := by decide
theorem test_wf_rep_step : (Instr.rep 1 0x8000).wf = false := by decide
theorem test_wf_qwait_zero : (Instr.qwait 0 0).wf = false := by decide
theorem test_wf_xfence_side : (Instr.xfence 1 0).wf = false := by decide
theorem test_wf_atomic_compare : (Instr.aadd ⟨30, 0, 0, 1, false⟩).wf = false := by decide
theorem test_wf_cropen_mask : (Instr.cropen 0 1).wf = false := by decide
theorem test_wf_cmpd_mask : (Instr.cmpd 0 0).wf = false := by decide
theorem test_wf_sysr_index : (Instr.sysr 31 6).wf = false := by decide
theorem test_wf_sysw_read_only : (Instr.sysw 0 0x030).wf = false := by decide
theorem test_wf_metr_destination : (Instr.metr 20 0).wf = false := by decide

/-! ### Decoding: words that the spec encodes itself -/

theorem test_decode_li : decodeSyl .s 1 0x60600005 = .ok (.li ⟨6, 5⟩) := rfl
theorem test_decode_lcat : decodeSyl .s 1 0x62600001 = .ok (.lcat ⟨6, 1⟩) := rfl
theorem test_decode_mul : decodeSyl .s 1 0x07F08000 = .ok (.mul ⟨31, 1, 0, 0, 0⟩) := rfl
theorem test_decode_div : decodeSyl .s 2 0x0C50D800 = .ok (.div ⟨5, 1, 22, 0, 0⟩) := rfl
theorem test_decode_mov : decodeSyl .s 1 0x3A708000 = .ok (.mov ⟨7, 1, 0, 0, 0⟩) := rfl
theorem test_decode_rng : decodeSyl .s 1 0x686A6000 = .ok (.rng ⟨4 + 2, 20, 24, 0, 0⟩) := rfl
theorem test_decode_ctradd : decodeSyl .s 1 0x6A4A6400 = .ok (.ctradd ⟨4, 20, 25, 0, 0⟩) := rfl
theorem test_decode_ld : decodeSyl .s 1 0xC67C0004 = .ok (.ldD ⟨7, 24, 4⟩) := rfl
theorem test_decode_vld : decodeSyl .v 3 0xC206B606 = .ok (.vld ⟨.w1024, false, 1, 21, 22, 0, .f32⟩) := rfl
theorem test_decode_vacr : decodeSyl .v 3 0xD80AE007 = .ok (.vacr ⟨.w256, false, 2, 23, 0, 0, .f64⟩) := rfl
theorem test_decode_mact : decodeSyl .c 6 0x06800A0F = .ok (.mact ⟨20, 0, 10, 0, 15⟩) := rfl
theorem test_decode_mpre : decodeSyl .c 6 0x0A80440F = .ok (.mpre ⟨20, 0, 68, 0, 15⟩) := rfl
theorem test_decode_xcpy : decodeSyl .c 6 0x439D000F = .ok (.xcpy ⟨28, 29, 0, 15⟩) := rfl
theorem test_decode_swset : decodeSyl .c 6 0x6EC00001 = .ok (.swset 22 1) := rfl
theorem test_decode_cksave : decodeSyl .c 6 0xA3000002 = .ok (.cksave 24 2) := rfl
theorem test_decode_loop : decodeSyl .x 7 0x08980009 = .ok (.loop 19 9) := rfl
theorem test_decode_swwait : decodeSyl .x 7 0x121B8000 = .ok (.swwait 1 23) := rfl
theorem test_decode_aadd : decodeSyl .x 7 0x20263200 = .ok (.aadd ⟨4, 24, 25, 0, false⟩) := rfl
theorem test_decode_cropen : decodeSyl .x 7 0x30800004 = .ok (.cropen 0x80 4) := rfl
theorem test_decode_cmpd : decodeSyl .x 7 0x3227F800 = .ok (.cmpd 4 0xFF) := rfl
theorem test_decode_sync_register : decodeSyl .x 7 0x36883800 = .ok (.syncRegisterWrite 17 0) := rfl
theorem test_decode_scrub : decodeSyl .x 7 0x40C64400 = .ok (.scrub 24 25 1) := rfl
theorem test_decode_krot : decodeSyl .x 7 0x41AF8000 = .ok (.krot 21 15) := rfl
theorem test_decode_metr : decodeSyl .x 7 0x42254000 = .ok (.metr 4 21) := rfl
theorem test_decode_mets : decodeSyl .x 7 0x43B18000 = .ok (.mets 22 3) := rfl

/-- R11: a word whose opcode field is zero and which has another bit set is ILLEG. -/
theorem test_decode_reserved : decodeSyl .s 1 1 = .error (.opcode 1) := rfl

/-! ### Steps on a small state -/

/-- Strand 0 of core 0 of a running workgroup of world 0, whose bundle at the start of the system window is being issued. -/
def base : State :=
  { State.reset.withFetchWord 256 0 with turns := [], cur := { Cur.reset with slot := .s0, pc := word (2 ^ 52), firstId := 1 } }

/-- The base state with its core and its strand changed. -/
def tweak (k : Core → Core) (x : Strand → Strand) : State := (base.modCore 0 k).modStrandAt 0 0 x

/-- Named registers n0 up, source codes 16 up. -/
def regs (vs : List Word) (x : Strand) : Strand := { x with n := vs ++ List.replicate (16 - vs.length) 0 }

/-- The state that an instruction leaves, where it answers one. -/
def after (i : Instr) (s : State) : State :=
  match exec i s with
  | .next t => t
  | _ => s

/-- What is held last, with its cycle. -/
def lastHeld (s : State) : Option HeldKind := (s.strand.held.getLast?).map (·.kind)

/-- R180: the sum is modulo 2^64. -/
theorem test_add_wraps : lastHeld (after (.add ⟨31, 16, 17, 0, 0⟩) (tweak id (regs [0xFFFFFFFFFFFFFFFF, 2])))
    = some (.scalar 1 (.push 1 none)) := by decide +kernel
/-- R180: −2^63 divided by −1 gives −2^63. -/
theorem test_div_corner : lastHeld (after (.div ⟨5, 16, 17, 0, 0⟩) (tweak id (regs [0x8000000000000000, 0xFFFFFFFFFFFFFFFF])))
    = some (.scalar 20 (.push 0x8000000000000000 (some 5))) := by decide +kernel
/-- R180: a division by zero gives all ones. -/
theorem test_divu_zero : lastHeld (after (.divu ⟨31, 16, 17, 0, 0⟩) (tweak id (regs [7, 0])))
    = some (.scalar 20 (.push 0xFFFFFFFFFFFFFFFF none)) := by decide +kernel
/-- R183: lcat shifts the register as it stands and fills in its immediate. -/
theorem test_lcat : lastHeld (after (.lcat ⟨0, 1⟩) (tweak id (regs [0x50000000000])))
    = some (.scalar 1 (.push 0x5000000000000001 (some 0))) := by decide +kernel
/-- R187: a quiet NaN sets bit 9. -/
theorem test_fclass_quiet : lastHeld (after (.fclass ⟨31, 16, 0, 0, 1⟩) (tweak id (regs [0x7FF8000000000000])))
    = some (.scalar 4 (.push 512 none)) := by decide +kernel
/-- R187: the least subnormal of f32 with a set sign sets bit 2. -/
theorem test_fclass_subnormal : lastHeld (after (.fclass ⟨31, 16, 0, 0, 0⟩) (tweak id (regs [0x80000001])))
    = some (.scalar 4 (.push 4 none)) := by decide +kernel
/-- R195: the target of br is relative to the bundle's pc, in bundles. -/
theorem test_br_target : (after (.br 2) base).cur.taken = some 0x10000000000040 := by decide +kernel
/-- R195: a target in region 0 gives CHOWN. -/
theorem test_jmp_region : (after (.jmp 16) (tweak id (regs [32]))).cur.raised.map (·.code) = some 0x09 := by decide +kernel
/-- R25: a tenant's seal faults with PRIV. -/
theorem test_seal_priv : (after (.seal 16 15) (tweak id fun x => { x with world := 1 })).cur.raised.map (·.code) = some 0x03 := by decide +kernel
/-- The state once the access that waits first for an L position of core 0 is performed (R192). -/
def perform (s : State) : State :=
  match (s.coreAt 0).lq with
  | a :: _ => s.performL 0 a
  | [] => s

/-- R192, R193: a stored word reads back, once its store is performed. -/
theorem test_store_then_load :
    lastHeld (perform (after (.ldW ⟨31, 16, 4⟩) ((perform (after (.stW ⟨17, 16, 4⟩) (tweak id (regs [0x1000000000000000, 0x80000001]))))
      |>.modCore 0 fun k => { k.setStrand 0 { k.strandAt 0 with ctime := 8 } with cycle := 40 }))) = some (.scalar 16 (.push 0xFFFFFFFF80000001 none)) := by decide +kernel
/-- R3, R11: the bundle of eight zero syllables issues and advances CTIME by one cycle. -/
theorem test_zero_bundle : (match step (State.reset.withFetchWord 256 0) with
    | .next t => (t.strandAt 0 0).ctime
    | _ => 0) = 1 := by decide +kernel

/-! ### Witnesses: for each statement with hypotheses, states and operands that meet them -/

/-- An answer that is `ok`, as a Bool that evaluates. -/
def okIs {α : Type} [DecidableEq α] (e : Except Nat α) (a : α) : Bool :=
  match e with
  | .ok b => decide (b = a)
  | .error _ => false

theorem okIs_eq {α : Type} [DecidableEq α] {e : Except Nat α} {a : α} (h : okIs e a = true) : e = .ok a := by
  cases e with
  | ok b => simp only [okIs, decide_eq_true_eq] at h; rw [h]
  | error _ => cases h

/-- `n` results held by the strand. -/
def holding (n : Nat) : State := tweak id fun x => { x with held := List.replicate n ⟨.scalar 9 (.push 0 none), true, []⟩ }

/-- IntegerInstructionsGiveTheirValue, ImmediateInstructionsGiveTheirValue, FloatingPointInstructions, VectorInstructionsStart: room for one more, at its boundary. -/
theorem witness_IntegerInstructionsGiveTheirValue : (holding 63).room 1 := by unfold State.room; decide +kernel
theorem witness_ImmediateInstructionsGiveTheirValue : base.room 1 := by unfold State.room; decide +kernel

/-- A divider last used eight cycles ago. -/
theorem witness_ProductsDivisionsAndBitCounts :
    let s := tweak id fun x => { x with ctime := 8, divider := [(0, 0)] }
    s.room 1 ∧ s.divFree (s.cur.slot.divUnit false) 8 :=
  ⟨by unfold State.room; decide +kernel, (Strand.divBusy_eq _ _ _).1 (by decide +kernel)⟩

theorem witness_PairAndMaskInstructions : (holding 62).room 2 ∧ (7 : BitVec 11).toNat < 8 ∧ (3 : BitVec 11).toNat < 4 :=
  ⟨by unfold State.room; decide +kernel, by decide, by decide⟩

theorem witness_FloatingPointInstructions :
    let s := tweak id fun x => { x with ctime := 4, divider := [(2, 0)] }
    s.room 1 ∧ s.divFree (s.cur.slot.divUnit true) 4 :=
  ⟨by unfold State.room; decide +kernel, (Strand.divBusy_eq _ _ _).1 (by decide +kernel)⟩

theorem witness_FclassSetsOneBit : (holding 63).room 1 ∧ (0x7FF0000000000000 : Nat) / 2 ^ 52 % (2047 + 1) = 2047 :=
  ⟨by unfold State.room; decide +kernel, by decide⟩

/-- 64 results held; a divider used seven, and one used three, cycles ago. -/
theorem witness_FullResultsAndBusyDividersFaultSched :
    ¬ (holding 64).room 1
    ∧ (let s := tweak id fun x => { x with ctime := 7, divider := [(0, 0)] }; ¬ s.divFree (s.cur.slot.divUnit false) 8)
    ∧ (let s := tweak id fun x => { x with ctime := 3, divider := [(2, 0)] }; ¬ s.divFree (s.cur.slot.divUnit true) 4) :=
  ⟨by unfold State.room; decide +kernel, fun h => absurd (h 0 (by decide +kernel)) (by decide +kernel),
    fun h => absurd (h 0 (by decide +kernel)) (by decide +kernel)⟩

/-- A pointer to byte `a` of the own scratchpad. -/
def own (a : Nat) : Word := word (2 ^ 60 + a)

/-- AccessChecksInOrder: each check fails on a state and address of its own: no local space, a misaligned address, an invalid format, a bank used three cycles ago, a row above the watermark, an engaged tile. -/
theorem witness_AccessChecksInOrder :
    base.cur.sure = false ∧ (let s := tweak id (regs [0]); localPtr (s.access 16 0) = none)
    ∧ (let s := tweak id (regs [own 1]); localPtr (s.access 16 0) = some (.spad 1) ∧ (s.access 16 0).toNat % 2 ≠ 0)
    ∧ (let s := tweak (fun k => { k with bfmt := [(15, 11 * 2048)] }) (regs [own 0xFFFF8]);
        localPtr (s.access 16 0) = some (.spad 0xFFFF8) ∧ (s.access 16 0).toNat % 8 = 0 ∧ bfmtValid (s.core.fmt 15) = false)
    ∧ (let s := tweak id (fun x => { regs [own 8] x with ctime := 3, lastL := [(0, 1)] });
        (s.access 16 0).toNat % 8 = 0 ∧ bfmtValid (s.core.fmt 0) = true ∧ s.lTooSoon 0 = true)
    ∧ (let s := tweak (fun k => { k with accs := [(1, { Acc.reset with w := 4 })] }) (regs [word (3 * 2 ^ 60 + 8192 + 1024)]);
        localPtr (s.access 16 0) = some (.acc 1 1024) ∧ (s.access 16 0).toNat % 8 = 0 ∧ (s.core.acc 1).w ≤ 1024 / 256 ∧ s.fenceHolds clsS = false)
    ∧ (let s := tweak (fun k => { k with mq := [base.newMOp (.mzero ⟨1, 0, 0, 0, 0, false, false, false, false, false⟩) ⟨1, 0, 0, 0, 0, false, false, false, false, false⟩] })
          (regs [word (3 * 2 ^ 60 + 8192)]);
        localPtr (s.access 16 0) = some (.acc 1 0) ∧ s.core.engaged 1 = true ∧ s.fenceHolds clsS = false ∧ (∀ b, b < 16 → s.lLatched b = false)) := by
  decide +kernel

/-- A core whose scratchpad line 0 is written by world 0. -/
def written (m : LineMeta) (k : Core) : Core := { k with lines := [(0, { m with written := true })], spad := [(8, 0x80)] }

theorem witness_LoadsGiveTheirBytes :
    (let s := tweak (written LineMeta.reset) (regs [own 8]);
      s.room 1 ∧ (s.access 16 0).toNat % 8 = 0 ∧ localPtr (s.access 16 0) = some (.spad 8) ∧ s.bankOpen clsS 0 ∧ s.core.sound s.strand.world 0)
    ∧ (let s := tweak id (regs [word (4 * 2 ^ 60 + 15 * 4096 + 127 * 32 + 24)]);
      localPtr (s.access 16 0) = some (.scale 15 127 24) ∧ s.bankOpen clsS 15 ∧ (s.core.rec_ (15 * 128 + 127)).poison = false)
    ∧ (let s := tweak id (regs [word (3 * 2 ^ 60 + 7 * 8192 + 31 * 256 + 248)]);
      localPtr (s.access 16 0) = some (.acc 7 (31 * 256 + 248)) ∧ (31 * 256 + 248) / 256 < (s.core.acc 7).w ∧ s.fenceHolds clsS = false)
    ∧ (let s := tweak (written { LineMeta.reset with poison := true }) (regs [own 63]);
      s.room 1 ∧ localPtr (s.access 16 0) = some (.spad 63) ∧ s.bankOpen clsS 0 ∧ s.strand.status = .running ∧ s.strand.reports = []
        ∧ (s.core.line 0).written = true ∧ (s.core.line 0).tag = s.strand.world ∧ (s.core.line 0).err = Ecc.sound ∧ (s.core.line 0).poison = true
        ∧ vctlEn s.core.vctl = false) := by
  unfold State.room State.bankOpen Core.sound; decide +kernel

theorem witness_StoresWriteTheirBytes :
    (let s := tweak (written LineMeta.reset) (regs [own 0xFFFF8, 7]); localPtr (s.access 16 0) = some (.spad 0xFFFF8) ∧ s.bankOpen clsS (bankOf 0xFFFF8))
    ∧ (let s := tweak id (regs [word (4 * 2 ^ 60 + 16), 7]); localPtr (s.access 16 0) = some (.scale 0 0 16) ∧ s.bankOpen clsS 0)
    ∧ (let s := tweak id (regs [word (3 * 2 ^ 60 + 31 * 256 + 248), 7]);
      localPtr (s.access 16 0) = some (.acc 0 (31 * 256 + 248)) ∧ (31 * 256 + 248) / 256 < (s.core.acc 0).w ∧ s.core.engaged 0 = false
        ∧ s.fenceHolds clsS = false) := by
  unfold State.bankOpen; decide +kernel

theorem witness_VectorInstructionsStart :
    (holding 63).room 1 ∧ (let s := tweak id fun x => { x with ctime := 4, divider := [(2, 0)] }; s.divFree (s.cur.slot.divUnit true) 4) :=
  ⟨by unfold State.room; decide +kernel, (Strand.divBusy_eq _ _ _).1 (by decide +kernel)⟩

/-- A flight of eight columns with all elements active, in the last of which element 31 of 32-bit elements lies. -/
def flight (i : Instr) (f : VF) : Flight := { base.newFlight i f 2 with c0 := 0, em := BitVec.allOnes 128 }

theorem witness_VectorElementsAndTheirLanding :
    (let f : VF := ⟨.w1024, false, 0, 0, 0, 0, .i32⟩; let F := flight (.vadd f) f;
      f.ty.isF = false ∧ F.active 31 = true ∧ { F with em := 0 }.active 31 = false
        ∧ F.c0 ≤ 7 ∧ 3 < 128 / F.dbits ∧ 31 = (7 - F.c0) * (128 / F.dbits) + 3 ∧ 31 < F.count) := by decide +kernel

/-- An access of 64-bit elements of which element `m` is active, with slide distance 1 at the last element, −1 at the first, and −1 at the last. -/
theorem witness_vector_slides :
    (let F (vc : R5) : Flight := flight (.vslide ⟨.w1024, false, 0, 0, 0, vc, .f64⟩) ⟨.w1024, false, 0, 0, 0, vc, .f64⟩
     (F 1).count = 16 ∧ (F 1).active 15 = true ∧ (16 : Int) ≤ 15 + (1 : R5).toInt ∧ (0 : Int) + (31 : R5).toInt < 0 ∧ 0 ≤ 0 + (31 : R5).toInt + 16
      ∧ 0 ≤ (15 : Int) + (31 : R5).toInt ∧ 15 + (31 : R5).toInt < 16) := by decide +kernel

/-- The types, conditions and operations that the clauses name. -/
theorem witness_vector_forms :
    VType.i32.isF = false ∧ VType.bf16.isF = true ∧ (VType.f64, 52) ∈ [(VType.bf16, 7), (.f16, 10), (.f32, 23), (.f64, 52)]
    ∧ (let f : VF := ⟨.w1024, false, 0, 0, 0, 9, .i8⟩; let F := flight (.vcmp f) f; F.c0 ≤ 7 ∧ 127 < 128 ∧ 127 < F.count ∧ 127 / 16 = 7 - F.c0 ∧ f.vc.toNat = 9)
    ∧ ((let f : VF := ⟨.w1024, false, 0, 0, 0, 11, .f32⟩; f.vc.toNat = 11 ∧ 32 ≤ 127 ∧ (flight (.vcmp f) f).count = 32))
    ∧ (∀ m ∈ [0, 1, 2, 3], ∃ vc : R5, (let f : VF := ⟨.w1024, false, 0, 0, 0, vc, .i32⟩; f.cvtMode = m))
    ∧ (∀ op ∈ [0, 1, 2], ∃ vc : R5, (let f : VF := ⟨.w1024, false, 0, 0, 0, vc, .f32⟩; vcOp f = op)) := by decide +kernel

/-- The accumulators that a scan and a reduction name exist: a sum of 32-bit elements, all of them active. -/
theorem witness_vector_scan (el : Nat → Nat) (F : Flight) (h : ∀ m, F.active m = true) :
    ∃ acc g : Nat → Nat, acc 0 = 0 ∧ (∀ m, g m = if false && F.cm.getLsbD m then 0 else acc m)
      ∧ ∀ m, acc (m + 1) = if F.active m then (fun x y => (x + y) % 2 ^ 32) (g m) (el m) else g m := by
  refine ⟨fun n => n.rec 0 fun m a => (a + el m) % 2 ^ 32, fun n => n.rec 0 fun m a => (a + el m) % 2 ^ 32, rfl, fun m => rfl, fun m => ?_⟩
  rw [if_pos (h m)]

/-- A flight of a reduction whose result is due. -/
theorem witness_vector_result_due :
    (let f : VF := ⟨.w1024, false, 31, 0, 0, 0, .i32⟩; let F := flight (.vred f) f
     let s := tweak id fun x => { x with ctime := F.t + F.lat + 8, held := [⟨.vector F, true, []⟩] }
     F.t + F.lat + 8 ≤ (s.strandAt 0 0).ctime ∧ s.strand.held = [⟨.vector F, true, []⟩]) := by decide +kernel

theorem witness_VectorAccessesStart :
    (let s := tweak (fun k => { k with lines := [(3, { LineMeta.reset with written := true })] }) (regs [own 0x80])
     let f : VF := ⟨.w1024, false, 0, 16, 17, 0, .i32⟩
     let F0 := { s.newFlight (.vld f) f 8 with fmt := accessFmt s.core (.spad 0x80), u := s.src f.vb }
     okIs (vecAddr s (s.src f.va) true) (.spad 0x80) = true ∧ s.fenceHolds clsV = false ∧ s.lLatched 0 = false ∧ s.lTooSoon 0 = false ∧ s.room 1 ∧ footprintBad F0 0 0x80 = false
      ∧ accBlocked s F0 (.spad 0x80) false = false ∧ bfmtScaled (s.core.fmt 0) = false ∧ F0.count * accessBits F0.fmt f.ty / 8 = 128
      ∧ s.core.sound s.strand.world 2 ∧ s.core.sound s.strand.world 3)
    ∧ (let s := tweak id (regs [own 0xFFF00])
       let f : VF := ⟨.w1024, false, 0, 16, 17, 0, .f64⟩
       let F0 := { s.newFlight (.vst f) f 0 with fmt := accessFmt s.core (.spad 0xFFF00), u := s.src f.vb, opId := s.nextId }
       okIs (vecAddr s (s.src f.va) true) (.spad 0xFFF00) = true ∧ s.lLatched 15 = false ∧ s.lTooSoon 15 = false ∧ footprintBad F0 0 0xFFF00 = false
        ∧ accBlocked s F0 (.spad 0xFFF00) true = false)
    ∧ (let s := tweak id (regs [word (3 * 2 ^ 60 + 7 * 8192 + 31 * 256)])
       let f : VF := ⟨.w1024, false, 0, 16, 17, 0, .f64⟩
       let F0 := { s.newFlight (.vld f) f 8 with fmt := accessFmt s.core (.acc 7 (31 * 256)), u := s.src f.vb, opId := s.nextId, emFixed := true, em := s.strand.em }
       okIs (vecAddr s (s.src f.va) true) (.acc 7 (31 * 256)) = true ∧ footprintBad F0 0 (31 * 256) = false
        ∧ accBlocked s F0 (.acc 7 (31 * 256)) false = false ∧ accBlocked s F0 (.acc 7 (31 * 256)) true = false) := by
  unfold State.room Core.sound; decide +kernel

theorem witness_AccumulatorRowsMove :
    (let s := tweak (fun k => { k with accs := [(1, { Acc.reset with w := 1 })] }) (regs [16 * 32])
     let f : VF := ⟨.w1024, false, 0, 16, 0, 1, .f64⟩
     Word.field (s.src f.va) 5 5 + f.width.bits / f.ty.bits ≤ 32 ∧ s.fenceHolds clsV = false ∧ s.room 1
      ∧ Word.field (s.src f.va) 0 5 < (s.core.acc (f.vc.toNat % 8)).w ∧ s.core.engaged (f.vc.toNat % 8) = false) := by
  unfold State.room; decide +kernel

theorem witness_VectorStoreStaysInItsBlock :
    (let f : VF := ⟨.w1024, false, 0, 16, 17, 0, .f64⟩; localPtr { flight (.vst f) f with s := own 0xFFF00 }.s = some (.spad 0xFFF00)) := by decide +kernel

/-! #### The matrix unit -/

/-- A descriptor of `n` slots: size code, bank and offset (R147). -/
def desc (n code bank off : Nat) : Word := word ((n - 1) * 2 ^ 40 + code * 2 ^ 36 + bank * 2 ^ 16 + off)

/-- A configured ring with tokens and permits. -/
def ring (d : Word) (tokens permits : Nat) : Ring := { Ring.reset with configured := true, desc := d, tokens := tokens, permits := permits }

/-- Rings 0 and 1 of 1,024-byte tiles in bank 0 (elements e4m3, ELEM 1), ring 2 of 128-byte masks in bank 1, ring 3 of 1,024-byte tiles in bank 2, whose format is scaled. -/
def tiles (k : Core) : Core :=
  { k with bfmt := [(0, 2048), (2, 2048 + 1024)]
           rings := [(0, ring (desc 2 5 0 0) 2 0), (1, ring (desc 2 5 0 2048) 1 1), (2, ring (desc 2 2 1 0) 1 1), (3, ring (desc 1 5 2 0) 0 1),
                     (4, ring (desc 1 5 0 4096) 0 1)] }

theorem witness_MatrixInstructionsIssue :
    (let s := tweak (fun k => { tiles k with mg := 2 * 2 ^ 18 }) (regs [0, 3 * 2 ^ 16])
     s.core.mq.length + s.core.mplaces < 16 ∧ operandFault s.core [0, 1] 7 none = none ∧ operandFault s.core [0, 1] 7 (some (mgMQ s.core.mg)) = none
      ∧ operandFault s.core [0] 10 none = none ∧ (∀ q ∈ [0, 1, 2], s.tokensOf s.cur.core q ≠ 0)
      ∧ outputFault s.core 3 (fun w => !bfmtScaled w) tileBytes = none ∧ s.permitsOf s.cur.core 3 ≠ 0
      ∧ outputFault s.core 4 (fun w => bfmtScaled w || bfmtElem w == 0) tileBytes = none ∧ s.permitsOf s.cur.core 4 ≠ 0
      ∧ outputFault s.core 4 bfmtScaled (fun _ => 1024) = none
      ∧ mgOk (s.src 16) = true ∧ mgOk (s.src 17) = false) := by decide +kernel

theorem witness_TokensReturnAndArrive :
    (let s := tweak tiles id; ((s.coreAt 0).ring 0).queue = [])
    ∧ (let k := { tiles base.core with remote := [({ OpInfo.none with id := 5 }, 1, 1)] }
       let s := tweak (fun _ => k) id
       let k := s.coreAt 0
       SMap.rising s.cores ∧ (s.cores.find? fun k => k.2.remote.any fun r => r.1.id == 5) = some (0, k)
        ∧ k.remote.find? (fun r => r.1.id == 5) = some ({ OpInfo.none with id := 5 }, 1, 1) ∧ (k.ring 1).configured = true ∧ 1 ≤ ringCount (k.ring 1).desc
        ∧ 1 ≤ s.permitsOf 0 1 ∧ (k.ring 1).taken = []) := by decide +kernel

/-! #### Memory commands, copies, rings, sync words -/

/-- A workgroup of world 0 on core 0 with one logical channel, number 0, on pseudo-channel 5 of stack 0, whose last command stood at tick 100 and whose bank 0 has row 3 open. -/
def workgroup : Workgroup :=
  { id := 1, world := 0, queue := 0, seq := 1, index := 0, cluster := 0, cores := [0], strands := 1, mprof := 0x47, state := .running, boundary := 0,
    window := [⟨0, 0, 0, some (0, 5), [(0, 1)], []⟩], remap := false, view := [], stale := false, meterGrains := 0, started := 0, launch := 1 }

/-- The base state with that workgroup, the core, the strand and the channel changed. -/
def owner (k : Core → Core) (x : Strand → Strand) : State :=
  { tweak (fun c => { k c with wg := some 1 }) x with
    wgs := [workgroup]
    pcs := [(5, { Pc.reset with owner := some 1, nominal := 100, openRow := [(16, 3)], events := [⟨.a, 1, 0, 0, 3, 100⟩] })] }

/-- A data-window address: group, bank, row, column. -/
def data (bg bank row col : Nat) : Word := word (bg * 2 ^ 26 + bank * 2 ^ 24 + row * 2 ^ 10 + col * 64)

/-- Whether the window finds this workgroup's channel, pseudo-channel 5 and this SID. -/
def found (s : State) (x : Word) (needSid : Bool) (sid : Nat) : Bool := okIs (s.window x needSid) (⟨0, 0, 0, some (0, 5), [(0, 1)], []⟩, 5, sid)

/-- A row command that breaks no rule, and one sent too soon (Δ 1 after an activate), for the whole channel and for a bank. -/
theorem witness_MemoryCommandsAreAccepted_row :
    (let s := owner id (regs [data 1 0 7 0, data 0 0 3 0])
     let P := s.pcAt 5
     let p := Config.profile ((s.wg.map (·.mprof)).getD 0x47)
     found s (s.src 16) true 1 = true ∧ found s (s.src 16) false 0 = true ∧ vaCol (s.src 16) = 0 ∧ vaByte (s.src 16) = 0 ∧ P.queue.length < 64
      ∧ s.fenceHolds clsD = false
      ∧ timingFault p P.openRow P.events [⟨.a, 1, 1, 0, 7, 100 + 255⟩] = none
      ∧ timingFault p P.openRow P.events [⟨.p, 1, 0, 0, 3, 100 + 255⟩] = none
      ∧ (timingFault p P.openRow P.events [⟨.p, 1, 0, 0, 3, 100 + 1⟩]).isSome = true
      ∧ timingFault p P.openRow P.events [] = none) := by decide +kernel

/-- A read of the grains of the last two columns into the last lines of a bank, one into a ring, and a write from a line, all of an open row. -/
theorem witness_MemoryCommandsAreAccepted_data :
    (let s := owner tiles (regs [data 0 0 3 14, own 0xFFF80, word (5 * 2 ^ 60 + 1), data 0 0 3 0])
     let P := s.pcAt 5
     let p := Config.profile ((s.wg.map (·.mprof)).getD 0x47)
     let f : MemF := ⟨16, 17, 200, 1, 15⟩
     found s (s.src 16) true 1 = true ∧ dataFault s ⟨0, 0, 0, some (0, 5), [(0, 1)], []⟩ f (s.src 16) false = none
      ∧ dataFault s ⟨0, 0, 0, some (0, 5), [(0, 1)], []⟩ f (s.src 16) true = none
      ∧ okIs (s.landing false (s.src 17) 14 2) (.spad 0 15 0xFF80, s.core.fmt 15) = true
      ∧ okIs (s.landing false (s.src 18) 14 2) (.ring 0 1 0, 2048) = true ∧ s.permitsOf 0 1 ≠ 0
      ∧ okIs (s.landing true (s.src 18) 0 16) (.ring 0 1 0, 2048) = true
      ∧ timingFault p P.openRow P.events (grainEvents .rg 1 (s.src 16) (footprint 14 2).2 (100 + 200)) = none
      ∧ timingFault p P.openRow P.events (grainEvents .wg 1 (s.src 16) 2 (100 + 200)) = none
      ∧ (match s.writeSource (s.src 17) 2 with
          | .ok q => decide (q.1 = 0 ∧ q.2.2.1 = none) && s.sourceServed q.2.2.2
          | .error _ => false) = true
      ∧ (match s.writeSource (s.src 18) 2 with
          | .ok q => decide (q.1 = 0 ∧ q.2.2.1 = some 1) && s.sourceServed q.2.2.2
          | .error _ => false) = true
      ∧ s.tokensOf s.cur.core 1 ≠ 0 ∧ (s.core.ring 1).queue = [] ∧ s.strand.status = .running) := by decide +kernel

/-- A copy of two lines to the end of a bank, a copy from a ring to a ring, a fill, and a rescale of a tile of a scaled bank. -/
theorem witness_CopiesJoinThePortAndComplete_issue :
    (let s := tweak tiles (regs [own 0, own 0xFFF80, own (2 * 65536), word (5 * 2 ^ 60 + 1), word (5 * 2 ^ 60 + 4)])
     okIs (s.sidePlace (s.src 16)) (.spad 0 0 0) = true ∧ okIs (s.sidePlace (s.src 17)) (.spad 0 15 0xFF80) = true
      ∧ copySizes false (s.placeFmt (.spad 0 0 0)) (s.placeFmt (.spad 0 15 0xFF80)) 2 = (128, 128)
      ∧ okIs (s.placeSys (.spad 0 0 0) 128 false) (.spad 0 0 0) = true ∧ okIs (s.placeSys (.spad 0 15 0xFF80) 128 true) (.spad 0 15 0xFF80) = true
      ∧ copyFault s false (s.placeFmt (.spad 0 0 0)) (s.placeFmt (.spad 0 15 0xFF80)) (.spad 0 0 0) (.spad 0 15 0xFF80) 128 128 15 = none
      ∧ s.sideFault (.spad 0 0 0) (.spad 0 15 0xFF80) 128 128 = none ∧ s.sidesBlocked (.spad 0 0 0) (.spad 0 15 0xFF80) = false
      ∧ copySizes true (s.placeFmt (.ring 0 1 0)) (s.placeFmt (.ring 0 4 0)) 1 = (1024, 1024)
      ∧ copyFault s true (s.placeFmt (.ring 0 1 0)) (s.placeFmt (.ring 0 4 0)) (.ring 0 1 0) (.ring 0 4 0) 1024 1024 15 = none
      ∧ s.sideFault (.ring 0 1 0) (.ring 0 4 0) 1024 1024 = none ∧ s.sidesBlocked (.ring 0 1 0) (.ring 0 4 0) = false
      ∧ copyFault s false 0 0 .none (.spad 0 15 0xFF80) 128 128 15 = none
      ∧ s.sideFault .none (.spad 0 15 0xFF80) 128 128 = none ∧ s.sidesBlocked .none (.spad 0 15 0xFF80) = false
      ∧ s.resolve (s.src 18) = some (0, 2 * 65536) ∧ bfmtValid ((s.coreAt 0).fmt 2) = true ∧ bfmtScaled ((s.coreAt 0).fmt 2) = true
      ∧ 0 % tileBytes ((s.coreAt 0).fmt 2) = 0) := by decide +kernel

/-- A started fill and a started copy to system memory. -/
def started (kind : CopyKind) (dst : Place) : CopyOp :=
  { info := { OpInfo.none with id := 7 }, kind := kind, src := .spad 0 0 0, dst := dst, len := 64, dlen := 64, sfmt := 0, dfmt := 0, arg := 0x1122,
    read := some ⟨List.replicate 64 1, [], [], []⟩, got := 64, put := 0, ahead := [], vctl := 0, srcWheels := [], dstWheels := [] }

theorem witness_CopiesJoinThePortAndComplete_complete :
    (let o := started .fill (.spad 0 15 0xFFC0)
     let s := tweak (fun k => { k with copies := [o] }) id
     (s.coreAt 0).copies.find? (fun o => o.info.id == 7) = some o ∧ s.destPending o = false ∧ o.kind = .fill ∧ o.len ≤ o.got ∧ o.put = 0
      ∧ o.dlen % 64 = 0 ∧ 0xFFC0 % 64 = 0 ∧ s.dstServed o = true ∧ s.lastWrite o = true ∧ s.bridgeWaits o = false)
    ∧ (let o := started .copy (.sys 4096)
       let d : CopyData := ⟨List.replicate 64 1, [], [], []⟩
       let s := tweak (fun k => { k with copies := [o] }) id
       (s.coreAt 0).copies.find? (fun o => o.info.id == 7) = some o ∧ o.read = some d ∧ s.destPending o = false ∧ (copyOut o d).scale = false
        ∧ o.len ≤ o.got ∧ o.put = 0 ∧ o.dlen % 64 = 0 ∧ rawCopy o.sfmt o.dfmt = true ∧ d.bytes.length = o.dlen
        ∧ s.dstServed o = true ∧ s.lastWrite o = true ∧ s.bridgeWaits o = false)
    ∧ (let o := { started .rescale (.spad 0 2 0) with src := .spad 0 2 0 }; base.dstServed o = true ∧ base.srcServed o = true) := by
  decide +kernel

theorem witness_RingInstructionsComplete :
    (let s := owner tiles (regs [desc 2 5 0 0, word (5 * 2 ^ 60 + 1), word (7 * 2 ^ 60 + 1)])
     s.fenceHolds clsC = false ∧ bfmtValid (s.core.fmt (ringBank (s.src 16))) = true ∧ ringDescOk (s.core.fmt (ringBank (s.src 16))) (s.src 16) = true
      ∧ (s.core.ring 0).taken = [] ∧ (s.core.ring 0).lent = 0 ∧ s.heldTokens 0 0 = 0 ∧ s.heldPermits 0 0 = 0 ∧ (s.core.ring 0).configured = true
      ∧ 1 + 1 ≤ ringCount (s.core.ring 0).desc ∧ 1 + 1 ≤ s.tokensOf s.cur.core 0 ∧ 2 ≤ (s.core.ring 0).tokens
      ∧ 0 + 1 ≤ s.permitsOf s.cur.core 1 ∧ s.cur.arrive = [] ∧ (s.core.ring 1).taken = []
      ∧ ringPtr (s.src 17) = some 1 ∧ ringPtr (s.src 18) = none ∧ s.ringTarget (s.src 18) = some (0, 1)) := by decide +kernel

/-- Slot 14 names a sync word of generation 0; the sources are another generation and the same. -/
theorem witness_SyncWordInstructionsComplete :
    (let s := tweak id (fun x => { regs [5, 0] x with sync := [(14, own 0xFFFF0)] })
     SMap.get s.strand.sync 0 14 ≠ 0 ∧ s.resolve (SMap.get s.strand.sync 0 14) = some (0, 0xFFFF0)
      ∧ wheelHasWindow ((s.coreAt 0).wheel (bankOf 0xFFFF0)) = true ∧ s.fenceHolds clsC = false
      ∧ s.generation 0 0xFFFF0 ≠ (s.src 16).toNat % 2 ^ 32 ∧ s.generation 0 0xFFFF0 = (s.src 17).toNat % 2 ^ 32)
    ∧ (let s := tweak (fun k => { k with bwheel := [(0, 0x249249249249)] }) (fun x => { x with sync := [(0, own 16)] })
       s.resolve (SMap.get s.strand.sync 0 0) = some (0, 16) ∧ wheelHasWindow ((s.coreAt 0).wheel (bankOf 16)) = false ∧ s.cur.sure = false)
    ∧ (let s := tweak (written LineMeta.reset) id; 48 % 16 = 0 ∧ (s.coreAt 0).sound (s.worldOfCore 0) (48 / 64)) := by
  unfold Core.sound; decide +kernel

/-- What a strand keeps of a sent atomic. -/
def sentAtomic (done : Bool) : Sent := { id := 7, done := done, old := 9, bytes := [], regs := [], window := [], view := [], mplace := false }

theorem witness_AtomicsIssue :
    (let s := tweak id fun x => { x with sent := some (sentAtomic true) }; s.strand.sent = some (sentAtomic true) ∧ s.room 1)
    ∧ (let s := tweak id fun x => { x with sent := some (sentAtomic false) }; s.strand.sent = some (sentAtomic false))
    ∧ (let s := tweak id (regs [own 0xFFFF8]); s.strand.sent = none ∧ s.resolve (s.src 16) = some (0, 0xFFFF8) ∧ 0xFFFF8 % 8 = 0
        ∧ bfmtValid ((s.coreAt 0).fmt (bankOf 0xFFFF8)) = true ∧ wheelHasWindow ((s.coreAt 0).wheel (bankOf 0xFFFF8)) = true ∧ s.fenceHolds clsA = false)
    ∧ (let s := { owner id (regs [word (2 * 2 ^ 60 + 2 ^ 56 + 16)]) with wgs := [{ workgroup with cores := [0, 1] }] }
       s.strand.sent = none ∧ s.resolve (s.src 16) = some (1, 16) ∧ (1 : Nat) ≠ s.cur.core ∧ bfmtValid ((s.coreAt 1).fmt (bankOf 16)) = true
        ∧ wheelHasWindow ((s.coreAt 1).wheel (bankOf 16)) = true ∧ s.room 1) := by
  unfold State.room; decide +kernel

theorem witness_AtomicsPerform :
    (let s := tweak (written LineMeta.reset) id; 12 % 4 = 0 ∧ (s.coreAt 0).sound 0 (12 / 64)) := by unfold Core.sound; decide +kernel

/-- A bank's queue whose oldest entry is the given one. -/
def queued (r : Rmw) (x : Strand → Strand) : State := tweak (fun k => { k with rmw := [(3, r)] }) x

theorem witness_BankQueueHeadIsPerformed :
    (let i := { OpInfo.none with id := 7 }
     let r := Rmw.atomic i (3 * 65536) (.aadd ⟨0, 0, 0, 0, true⟩) true 1 0 true
     let s := queued r fun x => { x with sent := some (sentAtomic false) }
     let p := s.performAtomic 0 i (3 * 65536) (.aadd ⟨0, 0, 0, 0, true⟩) true 1 0
     let s1 := p.1.setCore 0 ((p.1.coreAt 0).rmwPop 3)
     (s.coreAt 0).rmwHead 3 = some r ∧ 0 < (s.coreAt i.core).due ∧ wheelHasWindow ((s.coreAt 0).wheel 3) = true ∧ (s1.strandAt i.core i.strand).sent = some (sentAtomic false) ∧ (sentAtomic false).id = i.id)
    ∧ ((queued (.count (3 * 65536) 64 false false) id).coreAt 0).rmwHead 3 = some (.count (3 * 65536) 64 false false)
    ∧ ((queued (.swset (3 * 65536) 5 0) id).coreAt 0).rmwHead 3 = some (.swset (3 * 65536) 5 0) := by decide +kernel

/-! #### The fabric and control -/

/-- Port 2 is up in Shenen mode. -/
def shenenPort : SMap Port := [(2, { Port.reset with up := true, shenen := true })]

/-- Device 9 is reached through port 2, with a key for world 0. -/
def linked (k : Core → Core) (x : Strand → Strand) : State := { owner k x with routes := [(9, 2)], linkKeys := [⟨0, 9, 0, 1, 0, 0⟩], device := 1, ports := shenenPort }

/-- An offset in the window 0 of device 9. -/
def peer (off : Nat) : Word := word (6 * 2 ^ 60 + 9 * 2 ^ 43 + off)

theorem witness_FabricOperationsIssue :
    (let s := linked tiles (regs [peer (Config.pageBytes - 64), own 0xFFFC0, word (5 * 2 ^ 60 + 4), own 0])
     s.fabFull = false ∧ s.peerFault (s.src 16) .put = none ∧ s.peerFault (s.src 16) .get = none ∧ s.peerFault (s.src 16) .amo = none
      ∧ s.peerFault (s.src 16) .putv = none ∧ okIs (s.sidePlace (s.src 17)) (.spad 0 15 0xFFC0) = true
      ∧ s.sideFault (.spad 0 15 0xFFC0) .none 64 0 = none ∧ s.localFault (.spad 0 15 0xFFC0) 15 = none ∧ peerRangeBad (s.src 16) 64 64 = false
      ∧ s.sideBlocked (.spad 0 15 0xFFC0) false = false
      ∧ s.sideFault (.ring 0 4 0) .none 1024 0 = none ∧ s.localFault (.ring 0 4 0) 15 = none ∧ s.sideBlocked (.ring 0 4 0) true = false
      ∧ s.syncMissing 15 = false ∧ peerRangeBad (s.src 16) (16 * (2 * 2 ^ 1)) (16 * (2 * 2 ^ 1)) = false ∧ peerRangeBad (s.src 16) 8 8 = false
      ∧ (s.core.ring 4).configured = true ∧ ringSizeCode (s.core.ring 4).desc ≠ 0 ∧ bfmtValid (s.core.fmt (ringBank (s.core.ring 4).desc)) = true
      ∧ s.permitsOf s.cur.core 4 ≠ 0
      ∧ Word.space (s.src 19) = 1 ∧ okIs (s.sidePlace (s.src 19)) (.spad 0 0 0) = true ∧ rangeBad (.spad 0 0 0) 64 = false
      ∧ s.placeBad (.spad 0 0 0) = false) := by decide +kernel

/-- A transfer to the bundle's own page, one to region 0, and room for a call's result. -/
theorem witness_TransfersComplete :
    (let s := tweak id (regs [0, word (2 ^ 52 + 64), 32])
     s.src 16 = 0 ∧ s.targetFault s.cur.core (s.src 17) = none ∧ s.targetFault s.cur.core (s.src 18) = some cChown ∧ cChown ≠ cXpoison ∧ s.room 1) := by
  unfold State.room; decide +kernel

/-- One target for each clause, at the edges of its range. -/
theorem witness_TransferTargetChecksInOrder :
    (let s := base
     ((word (2 ^ 56)).toNat / 2 ^ 56 ≠ 0)
      ∧ ((word (2 ^ 52 - 32)).toNat / 2 ^ 56 = 0 ∧ (word (2 ^ 52 - 32)).toNat / 2 ^ 52 = 0)
      ∧ ((word (2 ^ 53)).toNat / 2 ^ 56 = 0 ∧ 1 < (word (2 ^ 53)).toNat / 2 ^ 52)
      ∧ ((word (2 ^ 52 + 1)).toNat / 2 ^ 52 = 1 ∧ (word (2 ^ 52 + 1)).toNat % 32 ≠ 0)
      ∧ ((word (2 ^ 52 + 2 ^ 39)).toNat / 2 ^ 52 = 1 ∧ (word (2 ^ 52 + 2 ^ 39)).toNat % 32 = 0 ∧ (word (2 ^ 52 + 2 ^ 39)).toNat % 2 ^ 52 / 2 ^ 39 ≠ 0)
      ∧ (SMap.find (s.viewOf 0) (pageOf (2 ^ 52 + 2 ^ 39 - 32)) = none ∧ (2 ^ 52 + 2 ^ 39 - 32) % 2 ^ 52 / 2 ^ 39 = 0)
      ∧ (SMap.find (s.viewOf 0) (pageOf (2 ^ 52))).isSome = true) := by decide +kernel

theorem witness_LoopsRepetitionsAndEnd :
    (let s := tweak id (fun x => { regs [0xFFFFF, 0, 0x100000, 1] x with lc := List.replicate 2 ⟨1, 0, 0⟩ })
     0 < (s.src 16).toNat ∧ (s.src 16).toNat ≤ 0xFFFFF ∧ s.strand.lc.length < 3 ∧ (s.src 17).toNat = 0 ∧ 0xFFFFF < (s.src 18).toNat
      ∧ (∀ e ∈ s.strand.lc, e.last ≠ s.cur.pc))
    ∧ (let x := { Strand.reset with pc := 64, lc := [⟨2, 32, 64⟩] }; x.repActive = false ∧ x.lc = [⟨2, 32, 64⟩] ∧ (64 : Word) = x.pc ∧ 1 < 2)
    ∧ (let x := { Strand.reset with pc := 64, lc := [⟨1, 32, 64⟩] }; x.repActive = false ∧ x.lc = [⟨1, 32, 64⟩] ∧ (64 : Word) = x.pc ∧ 1 ≤ 1)
    ∧ (let x := { Strand.reset with repActive := true, repIndex := 1, repCount := 2 }; x.repActive = true ∧ x.repIndex < x.repCount)
    ∧ (let x := { Strand.reset with repActive := true, repIndex := 2, repCount := 2 }; x.repActive = true ∧ x.repCount ≤ x.repIndex ∧ x.lc = []) := by
  decide +kernel

theorem witness_PhasesAndFencesComplete :
    (let s := owner id fun x => { x with released := true }
     s.strand.released = true ∧ s.wg = some workgroup ∧ workgroup.boundary < 2 ^ 64)
    ∧ base.strand.released = false
    ∧ (let s := owner id fun x => { x with arrived := true, status := .running }
       s.wgAt 1 = some workgroup ∧ workgroup.state = .running ∧ s.boundaryDue workgroup = true
        ∧ (0, s.strandAt 0 0) ∈ (s.coreAt 0).strands ∧ (s.strandAt 0 0).arrived = true)
    ∧ (owner id fun x => { x with arrived := false }).boundaryDue workgroup = false
    ∧ (let s := { owner id fun x => { x with arrived := true, status := .running } with wgs := [{ workgroup with state := .sealing }] }
       s.sealStopped 1 = false ∧ s.boundaryDue { workgroup with state := .sealing } = true) := by decide +kernel

theorem witness_RegionsAndBreakpoints :
    (let s := tweak id fun x => { x with regions := List.replicate 3 ⟨1, 0, 0⟩ }; s.strand.regions.length < 4 ∧ s.strand.regions ≠ [])
    ∧ (let s := tweak id fun x => { x with regions := List.replicate 4 ⟨1, 0, 0⟩ }; 4 ≤ s.strand.regions.length)
    ∧ base.strand.regions = [] ∧ (base.worldAt base.strand.world).debug = false
    ∧ (let s := { owner id id with worlds := [(0, { World.reset with debug := true })] }
       (s.worldAt s.strand.world).debug = true ∧ s.wg = some workgroup ∧ workgroup.state ≠ .sealing
        ∧ { s with wgs := [{ workgroup with state := .sealing }] }.wg = some { workgroup with state := .sealing }) := by decide +kernel

theorem witness_TrapTakesItsFault :
    (let s := { base with cur := { base.cur with slot := .x } }
     let b : Bundle := { hdr := Header.zero, syls := [(.s0, .addi ⟨0, 16, 1⟩), (.x, .trap 5)] }
     s.cur.slot = .x ∧ (Slot.x, Instr.trap 5) ∈ b.syls ∧ (b.syls.all fun p => !base.privSyl p.2) = true
      ∧ (base.runSlot b.hdr (.s0, .addi ⟨0, 16, 1⟩)).cur.verdict = .ok) := by decide +kernel

/-- A valid and an invalid write for each register with a row of its own. -/
theorem witness_SystemRegisterMoves :
    (let s := tweak id (fun x => { regs [0, word (2 * 2 ^ 26 + 2 * 2 ^ 20), word (2 ^ 32 + 2 * 2 ^ 26), word (2 ^ 62), word (3 * 2 ^ 56 + 2 ^ 62)] x with
        repAddr := some (word (2 ^ 52)), lc := [⟨2, 32, 64⟩] })
     s.sysPriv 0x010 = false ∧ s.sysPriv 0x830 = false ∧ s.room 1
      ∧ (wheelOk Config.defaultWheel = true ∧ wheelHasWindow Config.defaultWheel = true)
      ∧ (s.src 16 = 0)
      ∧ Word.field (s.src 17) 20 6 ≤ Word.field (s.src 17) 26 6 ∧ (s.src 17).getLsbD 32 = false
      ∧ Word.field (s.src 18) 20 6 ≤ Word.field (s.src 18) 26 6 ∧ (s.src 18).getLsbD 32 = true ∧ s.targetFault s.cur.core (word (2 ^ 52)) = none
      ∧ Word.field (s.src 19) 62 2 ≤ s.strand.lc.length
      ∧ mgOk (s.src 16) = true ∧ s.strand.world = 0
      ∧ xinvOk (s.src 20) = true ∧ Word.field (s.src 20) 62 2 ≠ 0)
    ∧ (let s := { tweak id id with worlds := [(0, { World.reset with pwctl := 0x4000000000000000 })] }
       let v : Word := word (2 ^ 63 + 5 * 2 ^ 58)
       (s.worldAt s.strand.world).test = true ∧ vctlTgt v ≤ 5 ∧ Word.field v 32 20 = 0 ∧ Word.field v 24 8 = 0)
    ∧ (∃ c addr, base.resolve (own 0xFFFF0) = some (c, addr) ∧ addr % 16 = 0 ∧ wheelHasWindow ((base.coreAt c).wheel (bankOf addr)) = true) := by
  unfold State.room
  exact ⟨by decide +kernel, by decide +kernel, 0, 0xFFFF0, by decide +kernel⟩

theorem witness_SupervisorInstructionsFaultPriv :
    (let s := tweak id fun x => { x with world := 15 }; 0x800 ≤ (0x800 : BitVec 12).toNat ∧ s.strand.world ≠ 0)
    ∧ (base.worldAt base.strand.world).test = false := by decide +kernel

/-! #### The step -/

/-- A bundle of syllables at their positions, placed for the next step. -/
def placing (ws : List (Nat × SlotClass × Instr)) : State :=
  State.reset.withFetchWord 256 ((ws.map fun w => ((encode w.2.1 w.2.2).getD 0).toNat * 2 ^ (32 * w.1)).sum)

/-- The bundle with the one syllable addi n4 := n4 + 64 in slot S0; the same with addi n5 := n5 + 1 in slot S1; with a wait on a ring without tokens; with a trap. -/
def placed : State := placing [(1, .s, .addi ⟨4, 20, 64⟩)]
def placedTwo : State := placing [(1, .s, .addi ⟨4, 20, 64⟩), (2, .s, .addi ⟨5, 21, 1⟩)]
def placedWait : State := (placing [(1, .s, .addi ⟨4, 20, 64⟩), (7, .x, .qwait 0 1)]).modCore 0 fun k => { k with rings := [(0, ring (desc 2 5 0 0) 0 2)] }
def placedTrap : State := placing [(1, .s, .addi ⟨4, 20, 64⟩), (7, .x, .trap 5)]

/-- What the selector sees. -/
def seen (s : State) : State × List Nat := ((s.withTurns []).spendDue 0).beforeRun 0

/-- The state in which the chosen strand's bundle is tried. -/
def chosen (s : State) : State := (seen s).1.modCore 0 fun k => k.countWaits (seen s).2 (some 0)

/-- The state before its syllables, the bytes fetched, and what they decode to. -/
def ready (s : State) : State := ((chosen s).fetch 0 0).2.atBundle 0 0
def fetched (s : State) : List Byte := Memory.readN s.sysmem (placedFrame * Config.pageBytes) 32

/-- The step's premises up to the decoded bundle. -/
def stepReady (s : State) (b : Bundle) : Bool :=
  decide (s.stopped = false ∧ s.turns = [.cycle 0] ∧ 0 < (s.coreAt 0).due ∧ (s.coreAt 0).wg.isSome = true ∧ s.resync.contains 0 = false
    ∧ ((seen s).1.coreAt 0).select (seen s).2 = some 0 ∧ ((chosen s).strandAt 0 0).owed = 0 ∧ ((chosen s).strandAt 0 0).sent = none
    ∧ ((chosen s).fetch 0 0).1.toOption = some (fetched s)
    ∧ (((ready s).strandAt 0 0).decodeNext (fetched s)).toOption = some b ∧ (ready s).core.badSuffix b.hdr = false)
    && b.syls.all fun p => p.2.homeSlot.isSome && !(ready s).privSyl p.2

/-- The verdict of a syllable by itself. -/
def verdictOf (s : State) (h : Header) (p : Slot × Instr) : Verdict := (after p.2 (s.atSlot h p.1)).cur.verdict

/-- Whether an outcome is a next state. -/
def isNext (o : Host.Outcome State Fault Refusal) : Bool :=
  match o with
  | .next _ => true
  | _ => false

theorem next_after {i : Instr} {s : State} (h : isNext (exec i s) = true) : exec i s = .next (after i s) := by
  unfold after
  split
  · assumption
  · rename_i hn; cases he : exec i s with
    | next t => exact absurd he (hn t)
    | fault _ => rw [he] at h; cases h
    | refused _ => rw [he] at h; cases h

theorem alone_of {s : State} {h : Header} {p : Slot × Instr} {v : Verdict} (h1 : isNext (exec p.2 (s.atSlot h p.1)) = true)
    (h2 : verdictOf s h p = v) : s.alone h p v := ⟨_, next_after h1, h2⟩

/-- Whether the syllables, none of them a wait, take their effects one after the other. -/
def takesAll (h : Header) : List (Slot × Instr) → State → Bool
  | [], _ => true
  | p :: ps, s =>
    !isWait p.2 && isNext (exec p.2 (s.atSlot h p.1)) && decide (verdictOf s h p = .ok) && takesAll h ps (after p.2 (s.atSlot h p.1))

theorem slots_of {h : Header} : ∀ {ps : List (Slot × Instr)} {s : State}, takesAll h ps s = true → ∃ u, State.slotsTake h ps s u
  | [], s, _ => ⟨s, rfl⟩
  | p :: ps, s, ht => by
    simp only [takesAll, Bool.and_eq_true, Bool.not_eq_true', decide_eq_true_eq] at ht
    obtain ⟨⟨⟨h0, h1⟩, h2⟩, h3⟩ := ht
    obtain ⟨u, hu⟩ := slots_of h3
    exact ⟨u, _, by rw [State.slotEffect, h0]; exact next_after h1, h2, hu⟩

theorem witness_StepRunsDecodedInstruction :
    stepReady placed ⟨Header.zero, [(.s0, .addi ⟨4, 20, 64⟩)]⟩ = true
    ∧ (after (.addi ⟨4, 20, 64⟩) ((ready placed).atSlot Header.zero .s0)).cur.verdict = .ok := by decide +kernel

/-- Two syllables that take their effects, by themselves and in order. -/
theorem witness_several_syllables :
    stepReady placedTwo ⟨Header.zero, [(.s0, .addi ⟨4, 20, 64⟩), (.s1, .addi ⟨5, 21, 1⟩)]⟩ = true
    ∧ (∀ p ∈ [(Slot.s0, Instr.addi ⟨4, 20, 64⟩), (.s1, .addi ⟨5, 21, 1⟩)], (ready placedTwo).alone Header.zero p .ok)
    ∧ ∃ u, State.slotsTake Header.zero [(.s0, .addi ⟨4, 20, 64⟩), (.s1, .addi ⟨5, 21, 1⟩)] ((ready placedTwo).verdict .ok) u := by
  refine ⟨by decide +kernel, ?_, ?_⟩
  · intro p hp
    simp only [List.mem_cons, List.not_mem_nil, or_false] at hp
    rcases hp with rfl | rfl <;> exact alone_of (by decide +kernel) (by decide +kernel)
  · exact slots_of (by decide +kernel)

/-- The premises of an attempt in any state, up to the decoded bundle. -/
def attempts (s : State) (b : Bundle) : Bool :=
  let s0 := (s.fetch 0 0).2.atBundle 0 0
  decide ((s.fetch 0 0).1.toOption = some (fetched s) ∧ ((s0.strandAt 0 0).decodeNext (fetched s)).toOption = some b ∧ (s.strandAt 0 0).sent = none)
    && b.syls.all fun p => p.2.homeSlot.isSome && !s0.privSyl p.2

/-- One syllable of two blocks by itself. -/
theorem witness_blocked_bundle :
    attempts placedWait ⟨Header.zero, [(.s0, .addi ⟨4, 20, 64⟩), (.x, .qwait 0 1)]⟩ = true
    ∧ ((placedWait.fetch 0 0).2.atBundle 0 0).alone Header.zero (.x, .qwait 0 1) .blocked
    ∧ (∀ p ∈ [(Slot.s0, Instr.addi ⟨4, 20, 64⟩), (.x, .qwait 0 1)], p.2 ≠ .phase) :=
  ⟨by decide +kernel, alone_of (by decide +kernel) (by decide +kernel), by decide +kernel⟩

/-- The last of two syllables faults by itself. -/
theorem witness_faulting_bundle :
    attempts placedTrap ⟨Header.zero, [(.s0, .addi ⟨4, 20, 64⟩), (.x, .trap 5)]⟩ = true
    ∧ ((placedTrap.fetch 0 0).2.atBundle 0 0).alone Header.zero (.s0, .addi ⟨4, 20, 64⟩) .ok
    ∧ (∃ u, State.slotsTake Header.zero [(.s0, .addi ⟨4, 20, 64⟩)] (((placedTrap.fetch 0 0).2.atBundle 0 0).verdict .ok) u)
    ∧ ∃ u, exec (.trap 5) (((placedTrap.fetch 0 0).2.atBundle 0 0).atSlot Header.zero .x) = .next u ∧ u.cur.verdict = .faulted := by
  exact ⟨by decide +kernel, alone_of (by decide +kernel) (by decide +kernel),
    slots_of (by decide +kernel), _, next_after (by decide +kernel), by decide +kernel⟩

/-! #### Faults and events of strands and cores -/

theorem witness_PreciseFaultReachesItsRegion :
    (let s := tweak id fun x => { x with regions := [⟨0x7F, 96, 0⟩, ⟨0x80, 64, 0⟩] }
     Region.find s.strand.regions 7 = some (⟨0x80, 64, 0⟩, []) ∧ s.strand.reports = [])
    ∧ (let s := owner id id
       Region.find s.strand.regions 7 = none ∧ s.core.wg = some 1 ∧ s.wgAt 1 = some workgroup ∧ workgroup.id = 1 ∧ workgroup.state = .running) := by
  decide +kernel

/-- A strand that the next cycle of its core runs: it owes a cycle, or it issues. -/
def runnable (k : Core → Core) (x : Strand → Strand) : State := owner k fun st => { x st with pc := word (2 ^ 52), status := .running }

/-- The state of that cycle before the strand runs. -/
def atCycle (s : State) : State := (s.beforeRun 0).1.modCore 0 fun k => k.countWaits (s.beforeRun 0).2 (some 0)

theorem witness_StrandAndCoreEventsComplete :
    (let s := owner id fun x => { x with status := .ended, held := [⟨.scalar 9 (.push 0 none), true, []⟩] }; s.cycles 0 = true ∧ s.runsOn 0 0 = true)
    ∧ (let s := runnable (fun k => { k with runner := some 0 }) fun x => { x with owed := 2 }
       s.cycles 0 = true ∧ s.nextRunner 0 = some 0 ∧ 0 < (s.strandAt 0 0).owed ∧ 0 < ((atCycle s).strandAt 0 0).owed)
    ∧ (let s := runnable id fun x => { x with repActive := true }
       s.cycles 0 = true ∧ s.nextRunner 0 = some 0 ∧ s.atBoundary 0 0 = true ∧ (s.strandAt 0 0).repActive = true ∧ (s.strandAt 0 0).reports = []
        ∧ ((atCycle s).strandAt 0 0).owed = 0)
    ∧ (let s := runnable (fun k => { k with runner := some 1 }) fun x => { x with wait := 4096 }
       s.nextRunner 0 = some 0 ∧ 4096 ≤ (s.strandAt 0 0).wait ∧ (s.coreAt 0).runner ≠ some 0)
    ∧ 0 < (base.coreAt 0).due ∧ (Core.reset.due = 0)
    ∧ (let s := owner id fun x => { x with reports := [imprecise cPoison 0 0] }
       s.atBoundary 0 0 = true ∧ (s.strandAt 0 0).reports = [imprecise cPoison 0 0])
    ∧ (let s := owner id fun x => { x with status := .ended }
       (s.coreAt 0).wg.bind s.wgAt = some workgroup ∧ s.retiredAll 0 0 = true ∧ (s.strandAt 0 0).held = [] ∧ (s.strandAt 0 0).reports = []
        ∧ s.draining workgroup.id = false)
    ∧ (let s := owner id fun x => { x with status := .stopped }
       s.retiredAll 0 0 = true ∧ (s.strandAt 0 0).storeIds = [])
    ∧ (let s := owner id fun x => { x with status := .halted }
       (s.strandAt 0 0).status = .halted ∧ (s.strandAt 0 0).world = 0)
    ∧ (let s := { owner id id with worlds := [(0, { World.reset with pwctl := 0x2000000000000000 })] }
       s.protCore 0 = true ∧ s.resync.contains 0 = false)
    ∧ ({ owner id id with resync := [0] }.resync.contains 0 = true)
    ∧ (let s := owner (fun k => { k with scrubAt := [(15, 255)] }) id
       255 = SMap.get (s.coreAt 0).scrubAt 0 15 ∧ (s.coreAt 0).scrubPosition 15 = true
        ∧ (∀ i, i < 4 → ((s.coreAt 0).line (15 * 1024 + 255 * 4 + i)).err = Ecc.sound)) := by decide +kernel

/-- An operation of the matrix unit. -/
def mop (i : Instr) (f : MF) : MOp := base.newMOp i f

theorem witness_MatrixOperationsStartAndRetire :
    (let f : MF := ⟨0, 0, 1, 0, 0, false, false, true, false, false⟩
     let o := { mop (.mma f) f with descA := desc 2 5 0 0, descB := desc 2 5 0 2048 }
     let s := tweak (fun k => { tiles k with mq := [o] }) id
     let A := s.readTile o.info o.descA o.slotA (tauVal o.x) (mgTA o.mg)
     let B := A.2.readTile o.info o.descB o.slotB (tauVal o.y) (mgTB o.mg)
     (s.coreAt 0).mq = [o] ∧ o.started = false ∧ s.unfenced o.info = true ∧ A.1.length = 1024 ∧ B.1.length = 1024)
    ∧ (let f : MF := ⟨0, 0, 0, 0, 0, false, false, false, false, false⟩
       let o := { mop (.mzero f) f with started := true, row := 32 }
       o.started = true ∧ o.instr ∈ [Instr.mma f, .mmas f, .mzero f, .mscl f, .macc f] ∧ o.row = 32)
    ∧ (let f : MF := ⟨0, 4, 0, 0, 0, false, false, false, false, false⟩
       let o := { mop (.tcast f) f with started := true }
       o.started = true ∧ o.instr ∈ [Instr.tquant f, .tcast f, .mchk f] ∧ slotServed o.wheels o.descA = true) := by decide +kernel

theorem witness_matrix_operands_served :
    slotServed base.core.bwheel (desc 2 5 0 0) = true ∧ slotServed base.core.bwheel (desc 2 5 0 2048) = true := by decide +kernel

/-! #### Sealing -/

/-- The request block of a seal of the workgroup of world 1, queue 0, launch 1, index 0, with its area at the start of the system window. -/
def sealBlock (flags : Nat) : List (Nat × Byte) := [(0, 1), (4, BitVec.ofNat 8 flags), (8, 1), (22, 0x10), (24, 0xFF), (25, 0xFF)]

/-- The pages of a save area for one core. -/
def areaPages : SMap Page := [(0, ⟨4, false, false⟩), (1, ⟨5, false, false⟩)]

/-- The workgroup of world 1, on core 12. -/
def tenant (st : WgState) : Workgroup := { workgroup with id := 2, world := 1, cores := [12], state := st }

/-- World 1 with its area, and the workgroup; the supervisor's strand has the block. -/
def sealing (st : WgState) (flags : Nat) : State :=
  { tweak (fun k => { k with spad := sealBlock flags, lines := [(0, { LineMeta.reset with written := true })] }) (regs [own 0]) with
    wgs := [tenant st], worlds := [(1, { World.reset with pages := areaPages, live := areaPages, pwpart := 2, tdisp := .run })] }

/-- The request that the block makes. -/
def request (stage : Stage) (flags : Nat) (isUnseal : Bool) : SealReq :=
  { info := { base.newInfo clsNone 0 with id := base.nextId }, isUnseal := isUnseal, block := 0, world := 1, queue := 0, seq := 1, wgIndex := 0, flags := flags,
    area := word (2 ^ 52), cluster := 0xFFFF, grace := 0, wg := 2, endedBy := none, stage := stage, since := 0, bytes := 0, rows := [], silent := false }

/-- An image of the workgroup. -/
def image : Image := { area := word (2 ^ 52), wg := tenant .sealed, cores := [Core.reset], rows := [], bytes := 0, seed := 0, discarded := false }

theorem witness_SealRequestsIssue :
    (let s := sealing .running 0
     ownAddr (s.src 16) = some 0 ∧ s.strand.world = 0 ∧ s.core.sound 0 0 ∧ s.wgs.find? (request .verify 0 false).names = some (tenant .running)
      ∧ SealBlock.ofBytes ((List.range 64).map fun j => s.core.byteAt j) = ⟨1, 0, 0, 0, 1, word (2 ^ 52), 0xFFFF, 0⟩
      ∧ s.areaOk 1 (word (2 ^ 52)) 1 = true ∧ (request .verify 0 false).notice = false ∧ (request .verify 2 false).terminates = true)
    ∧ (let s := { sealing .sealed 0 with images := [image] }
       (request .verify 0 true).terminates = false ∧ s.imageOf (request .verify 0 true) = some image ∧ s.areaOk 1 (word (2 ^ 52)) image.cores.length = true)
    ∧ { sealing .running 0 with wgs := [] }.wgs.find? (request .verify 0 false).names = none
    ∧ (let s := { sealing .running 0 with worlds := [] }
       s.areaOk 1 (word (2 ^ 52)) 1 = false ∧ (request .verify 0 false).terminates = false ∧ (tenant .running).state = .running)
    ∧ ((sealing .sealed 2).wgs.find? (request .verify 2 false).names = some (tenant .sealed) ∧ (request .verify 2 false).terminates = true)
    ∧ ((sealing .sealing 0).wgs.find? (request .verify 0 false).names = some (tenant .sealing) ∧ (tenant .sealing).state ≠ .running)
    ∧ (request .verify 2 true).terminates = true ∧ (sealing .sealed 0).imageOf (request .verify 0 true) = none
    ∧ ((sealing .sealed 0).worldAt 1).hasCluster 63 = false ∧ ((sealing .sealed 0).worldAt 1).hasCluster 1 = true := by
  unfold Core.sound; decide +kernel

/-- The state with one request. -/
def asked (st : WgState) (q : SealReq) : State := { sealing st 0 with seals := [q], images := [image] }

theorem witness_SealsAndUnsealsAdvance :
    (let q := { request .notice 1 false with info := { OpInfo.none with id := 7 } }
     let s := { asked .sealing q with cores := SMap.set (asked .sealing q).cores 12 { Core.reset with wg := some 2, strands := [(0, { Strand.reset with status := .running })] } }
     q.endedBy = none ∧ s.wgAt q.wg = some (tenant .sealing) ∧ s.findSeal 7 .notice = some q ∧ q.since + q.grace * 1000 ≤ s.ns
      ∧ s.allFinished (tenant .sealing) = false)
    ∧ (let q := { request .stop 1 false with info := { OpInfo.none with id := 7 } }
       let s := asked .sealing q
       s.wgAt q.wg = some (tenant .sealing) ∧ s.findSeal 7 .stop = some q ∧ (∀ p ∈ s.strandsOf (tenant .sealing), p.2.2.sent = none) ∧ q.notice = true)
    ∧ (let q := { request .drain 0 false with info := { OpInfo.none with id := 7 } }
       let s := asked .sealing q
       s.findSeal 7 .drain = some q ∧ s.drained (tenant .sealing) = true ∧ q.terminates = false)
    ∧ ({ request .drain 2 false with info := { OpInfo.none with id := 7 } }.terminates = true)
    ∧ (let q := { request .drain 0 false with info := { OpInfo.none with id := 7 }, endedBy := some 5 }
       q.endedBy = some 5 ∧ (asked .sealing q).findSeal 7 .drain = some q)
    ∧ (let q := { request .save 0 false with info := { OpInfo.none with id := 7 } }
       let s := asked .sealing q
       s.findSeal 7 .save = some q ∧ (tenant .sealing).id = q.wg ∧ image ∈ s.images ∧ image.wg.id = (tenant .sealing).id)
    ∧ (let q := { request .verify 0 true with info := { OpInfo.none with id := 7 } }
       let s := asked .sealed q
       s.findSeal 7 .verify = some q ∧ s.imageOf q = some image ∧ s.wgAt image.wg.id = some (tenant .sealed)
        ∧ s.imageGood q image = true ∧ { s with worlds := [] }.imageGood q { image with bytes := 64 } = false
        ∧ (s.worldAt q.world).migration = .none ∧ (s.worldAt q.world).tdisp = .run ∧ q.silent = false ∧ { s with worlds := [] }.unsealRanks q 1 1 = none
        ∧ ((image.wg.window.map fun ch => (s.worldAt q.world).chan ch.lchan ch.rank ch.strand).all (s.grantable q.world image.wg.id)) = true
        ∧ s.unsealRanks q image.wg.launch image.cores.length = some (1, [12]))
    ∧ (let q := { request .restore 0 true with info := { OpInfo.none with id := 7 } }
       let w := { tenant .running with window := [⟨0, 0, 0, some (0, 5), [], []⟩] }
       let s := { asked .running q with wgs := [w], pcs := [(5, { Pc.reset with ready := 9 })], tick := 9 }
       s.seals.find? (fun q => q.isUnseal && q.wg == 2 && q.stage == .restore) = some q ∧ s.wgAt 2 = some w
        ∧ (∀ ch ∈ w.window, ∀ p ∈ ch.pc, (s.pcAt (pcKey p.1 p.2)).ready ≤ s.tick)) := by decide +kernel

/-! #### Main memory -/

/-- A command in the queue of pseudo-channel 5. -/
def cmd (i : Instr) (target : Place) : Cmd :=
  { info := { OpInfo.none with id := 7, wg := 1 }, instr := i, sid := 1, bg := 0, bank := 0, row := 3, col := 0, n := 2, delta := 10, va := 0, target := target,
    fmt := 0, data := List.replicate 128 0, poison := [], late := [], meter := none, issued := 0 }

/-- The channel with one command, last played at tick 100 and ready at 120. -/
def queuedCmd (i : Instr) : State :=
  { owner id id with tick := 120, pcs := [(5, { Pc.reset with owner := some 1, queue := [cmd i .none], lastPlay := 100, ready := 120 })] }

theorem witness_CommandsPlay :
    ∀ i ∈ [Instr.mact ⟨0, 0, 10, 0, 15⟩, .mpre ⟨0, 0, 10, 0, 15⟩, .mprea ⟨0, 0, 10, 0, 15⟩, .mnop ⟨0, 0, 10, 0, 15⟩, .mref ⟨0, 0, 10, 0, 15⟩,
        .mrefa ⟨0, 0, 10, 0, 15⟩, .mrd ⟨0, 0, 10, 1, 15⟩, .mwr ⟨0, 0, 10, 1, 15⟩],
      (let s := queuedCmd i
       let P := s.pcAt 5
       let c := cmd i .none
       P.queue = [c] ∧ max (max (P.lastPlay + c.delta) 0) P.ready = s.tick ∧ c.issued ≤ 0 ∧ s.pcDeadlines 5 = s
        ∧ s.goneSlices.contains (0, 5, 1) = false ∧ P.forced.contains c.bankNo = false ∧ 0 < c.lines ∧ c.data.length = 128 * c.lines) := by decide +kernel

/-- When a command does not play: before its issue, at another tick, and when a forced action plays; and a line that was changed. -/
theorem witness_commands_wait :
    (let c := { cmd (.mnop ⟨0, 0, 10, 0, 15⟩) .none with issued := 1 }; 0 < c.issued)
    ∧ max (max (100 + 10) 0) 120 ≠ 121
    ∧ (let s := { owner id id with tick := 56170, pcs := [(5, { Pc.reset with played := [(16, (3, 5))] })] }; s.pcDeadlines 5 ≠ s)
    ∧ (let s := { base with badLines := [(cmd (.mrd ⟨0, 0, 10, 1, 15⟩) .none).pla 5 0] }
       s.lineChanged ((cmd (.mrd ⟨0, 0, 10, 1, 15⟩) .none).pla 5 0) = true)
    ∧ base.lineChanged 0 = false ∧ base.lineUntrusted 0 = false := by decide +kernel

/-- A played read, or write, of one line, `landed` of whose grains have landed. -/
def drain (i : Instr) (landed : Nat) : Drain :=
  { cmd := cmd i (.spad 0 15 0xFF80), tick := 100, world := 0, bad := false, data := List.replicate 128 1, landed := landed, judged := 0, fails := [], pois := [] }

theorem witness_GrainsLandAndRowsAreRefreshed :
    (let d := drain (.mrd ⟨0, 0, 10, 1, 15⟩) 1
     let s := { owner id id with tick := 10000, pcs := [(5, { Pc.reset with reads := [d] })] }
     firstDrain (fun d => d.landTick (s.profileOf d.cmd.info)) (fun d => d.landed < d.cmd.n && !s.landBlocked d.cmd && d.landTick (s.profileOf d.cmd.info) ≤ s.tick) (s.pcAt 5).reads = some 0
      ∧ (s.pcAt 5).reads[0]? = some d ∧ d.cmd.lumped = false ∧ d.landTick (s.profileOf d.cmd.info) ≤ s.tick ∧ d.bad = false
      ∧ d.grainPoisoned d.landed = false)
    ∧ (let d := drain (.mrdt ⟨0, 0, 10, 1, 15⟩) 0
       let s := { owner id id with tick := 10000, pcs := [(5, { Pc.reset with reads := [d] })] }
       firstDrain (fun d => d.landTick (s.profileOf d.cmd.info)) (fun d => d.landed < d.cmd.n && !s.landBlocked d.cmd && d.landTick (s.profileOf d.cmd.info) ≤ s.tick) (s.pcAt 5).reads = some 0
        ∧ d.cmd.lumped = true ∧ d.pois = [] ∧ d.bad = false)
    ∧ (let d := drain (.mrd ⟨0, 0, 10, 1, 15⟩) 2
       let s := { owner id id with pcs := [(5, { Pc.reset with reads := [d] })] }
       (s.pcAt 5).nextLine = some (false, 0) ∧ (d.cmd.grainsOf d.judged).1 + (d.cmd.grainsOf d.judged).2 ≤ d.landed
        ∧ d.bad = false ∧ d.fails.contains d.judged = false ∧ d.pois.contains d.judged = false ∧ d.judged + 1 = d.cmd.lines)
    ∧ (let d := drain (.mwr ⟨0, 0, 10, 1, 15⟩) 2
       let s := { owner id id with tick := 10000, pcs := [(5, { Pc.reset with writes := [d] })] }
       (s.pcAt 5).nextLine = some (true, 0) ∧ (s.pcAt 5).writes[0]? = some d
        ∧ d.tick + 4 * (2 * d.judged + 1) + (s.profileOf d.cmd.info).tWL + (s.profileOf d.cmd.info).tBURST ≤ s.tick
        ∧ d.fails.contains d.judged = false ∧ d.cmd.late.find? (fun g => g / 2 == d.judged) = none ∧ (s.advance (d.cmd.pla 5 d.judged)).isSome = true)
    ∧ (let s := { owner id id with tick := 6240, pcs := [(5, { Pc.reset with debt := [(0, 7)] })] }
       ((s.pcAt 5).refreshes + 1) * 6240 ≤ s.tick ∧ SMap.rising (s.pcAt 5).debt ∧ (s.pcAt 5).owner = none
        ∧ ({ Pc.reset with owner := some 1 }.owner.isSome = true))
    ∧ (let s := { owner id id with tick := 56165, pcs := [(5, { Pc.reset with played := [(16, (3, 5))] })] }
       SMap.find (s.pcAt 5).played 16 = some (3, 5) ∧ 5 + 56160 ≤ s.tick ∧ 16 ∉ (s.pcAt 5).closing ∧ SMap.get (s.pcAt 5).closeOk 0 16 ≤ s.tick)
    ∧ (let s := { owner id id with tick := 100, pcs := [(5, { Pc.reset with lastP := [(16, 5)], refreshOk := 100 })] }
       SMap.find (s.pcAt 5).played 16 = none ∧ (s.pcAt 5).refreshOk ≤ s.tick
        ∧ (∀ q ∈ SMap.find (s.pcAt 5).lastP 16, q + (s.pcProfile 5).tRP ≤ s.tick)) := by decide +kernel

/-! #### Capacity -/

theorem witness_CapacityEventsComplete :
    ((base.pcAt (pcKey 1 5)).owner = none ∧ 100000 ≤ 100000 ∧ (0 = 0 ∧ 56 ≤ 56))
    ∧ (let s := { base with notices := [⟨1, 55, 0xF, 0⟩] }
       (∀ i ∈ maskSids 3, ∃ n ∈ s.notices, n.stack = 1 ∧ n.pc = 55 ∧ n.sids.getLsbD i = true ∧ n.endNs ≤ s.ns)
        ∧ s.meteredOn 1 55 (maskSids 3) = false)
    ∧ (let s := { base with worlds := [(1, { World.reset with slices := [(4, (0, 0, 2))] })] }
       (∃ x ∈ (s.worldAt 1).slices, x.1 / 4 = 1) ∧ (∀ x ∈ (s.worldAt 1).slices, x.1 / 4 = 1 → (s.pcAt (pcKey x.2.1 x.2.2.1)).owner = none)
        ∧ s.worldsOn 1 55 [0, 1, 2, 3] = [] ∧ (s.pcAt (pcKey 1 55)).owner = none ∧ s.filling = [] ∧ s.goneSlices = [])
    ∧ (let s := { base with notices := systemPlaces.map (fun (p : Nat × Nat) => ⟨1, p.1, 0xF, 0⟩), sysmem := [(2 ^ 33, 1)] }
       maskSids 8 = [3] ∧ s.systemShort 1 = true ∧ s.forcedSlice 1 = some (55, 3) ∧ s.meteredOn 1 55 [3] = false)
    ∧ (base.sysOff.contains (1 * 32 + 31) = false ∧ base.systemPlace (1 * 32 + 31) ≠ (56, 0) ∧ (1 : Nat) < 8
        ∧ { base with sysOff := [1 * 32 + 0] }.systemFree 1 (base.systemPlace (1 * 32 + 0)) = true)
    ∧ (let s := { base with filling := [(1, pcKey 1 55, 3)] }
       s.filling.contains (1, pcKey 1 55, 3) = true ∧ s.mapOk 1 511 3 1 55 3 = true ∧ s.meteredOn 1 55 [3] = false
        ∧ (s.worldAt 1).boundSlot 511 3 = false) := by decide +kernel

/-! #### Peers and the fabric's events -/

/-- Window 0 of world 1: one page at frame 4, open to every peer, bound to sync word 3 of bank 1 of the workgroup's rank 0. -/
def exported : State :=
  { base with
    worlds := [(1, { World.reset with
      pages := areaPages, live := areaPages, fabView := areaPages, exports := [(0, ⟨2 ^ 52, 1, 7, 0xFF, 0, 1, 3, true, 0, 0, 1, 0⟩)] })]
    launches := [], wgs := [tenant .running] }

/-- A request of device 9 to that window. -/
def toWindow (off : Nat) : PeerReq := { src := 9, world := 1, window := 0, offset := off }

/-- A launch of world 1 whose workgroup, of one core, has started. -/
def launch : Launch :=
  { id := 1, world := 1, queue := 0, seq := 1, priority := 0, domain := 0, cmin := 0, cmax := 64, target := 0, allowance := 0, barrier := false, after := none,
    kernel := word (2 ^ 52), code := 0, grid := 1, cores := 1, strands := 4, mprof := 0x47, chans := [], cstride := 0, setup := [], args := 5,
    measure := 0, next := 1, done := 0, ended := 0, faultCode := none, killed := false, budget := false, cut := false, charge := 0, faults := 0, grains := 0,
    start := 0, failed := none, codeFrames := [] }

theorem witness_PeerRequestsAreServed :
    (let s := { exported with launches := [launch] }
     okIs (s.targetCheck (toWindow (Config.pageBytes - 64)) 64 1) [⟨4, 4 * Config.pageBytes + (Config.pageBytes - 64), 0, 64⟩] = true
      ∧ okIs (s.targetCheck (toWindow 0) 64 0) [⟨4, 4 * Config.pageBytes, 0, 64⟩] = true
      ∧ okIs (s.targetCheck (toWindow 8) 8 2) [⟨4, 4 * Config.pageBytes + 8, 0, 8⟩] = true
      ∧ s.retiring 4 = false ∧ { s with notices := [⟨0, (s.systemPlace (sliceOfFrame 4)).1, 0xF, 0⟩] }.retiring 4 = true
      ∧ (SMap.find (s.worldAt 1).exports 0).isSome = true ∧ identDist (SMap.get s.amoBase 0 9) 255 < 256 ∧ (SMap.get s.amoAcked [] 9).contains 255 = false
      ∧ s.boundWord 1 ⟨2 ^ 52, 1, 7, 0xFF, 0, 1, 3, true, 0, 0, 1, 0⟩ = some (12, 65536 + 48)
      ∧ (match s.targetCheck (toWindow Config.pageBytes) 64 1 with
          | .error e => decide (e ≠ cXpoison)
          | .ok _ => false) = true
      ∧ SMap.get s.dedupe [] 9 = [] ∧ 8 % 8 = 0 ∧ s.unitBad ((4 * Config.pageBytes + 8) / 64) = false
      ∧ { s with sysPoison := [(4 * Config.pageBytes + 8) / 64] }.unitBad ((4 * Config.pageBytes + 8) / 64) = true
      ∧ Config.pageBytes % 8 = 0 ∧ (match s.targetCheck (toWindow Config.pageBytes) 8 2 with
          | .error e => decide (e = cXlate)
          | .ok _ => false) = true)
    ∧ (SMap.get [(9, [(⟨5, 0, 1, false⟩ : Dedupe)])] [] 9).any (fun d => d.ident == 5) = true ∧ (SMap.get base.dedupe [] 9).any (fun d => d.ident == 5) = false
    ∧ (SMap.get [(9, [(⟨5, 0, 1, false⟩ : Dedupe)])] [] 9).find? (fun d => d.ident == 5) = some ⟨5, 0, 1, false⟩ := by decide +kernel

/-- A sent operation to device 9. -/
def fabOp (kind : FabKind) (side : Place) : FabOp :=
  { info := { OpInfo.none with id := 7 }, kind := kind, peer := peer 0, localSide := side, bytes := 64, notify := false, data := [], wide := true, ret := none,
    aop := 0, v := 0, c := 0, ident := 0, resendAt := none, poisoned := false, sent := true, bad := [], got := 64, put := 0, lost := false, env := none }

theorem witness_FabricEventsComplete :
    (let s := { base with fab := [fabOp .put .none] }; s.awaiting 7 [.put, .putv] = some (fabOp .put .none))
    ∧ (let s := { base with fab := [fabOp .get (.spad 0 15 0xFFC0)] }
       s.awaiting 7 [.get] = some (fabOp .get (.spad 0 15 0xFFC0)) ∧ s.sidePending (fabOp .get (.spad 0 15 0xFFC0)) = false
        ∧ s.fabServed (fabOp .get (.spad 0 15 0xFFC0)) = true ∧ (fabOp .get (.spad 0 15 0xFFC0)).bytes ≤ 0 + 64)
    ∧ (let s := { base with fab := [fabOp .amo .none] }
       s.awaiting 7 [.amo] = some (fabOp .amo .none) ∧ s.sidePending (fabOp .amo .none) = false ∧ s.fabServed (fabOp .amo .none) = true)
    ∧ (let s := { base with fab := [fabOp .sum (.spad 0 0 0)], worlds := [(0, { World.reset with groups := [(0, ⟨0, 30, [9]⟩)] })] }
       s.awaiting 7 [.sum] = some (fabOp .sum (.spad 0 0 0)) ∧ s.fabServed (fabOp .sum (.spad 0 0 0)) = true ∧ s.switchOf (fabOp .sum (.spad 0 0 0)) = some 30)
    ∧ (let s := { base with fab := [{ fabOp .put .none with resendAt := some 0 }] }
       s.findFab 7 = some { fabOp .put .none with resendAt := some 0 } ∧ 0 ≤ s.ns)
    ∧ (let s := { base with ports := [(19, { Port.reset with up := true, fails := 7 })] }
       19 < 20 ∧ (SMap.get s.ports Port.reset 19).up = true ∧ (SMap.get s.ports Port.reset 19).fails = 7 ∧ s.onPort 19 = [])
    ∧ (SMap.get base.ports Port.reset 0).fails < 7
    ∧ (let w := { World.reset with pages := areaPages, live := areaPages, pwpeer := word (2 ^ 52) }
       let s := { base with worlds := [(1, w)], sysmem := [(4 * Config.pageBytes, 9), (4 * Config.pageBytes + 2, 2)] }
       (s.peerTable 1).contains (9, 2) = true)
    ∧ { base with hssLeaves := 2 ^ 30 - 1 }.hssLeaves < 2 ^ 30 := by decide +kernel

/-! #### Queues, starts, the governor -/

/-- World 1 in RUN, created, with queue 7 as given and cluster 1. -/
def running (q : Queue) (w : World → World) : State :=
  { base with
    dstat := 5
    worlds := [(1, w { World.reset with tdisp := .run, pwctl := 0x8000000000000000, keyGen := 1, born := 1, pwqueue := 0x80, pwpart := 2, queues := [(7, q)], pages := areaPages })] }

/-- An enabled queue of 16 entries. -/
def enabled : Queue := { Queue.reset with qcfg := word (2 ^ 63 + 4 * 2 ^ 12 + 4 * 2 ^ 8), qsub := word (2 ^ 52) }

theorem witness_QueueEventsComplete :
    (let s := running enabled fun w => { w with pwqueue := 0 }
     s.barOpen 1 = true ∧ (s.queueAt 1 7).en = true ∧ (s.queueAt 1 7).faulted = false ∧ s.queueRuns 1 7 = false)
    ∧ (let s := running enabled id
       s.barOpen 1 = true ∧ s.queueRuns 1 7 = true ∧ (s.queueAt 1 7).qnext + 2 ^ (s.queueAt 1 7).sublog ≤ max (s.queueAt 1 7).qnotify (17 % 2 ^ 64))
    ∧ (let s := running { enabled with qcfg := 0 } id
       let v : Word := word (4 * 2 ^ 12 + 12 * 2 ^ 8)
       let y := { s.queueAt 1 7 with qcfg := (v &&& qcfgMask) ||| 0x8000000000000000 }
       s.cfgOpen 1 = true ∧ (s.queueAt 1 7).en = false ∧ y.cfgOk = true ∧ (s.queueAt 1 7).heldRecords = [] ∧ s.hostOpen 1 = true
        ∧ { s.queueAt 1 7 with qcfg := ((3 * 2 ^ 12 : Word) &&& qcfgMask) ||| 0x8000000000000000 }.cfgOk = false)
    ∧ (let s := running { enabled with tries := 16, qnotify := 1 } id
       let x := s.queueAt 1 7
       x.tries = 16 ∧ x.tries ≠ 0 ∧ x.retryAt ≤ s.ns ∧ x.en = true ∧ x.faulted = false ∧ s.queueRuns 1 7 = true ∧ x.qnext ≤ x.qnotify
        ∧ s.entryOf 1 7 = none)
    ∧ (let s := running enabled id
       max (s.queueAt 1 7).qnotify (15 % 2 ^ 64) < (s.queueAt 1 7).qnext + 2 ^ (s.queueAt 1 7).sublog ∧ (s.queueAt 1 7).heldRecords = []
        ∧ s.hostOpen 1 = true)
    ∧ (let s := running { enabled with qcfg := word (2 ^ 63 + 2 ^ 62 + 2 ^ 32 + 2 ^ 24), pending := 1, firstPending := 0 } id
       let s := { s with ns := 1000 }
       let x := s.queueAt 1 7
       x.prompt = true ∧ x.pending ≠ 0 ∧ x.firstPending + x.cwin * 1000 ≤ s.ns ∧ s.hostOpen 1 = true) := by decide +kernel

theorem witness_WorkgroupsStartAndLaunchesComplete :
    (let s := { running enabled id with launches := [{ launch with next := 0 }] }
     s.worldRuns 1 = true ∧ s.nextStart 1 = some ({ launch with next := 0 }, 1) ∧ (s.freeRanks (s.worldAt 1) 1).take 1 = [12]
      ∧ [12].Nodup ∧ launch.world = 1 ∧ (∀ c ∈ [12], s.lastingLines c = []) ∧ (∀ c ∈ [12], s.fenced.contains c = false) ∧ 3 < launch.strands)
    ∧ (let l := { launch with ended := 1 }
       let s := { running enabled id with launches := [l] }
       s.launchOf 1 = some l ∧ l.ended = l.next ∧ l.next = l.grid)
    ∧ (let l := { launch with allowance := 2, charge := 2000 }
       let s := { running enabled id with launches := [l] }
       s.launchOf 1 = some l ∧ l.allowance ≠ 0 ∧ l.allowance * 1000 ≤ l.charge) := by decide +kernel

theorem witness_GovernorMovesClusters :
    (let s := { running enabled (fun w => { w with pwpart := 1 <<< 63, marked := some (63, 2) }) with dstat := 5 }
     (s.worldAt 1).hasCluster 63 = true
      ∧ s.governed.find? (fun w => ((s.worldAt w).marked.map (·.1)) == some 63) = some 1 ∧ (s.worldAt 1).marked = some (63, 2) ∧ (1 : Nat) ≠ 2 ∧ 63 < 64
      ∧ (∀ i, i < 12 → (s.coreAt (63 * 12 + i)).wg = none))
    ∧ (let s := { base with dstat := 5, ns := 100000 }; s.governedAt + 100000 ≤ s.ns) := by decide +kernel

/-! #### Trust, functions, the host -/

theorem witness_TrustSyllablesComplete :
    (let s := owner id (fun x => { regs [own 0xFFC0, 64, word (3 * 2 ^ 60 + 7 * 8192), 8192, 0, own 0xFF000, own 0xFFF80] x with status := .running })
     s.syncMissing 15 = false
      ∧ okIs (s.sidePlace (s.src 16)) (.spad 0 0 0xFFC0) = true ∧ scrubBad (Word.space (s.src 16)) 0xFFC0 (s.src 17).toNat = false
      ∧ s.copiesOf s.cur.core s.cur.strand < 32
      ∧ localPtr (s.src 18) = some (.acc 7 0) ∧ scrubBad 3 (7 * 8192 + 0) (s.src 19).toNat = false ∧ (∀ i, i < (s.src 19).toNat / 8192 → s.core.engaged (7 + i) = false)
      ∧ s.fenceHolds clsV = false
      ∧ Word.field (s.src 20) 0 4 = 0 ∧ s.strand.world = 0 ∧ (s.worldAt 0).rotating = none
      ∧ ownAddr (s.src 21) = some 0xFF000 ∧ 0xFF000 % 4096 = 0 ∧ s.fenceHolds clsC = false
      ∧ s.core.sound s.strand.world (0xFF000 / 64 + 3) ∧ s.core.sound s.strand.world (0xFF000 / 64 + 4)
      ∧ ownAddr (s.src 22) = some 0xFFF80 ∧ 0xFFF80 % 128 = 0 ∧ s.room 1) := by
  unfold Core.sound State.room; decide +kernel

/-- A checkpoint operation whose block says: manifest of epoch 1, one shard, its place in window 0 of device 9, capacity 2^13. -/
def ckOp (load : Bool) : CkOp := { info := { OpInfo.none with id := 7 }, load := load, block := 0, puts := [], failed := false, pending := none }
def ckState (load : Bool) (w : World → World) : State :=
  { tweak (fun k => { k with spad := [(0, 1), (8, 1), (20, 1), (45, 0x48), (47, 0x60), (49, 0x20)]
                             lines := [(0, { LineMeta.reset with written := true }), (1, { LineMeta.reset with written := true })] }) id with
    cks := [ckOp load], worlds := [(0, w World.reset)], routes := [(9, 2)], linkKeys := [⟨0, 9, 0, 1, 0, 0⟩], device := 1, ports := shenenPort }
def shard : Shard := ⟨1, 0, peer 0, 64, 64, 0⟩

/-- A ckload of a manifest of epoch 1 (kind 1) or of a shard (kind 0), its place in window 0 of device 9, 256 bytes. -/
def loadState (kind : Nat) (w : World → World) : State :=
  { ckState true w with
    cores := [(0, { Core.reset with spad := (if kind = 1 then [(0, 1), (8, 1), (45, 0x48), (47, 0x60), (49, 1)] else [(45, 0x48), (47, 0x60), (49, 1)])
                                    lines := [(0, { LineMeta.reset with written := true }), (1, { LineMeta.reset with written := true })] })] }

theorem witness_TrustEventsComplete :
    (let i := { OpInfo.none with id := 7 }
     let s := { base with worlds := [(1, { World.reset with rotating := some (1, 0, i) })] }
     (s.worldAt 1).rotating = some (1, 0, i) ∧ (∀ k ∈ (s.worldAt 1).sliceKeys, (s.worldAt 1).unrotated k = true → s.sliceGranted k = false)
        ∧ (∀ w ∈ s.wgAt i.wg, w.state ≠ .sealed))
    ∧ (let s := { base with worlds := [(1, { World.reset with mets := [(OpInfo.none, 0, [])], lastSigned := some 0 })], ns := 1000000000 }
       (s.worldAt 1).mets = [(OpInfo.none, 0, [])] ∧ (∀ t ∈ (s.worldAt 1).lastSigned, t + 1000000000 ≤ s.ns))
    ∧ (let s := ckState false fun w => { w with metersFrozen := true }
       s.cks.find? (fun o => o.info.id == 7 && !o.load) = some (ckOp false) ∧ s.unfenced (ckOp false).info = true
        ∧ (s.worldAt (ckOp false).info.world).metersFrozen = true)
    ∧ (let s := ckState false fun w => { w with shards := [shard] }
       let r := CkReq.ofBytes (s.readSpad 0 0 0 128 0).bytes
       (s.worldAt 0).metersFrozen = false ∧ (s.worldAt 0).epoch < r.epoch ∧ r.bad false = false ∧ r.kind = 1
        ∧ (s.worldAt 0).shardsOf r.epoch r.count = some [shard]
        ∧ (s.worldAt 0).manifest = none ∧ s.hssLeaves < 2 ^ 30 ∧ manifestSize r.count ≤ r.capacity ∧ (s.readSpad 0 0 0 128 0).state = s
        ∧ Word.field r.place 43 13 ≠ s.device ∧ s.carries 0 (Word.field r.place 43 13) .put = true)
    ∧ (let o := { ckOp false with pending := some (true, shard) }
       let s := { ckState false id with cks := [o] }
       s.cks.find? (fun o => o.info.id == 7 && !o.load) = some o ∧ o.pending = some (true, shard) ∧ s.ckPutting o = false ∧ o.failed = false) := by decide +kernel

theorem witness_checkpoint_loads :
    (let s := loadState 1 id
       let r := CkReq.ofBytes (s.readSpad 0 0 0 128 0).bytes
       s.cks.find? (fun o => o.info.id == 7 && o.load) = some (ckOp true) ∧ s.unfenced (ckOp true).info = true ∧ (0 : Nat) ∉ [3, 6, 7] ∧ 7 ∈ [3, 6, 7]
        ∧ (s.worldAt 0).metersFrozen = false ∧ r.kind = 1 ∧ r.bad true = false ∧ (List.replicate 256 (0 : Byte)).length = r.capacity
        ∧ manifestOk (List.replicate 256 0) r.epoch = false ∧ r.epoch = 1
        ∧ Word.field r.place 43 13 ≠ s.device ∧ s.carries 0 (Word.field r.place 43 13) .get = true
        ∧ Word.field r.place 43 13 = { s with device := 9 }.device
        ∧ { s with linkKeys := [] }.carries 0 (Word.field r.place 43 13) .get = false
        ∧ ({ s with worlds := [(0, { World.reset with metersFrozen := true })] }.worldAt 0).metersFrozen = true)
    ∧ manifestOk ([2, 0, 0, 1, 1, 0, 0, 0, 1] ++ List.replicate 1847 0 ++ [0xD4, 0x0C] ++ List.replicate (manifestSize 1 - 1858) 0) 1 = true
    ∧ World.reset.shardKnown 0 [] = false ∧ (ckSources [2 ^ 61]).bad = true
    ∧ (let c := ckSources [5]
       let w := fun (w : World) => { w with slices := [(20, (0, 3, 2))] }
       c.bad = false ∧ (loadState 0 id).ckStatus (ckOp true) c = 2 ∧ (loadState 0 w).ckStatus (ckOp true) c = 0 ∧ (loadState 0 w).ckWaits (ckOp true) c = false
        ∧ ((loadState 0 w).worldAt 0).sliceAt 5 0 = some (pcKey 0 3, 2))
    ∧ ({ World.reset with slices := [(4 * 5 + 1, (0, 3, 2))] } : World).sliceAt 5 1 = some (pcKey 0 3, 2) ∧ Memory.wf base.dram := by decide +kernel

/-- What this model stores of a shard of no sources, and the manifest of epoch 1 that names it. -/
def storedShard : List Byte := shardStored 0 1 1 0 [] []

/-- A fetched shard that its manifest names and that holds its plaintext. -/
theorem witness_shard_loads :
    (let w : World := { World.reset with adopted := some 1, adoptedKC := 0, adoptedShards := [⟨1, 0, peer 0, storedShard.length, 0, sha256 storedShard⟩] }
     w.shardKnown 0 storedShard = true ∧ (ckSources []).bad = false
      ∧ shardHolds w.adoptedKC (w.adopted.getD 0) 0 storedShard [] [] = true)
    ∧ storedShard.length = (CkReq.ofBytes ((loadState 0 id).readSpad 0 0 0 128 0).bytes).capacity
    ∧ (CkReq.ofBytes ((loadState 0 id).readSpad 0 0 0 128 0).bytes).bad true = false
    ∧ (CkReq.ofBytes ((loadState 0 id).readSpad 0 0 0 128 0).bytes).kind ≠ 1 ∧ (CkReq.ofBytes ((loadState 0 id).readSpad 0 0 0 128 0).bytes).shard = 0
    ∧ (loadState 0 id).ckStatus (ckOp true) (ckSources []) = 0 ∧ (loadState 0 id).ckWaits (ckOp true) (ckSources []) = false := by
  have h : storedShard.length = 256 := by simp [storedShard, shardStored, shardHead, shardFrames, pieces]
  refine ⟨⟨by simp [World.shardKnown], by decide +kernel, ?_⟩, h.trans (by decide +kernel), by decide +kernel, by decide +kernel, by decide +kernel, by decide +kernel,
    by decide +kernel⟩
  simp only [shardHolds, Bool.or_eq_true, List.any_eq_true]
  exact .inl ⟨0, by simp, by simp [storedShard]⟩

theorem witness_slice_bytes : (List.replicate (2 ^ 28) (1 : Byte)).length = 2 ^ 28 := List.length_replicate

/-- World `n` changed, with the package in READY. -/
def ofWorld (n : Nat) (w : World → World) : State := { base with dstat := 5, worlds := [(n, w World.reset)] }

theorem witness_FunctionEventsComplete :
    (ofWorld 15 id).dstat = 5 ∧ ((ofWorld 15 id).worldAt 15).tdisp = .unlocked
    ∧ ((ofWorld 1 fun w => { w with tdisp := .locked }).worldAt 1).tdisp = .locked
    ∧ ((ofWorld 1 fun w => { w with tdisp := .run }).worldAt 1).tdisp ≠ .unlocked
    ∧ (let s := { ofWorld 1 fun w => { w with tdisp := .run, meters := [(0, 1)], lastSigned := some 0 } with ns := 1000000000 }
       (s.worldAt 1).finalDue = true ∧ s.statementEarly 1 = false)
    ∧ ((ofWorld 1 fun w => { w with report := some [1, 2, 3] }).worldAt 1).report = some [1, 2, 3] ∧ ((ofWorld 1 id).worldAt 1).report = none
    ∧ ((ofWorld 1 id).wgs.map (·.id)).Nodup
    ∧ ((ofWorld 1 fun w => { w with session := true }).worldAt 1).session = true
    ∧ (ofWorld 1 id).measurement 1 0 = none ∧ ((ofWorld 1 id).measurement 1 1).isSome = true
    ∧ (ofWorld 1 id).hssLeaves < 2 ^ 30
    ∧ (0x8000000000000000 : Word).getLsbD 63 = true ∧ ((ofWorld 1 id).worldAt 1).pwctl.getLsbD 63 = false
    ∧ 0x30 % 8 = 0 ∧ 0x30 ≤ 0x30 := by decide +kernel

/-- A policy of meter 15 over one slice: format, meter, one range, its channel, count and slots, and the key. -/
def policy (lchan : Nat) : Policy :=
  { bytes := [1, 0, 15, 1, 0, 0, 0, 0] ++ leBytes 8 (lchan + 2 ^ 9 + 2 ^ 18) ++ List.replicate 152 0, sigOk := true }

theorem witness_MetersAndMigration :
    (let s := ofWorld 1 fun w => { w with tdisp := .run, slices := [(0, (0, 5, 0))] }
     (s.worldAt 1).tdisp = .run ∧ s.bindStatus 1 (policy 1) = 2)
    ∧ (let s := ofWorld 1 fun w => { w with tdisp := .run, slices := [(0, (0, 5, 0))], bindings := [⟨15, 0, [(0, 0)]⟩] }
       (s.worldAt 1).bindings.find? (fun b => b.meter == 15) = some ⟨15, 0, [(0, 0)]⟩ ∧ (s.pcAt (pcKey 0 5)).owner = none)
    ∧ (let s := ofWorld 1 fun w => { w with meters := [(15, 4)] }
       (s.worldAt 1).tdisp = .unlocked ∧ (s.worldAt 1).chainSerial = 0
        ∧ (∀ m ∈ (s.worldAt 1).meters, m.2.toNat ≤ ((List.replicate 16 (4 : Word)).getD m.1 0).toNat)
        ∧ (∃ m ∈ (s.worldAt 1).meters, ((List.replicate 16 (3 : Word)).getD m.1 0).toNat < m.2.toNat))
    ∧ (let s := ofWorld 1 fun w => { w with tdisp := .run }
       (s.worldAt 1).migration = .none ∧ s.hssLeaves < 2 ^ 30 ∧ (∀ g ∈ s.wgs, g.world = 1 → g.state = .sealed) ∧ s.statementEarly 1 = false)
    ∧ ((ofWorld 1 fun w => { w with tdisp := .run, migration := .quiescing }).worldAt 1).migration = .quiescing
    ∧ (ofWorld 1 fun w => { w with tdisp := .run, migration := .quiescing }).sealing 1 = false
    ∧ (let t : Transfer := ⟨2, false, .sent, { World.reset with meters := [(0, 5)] }, [], [], [], [], [], [], [], []⟩
       let s := { ofWorld 1 fun w => { w with tdisp := .locked, meters := [(0, 5)] } with transfers := [t] }
       s.transfers[0]? = some t ∧ (s.worldAt 1).tdisp = .locked ∧ (s.worldAt 1).migration = .none ∧ s.hssLeaves < 2 ^ 30 ∧ (s.worldAt 1).roomFor t = true
        ∧ (s.worldAt 1).lowered t = false)
    ∧ (let t : Transfer := ⟨2, false, .sent, World.reset, [], [], [], [], [(0, [])], [], [], []⟩
       (ofWorld 1 fun w => { w with tdisp := .run }).wgs.all (fun g => g.world != 1) = true ∧ World.reset.roomFor t = false)
    ∧ ((ofWorld 1 fun w => { w with migration := .quiesced }).worldAt 1).migration = .quiesced
    ∧ (let s := { ofWorld 1 fun w => { w with migration := .armed 0 } with ns := 60000000000 }
       (s.worldAt 1).migration = .armed 0 ∧ 0 + 60000000000 ≤ s.ns)
    ∧ ((ofWorld 1 fun w => { w with migration := .escrow }).worldAt 1).migration = .escrow
    ∧ 2 ^ 20 ≤ { base with drbg := 2 ^ 20 }.drbg := by decide +kernel

theorem witness_HostPowerAndResetEvents :
    base.dstat ≠ 15
    ∧ (let s := { base with mbStat := word (2 ^ 63), mbCmd := word (7 * 2 ^ 16 + 1) }
       s.mbStat.getLsbD 63 = true ∧ Word.field s.mbCmd 16 4 = 7 ∧ Word.field s.mbCmd 0 16 = 1)
    ∧ (let s := { base with mbStat := word (2 ^ 63), mbCmd := 3 }; s.mbStat.getLsbD 63 = true ∧ Word.field s.mbCmd 0 16 = 3)
    ∧ (let s := ofWorld 1 fun w => { w with tdisp := .run, pages := areaPages, live := areaPages }
       (s.worldAt 1).tdisp = .run ∧ (Config.pageBytes - 8) + 8 ≤ 2 ^ 36 ∧ (Config.pageBytes - 8) % Config.pageBytes + 8 ≤ Config.pageBytes
        ∧ sysPlace (s.worldAt 1).live (2 ^ 52 + (Config.pageBytes - 8)) = some (4 * Config.pageBytes + (Config.pageBytes - 8))
        ∧ s.codeAt 1 (pageOf (2 ^ 52 + (Config.pageBytes - 8))) 4 = false
        ∧ sysPlace (s.worldAt 1).live (2 ^ 52 + (2 ^ 36 - 8)) = none
        ∧ Config.pageBytes - (Config.pageBytes - 8) % Config.pageBytes < 9)
    ∧ (let s := { base with dstat := 5, ns := 1000 }; s.grantedAt + 1000 ≤ s.ns ∧ ([⟨63, 37, 20, 9⟩].foldl State.grantCluster s).wattsHeld ≤ 2400 ∧ 2400 < ([⟨63, 38, 20, 9⟩].foldl State.grantCluster { s with watts := [(0, 69)] }).wattsHeld)
    ∧ (∀ i, i < 12 → (base.coreAt (63 * 12 + i)).wg = none) := by decide +kernel

/-! #### Further cases of the statements on events -/

/-- O28: the atomic's strand is still owed no cycle of its core. -/
theorem witness_atomic_not_due :
    (let i := { OpInfo.none with id := 7 }
     let r := Rmw.atomic i (3 * 65536) (.aadd ⟨0, 0, 0, 0, true⟩) true 1 0 true
     let s := tweak (fun k => { k with rmw := [(3, r)], due := 0 }) fun x => { x with sent := some (sentAtomic false) }
     (s.coreAt 0).rmwHead 3 = some r ∧ (s.coreAt i.core).due = 0 ∧ wheelHasWindow ((s.coreAt 0).wheel 3) = true) := by decide +kernel

/-- O41: an unseal to a cluster that is not the world's, and to one that is. -/
theorem witness_unseal_places :
    (let q := { request .verify 0 true with info := { OpInfo.none with id := 7 }, cluster := 2 }
     let s := asked .sealed q
     s.findSeal 7 .verify = some q ∧ s.imageGood q image = true ∧ q.cluster ≠ 0xFFFF ∧ (s.worldAt q.world).hasCluster q.cluster = false
      ∧ (s.worldAt q.world).hasCluster 1 = true ∧ s.unsealRanks { q with cluster := 1 } 1 13 = none ∧ s.unsealRanks { q with cluster := 1 } 1 1 = some (1, [12])) := by
  decide +kernel

/-- O41: a channel that another workgroup holds. -/
theorem witness_unseal_waits :
    (let s := { base with pcs := [(pcKey 0 5, { Pc.reset with owner := some 9 })] }
     s.grantable 1 2 ⟨0, 0, 0, some (0, 5), [], []⟩ = false) := by decide +kernel

/-- O41: a workgroup whose strands have all ended. -/
theorem witness_sealed_finished :
    (let q := request .notice 0 false
     (asked .sealing q).allFinished (tenant .sealing) = true ∧ (asked .sealing q).noticeMet (tenant .sealing) = true ∧ q.notice = false) := by decide +kernel

/-- O46: a product starts on operands that are served, and its rows are written. -/
theorem witness_product_runs :
    slotServed [] (desc 2 5 0 0) = true ∧ slotServed [] (desc 2 5 0 2048) = true ∧ Core.reset.tileStored 0 = false ∧ Core.reset.mFree / 2 ≤ Core.reset.cycle := by
  decide +kernel

theorem witness_product_rows :
    (let f : MF := ⟨0, 0, 0, 0, 0, false, false, false, false, false⟩
     let o := mop (.mzero f) f
     o.accTile = some 0 ∧ o.writesAcc = some 0 ∧ o.row < 32 ∧ vctlEn o.vctl = false ∧ o.started = false) := by decide +kernel

/-- O46: an output retires. -/
theorem witness_output_retires :
    (let f : MF := ⟨0, 4, 0, 0, 0, false, false, false, false, false⟩
     let o := { mop (.tcast f) f with begun := 2, halves := 8 }
     slotServed o.wheels o.descA = true ∧ o.begun + o.halves ≤ 2 * 5 ∧ o.accTile = some 0) := by decide +kernel

/-- O46: the mask of a masked product has 128 bytes. -/
theorem witness_mask_bytes :
    (let s := tweak tiles id
     (s.readRun 0 0 (s.coreAt 0).vctl (runSlot (desc 2 2 1 0) 0) 0 2).bytes.length = 128 ∧ slotServed [] (desc 2 2 1 0) = true) := by decide +kernel

/-- O52: no other world has the cluster. -/
theorem witness_cluster_of_one_world :
    ∀ w, w < 16 → w ≠ 1 → ((running enabled fun w => { w with pwpart := 1 <<< 63, marked := some (63, 2) }).worldAt w).hasCluster 63 = false := by decide +kernel

/-- O54: a created world whose keys have been erased. -/
theorem witness_created_without_keys :
    (let x := (ofWorld 1 fun w => { w with pwctl := 0x8000000000000000 }).worldAt 1
     x.tdisp = .unlocked ∧ x.pwctl.getLsbD 63 = true ∧ x.keyGen = 0) := by decide +kernel

/-- O55: a quiesce with nothing being filled; what was sent, and what was erased at its source, a locked world and one in RUN take; the same world, and a copy that is taken, do not arm; an abort while nothing is being sealed; the generator's reseeding. -/
theorem witness_migration_stages :
    (∀ x ∈ (ofWorld 1 fun w => { w with tdisp := .run }).filling, x.1 ≠ 1)
    ∧ (let t : Transfer := ⟨2, false, .sent, World.reset, [], [], [], [], [], [], [], []⟩
       t.stage = .sent ∧ t.source ≠ 1 ∧ t.source = 2 ∧ { t with stage := .taken 1 }.stage ≠ .sent ∧ World.reset.roomFor t = true)
    ∧ (∀ st ∈ [Tdisp.locked, .run],
       let t : Transfer := ⟨2, false, .erased (some 1), World.reset, [], [], [], [], [], [], [], []⟩
       let s := { ofWorld 1 fun w => { w with tdisp := st, migration := .armed 0 } with transfers := [t] }
       (s.worldAt 1).migration = .armed 0 ∧ (∃ tr ∈ s.transfers, tr.stage = .erased (some 1)) ∧ (s.worldAt 1).tdisp = st)
    ∧ (let s := { ofWorld 1 fun w => { w with tdisp := .run, migration := .escrow } with transfers := [] }
       ∀ tr ∈ s.transfers, tr.stage ≠ .erased (some 1))
    ∧ (let s := ofWorld 1 fun w => { w with tdisp := .error, migration := .armed 0 }
       (s.worldAt 1).tdisp = .error)
    ∧ (let s := { ofWorld 1 fun w => { w with tdisp := .run } with hssLeaves := 2 ^ 30 }
       (s.worldAt 1).tdisp = .run ∧ (s.worldAt 1).migration = .none ∧ 2 ^ 30 ≤ s.hssLeaves)
    ∧ (let s := { base with drbg := 2 ^ 20, drbgSeed := 0 }
       s.drbgSeed + 2 ^ 20 ≤ s.drbg) := by decide +kernel

/-- O56: clusters of a round, and a failing and a correctable line of a system channel. -/
theorem witness_host_events :
    (∀ g ∈ [(⟨63, 37, 20, 9⟩ : Grant)], g.cluster < 64)
    ∧ ([(56 * 2 ^ 23, false)].filter fun e => systemChannel 0 e.1).length = 1 := by decide +kernel

/-- O60: a value of one byte. -/
theorem witness_value_fits : 0xFF < 256 ^ 1 := by decide

/-! #### Further cases of the statements on strands and the system -/

/-- O5: a belt register and a named one; of two held pushes the first is due. -/
theorem witness_landing_due :
    (15 : R5).toNat < 16 ∧ 16 ≤ (16 : R5).toNat ∧ Strand.reset.belt.length = 16 ∧ 15 < Strand.reset.n.length
    ∧ (let hs : List (Nat × Landing) := [(5, .push 7 none), (6, .named 15 8)]
       let s := tweak id fun x => { x with ctime := 5, held := hs.map fun h => ⟨.scalar h.1 h.2, true, []⟩ }
       (s.coreAt 0).lq = [] ∧ (s.strandAt 0 0).past = none ∧ (s.strandAt 0 0).held = hs.map (fun h => ⟨.scalar h.1 h.2, true, []⟩)
        ∧ 5 ≤ (s.strandAt 0 0).ctime ∧ (s.strandAt 0 0).ctime < 6) := by decide +kernel

/-- O8: the rounds that the statement names exist for every counter and key. -/
theorem witness_rng_rounds (c0 c1 key : Word) : ∃ y : Nat → Nat → BitVec 32,
    y 0 0 = c0.extractLsb' 0 32 ∧ y 0 1 = c0.extractLsb' 32 32 ∧ y 0 2 = c1.extractLsb' 0 32 ∧ y 0 3 = c1.extractLsb' 32 32
    ∧ ∀ i, i < 4 → ∀ a0 a1 a2 a3 : BitVec 32, a0 = y i 0 + y i 1 + key.extractLsb' (32 * (i % 2)) 32 → a3 = (y i 3 ^^^ a0).rotateLeft 16 →
      a2 = y i 2 + a3 → a1 = (y i 1 ^^^ a2).rotateLeft 12 →
      y (i + 1) 0 = a0 + a1 ∧ y (i + 1) 3 = (a3 ^^^ y (i + 1) 0).rotateLeft 8
      ∧ y (i + 1) 2 = a2 + y (i + 1) 3 + BitVec.ofNat 32 i ∧ y (i + 1) 1 = (a1 ^^^ y (i + 1) 2).rotateLeft 7 := by
  let next : Nat → (Nat → BitVec 32) → Nat → BitVec 32 := fun i z =>
    let a0 := z 0 + z 1 + key.extractLsb' (32 * (i % 2)) 32
    let a3 := (z 3 ^^^ a0).rotateLeft 16
    let a2 := z 2 + a3
    let a1 := (z 1 ^^^ a2).rotateLeft 12
    let n3 := (a3 ^^^ (a0 + a1)).rotateLeft 8
    let n2 := a2 + n3 + BitVec.ofNat 32 i
    fun j => [a0 + a1, (a1 ^^^ n2).rotateLeft 7, n2, n3].getD j 0
  refine ⟨fun i => i.rec (fun j => [c0.extractLsb' 0 32, c0.extractLsb' 32 32, c1.extractLsb' 0 32, c1.extractLsb' 32 32].getD j 0) next,
    rfl, rfl, rfl, rfl, ?_⟩
  rintro i - _ _ _ _ rfl rfl rfl rfl
  exact ⟨rfl, rfl, rfl, rfl⟩

/-- O9: a finite value, an infinity and a NaN, for each rounding mode, and the two integer kinds. -/
theorem witness_conversions :
    (∃ n d, 0 < d ∧ fpVal true 0xBFF8000000000000 = .fin true n d) ∧ fpVal true 0xFFF0000000000000 = .inf true ∧ fpVal true 0x7FF8000000000000 = .nan
    ∧ (∀ m ∈ [RMode.rne, .rtz, .rdn, .rup], ∃ fn : R5, fpMode ⟨31, 16, 2, 0, fn⟩ = m) := by
  refine ⟨⟨2 ^ 52 + 2 ^ 51, 2 ^ 52, by decide +kernel⟩, by decide +kernel⟩

/-- O14: a store into bytes 17 to 19 of a written record of the scale store. -/
theorem witness_record_bytes :
    (let s := tweak (fun k => { k with recs := [(3, { RecMeta.reset with written := true })] }) (regs [word (4 * 2 ^ 60 + 3 * 32 + 16), 7])
     localPtr (s.access 16 0) = some (.scale 0 3 16) ∧ s.bankOpen clsS 0 ∧ (s.access 16 0).toNat % 4 = 0 ∧ (s.core.rec_ (0 * 128 + 3)).written = true
      ∧ (16 + 1 = 17 ∧ 1 < 4) ∧ (16 + 2 = 18 ∧ 2 < 4) ∧ (19 ≤ 16 + 3 ∧ 3 < 4)) := by
  unfold State.bankOpen; decide +kernel

/-- O22: a command of delta 0. -/
theorem witness_delta_zero : (⟨16, 17, 0, 1, 15⟩ : MemF).delta = 0 := by decide

/-- O24: a ring without a permit, at which one more arrival may wait. -/
theorem witness_arrival_waits :
    (let s := owner tiles (regs [word (5 * 2 ^ 60), 0])
     ringPtr (s.src 16) = some 0 ∧ (s.core.ring 0).configured = true ∧ 1 + 1 ≤ ringCount (s.core.ring 0).desc ∧ s.permitsOf s.cur.core 0 = 0
      ∧ (s.core.ring 0).queue.length < 8 ∧ (s.core.ring 0).taken = [] ∧ (s.core.ring 0).tail < (s.core.ring 0).size ∧ s.fenceHolds clsC = false) := by
  decide +kernel

/-- O25, O27: no sync word is bound to the slot; no verification mode is in force. -/
theorem witness_sync_unbound : SMap.get base.strand.sync 0 15 = 0 ∧ vctlEn base.core.vctl = false ∧ vctlEn OpInfo.none.vctl = false := by decide +kernel

/-- The strand's page at the start of the system window has a poisoned entry, found or not, in every copy of its world's map. -/
def poisonedPage (found : Bool) : State :=
  let m : SMap Page := [(0, ⟨4, true, found⟩)]
  { owner id (regs [0, word (2 ^ 52 + 64), 1]) with
    cur := { base.cur with pc := word (2 ^ 52 + 32) }
    wgs := [{ workgroup with view := m }], worlds := [(0, { World.reset with pages := m, live := m, fabView := m })] }

/-- O31: each transfer is taken, to a target of region 0 and to a page with a poisoned entry that no walk has found, or that one has. -/
theorem witness_failing_targets :
    (let s := { base with cur := { base.cur with pc := 0 } }
     s.targetFault s.cur.core (BitVec.ofInt 64 (s.cur.pc.toInt + (1 : BitVec 24).toInt * 32)) = some cChown ∧ cChown ≠ cXpoison)
    ∧ (∀ f ∈ [true, false], let s := poisonedPage f
       s.targetFault s.cur.core (BitVec.ofInt 64 (s.cur.pc.toInt + (1 : BitVec 24).toInt * 32)) = some cXpoison
        ∧ s.targetFault s.cur.core (s.src 17) = some cXpoison ∧ s.src 16 = 0 ∧ s.src 18 ≠ 0
        ∧ (([(s.worldAt s.strand.world).pages, (s.worldAt s.strand.world).live, (s.worldAt s.strand.world).fabView]
            ++ (s.wgs.filter fun g => g.world = s.strand.world).map fun g => g.view).all fun m => !unfound (pageOf (s.src 17).toNat) m) = f)
    ∧ (∃ cond : BitVec 2, brcmHolds cond .i8 0 0 = true) := by decide +kernel

/-- O37: registers of a user and of the supervisor in world 0; a strand without and one with channels of its own. -/
theorem witness_register_values :
    base.sysPriv 0x005 = false ∧ base.sysPriv 0x834 = false ∧ base.strand.lc.length ≤ 3
    ∧ (let s := owner id id
       s.wg = some workgroup ∧ workgroup.window.length ≤ 64
        ∧ (workgroup.window.filter fun ch => ch.rank == s.core.rank && ch.strand == s.cur.strand).map (·.lchan) = [0])
    ∧ (let w := { workgroup with window := [⟨3, 1, 0, some (0, 5), [], []⟩] }
       let s := { owner id id with wgs := [w] }
       s.wg = some w ∧ (w.window.filter fun ch => ch.rank == s.core.rank && ch.strand == s.cur.strand).map (·.lchan) = [])
    ∧ (∃ v : Word, xinvOk v = false ∧ Word.field v 62 2 = 0) ∧ base.strand.world = 0 := by
  refine ⟨by decide +kernel, by decide +kernel, by decide +kernel, by decide +kernel, by decide +kernel, ⟨1, by decide +kernel⟩, by decide +kernel⟩

/-- O43: a debt of eight at the next multiple, of an open row; a row open for 56,160 ticks that is to be closed already, and is not reported yet. -/
theorem witness_forced_actions :
    (let P := { Pc.reset with owner := some 1, debt := [(16, 8)], played := [(16, (3, 5))] }
     SMap.rising P.debt ∧ P.owner.isSome = true ∧ 9 ≤ min (SMap.get P.debt 0 16 + 1) 9 ∧ 16 ∉ P.refreshing ∧ P.isOpen 16 = true)
    ∧ (let P := { Pc.reset with debt := [(16, 9)], played := [(16, (3, 5))], closing := [16] }
       min (SMap.get P.debt 0 16 + 1) 9 = 9 ∧ SMap.find P.played 16 = some (3, 5) ∧ 16 ∈ P.closing ∧ 16 ∉ P.overdue) := by decide +kernel

/-- O46: a row due and a row not yet due of the one operation of the unit. -/
theorem witness_rows_due :
    (let f : MF := ⟨7, 0, 1, 0, 0, false, false, true, false, false⟩
     let o := { mop (.mma f) f with started := true, row := 30, begun := 10, halves := 8 }
     let k := { tiles Core.reset with mq := [o], cycle := 7 }
     k.mq = [o] ∧ o.writesAcc = some 7 ∧ o.started = true ∧ o.row ≤ 32 ∧ vctlEn o.vctl = false
      ∧ 10 / 2 + ((30 + 1) * 8 + 63) / 64 ≤ 8 + 1 ∧ ¬ 10 / 2 + ((31 + 1) * 8 + 63) / 64 ≤ 6 + 1) := by decide +kernel

/-- O46: writers with ck: on valid checksums, from zero, and on checksums that are not valid. -/
theorem witness_checksums :
    (let f : MF := ⟨0, 0, 1, 0, 0, false, false, false, true, false⟩
     let a := { Acc.reset with ckv := false }
     f.ck = true ∧ f.z = false ∧ Acc.reset.ckv = true ∧ { f with z := true }.z = true ∧ a.ckv = false ∧ { f with ck := false }.ck = false) := by decide +kernel

/-- O46: the rows of masks that keep elements. -/
theorem witness_mask_keeps :
    (let M := (tweak tiles id).readRun 0 0 (tiles Core.reset).vctl (runSlot (desc 2 2 1 0) 0) 0 2
     M.bytes.length = 128 ∧ mgKept 0 ≤ 32) := by decide +kernel

/-- O46: a factor that is positive and finite, and one that is not. -/
theorem witness_factors : isPosFin (tauVal 0x3F800000) = true ∧ isPosFin (tauVal 0x7F800000) = false ∧ mgTO 0 = false := by decide +kernel

/-- O46: a check with ck of valid checksums: the residue of row 31 is beyond the threshold 0, that of row 0 is not. -/
theorem witness_check_finds :
    (let f : MF := ⟨0, 4, 0, 0, 0, false, false, false, true, false⟩
     let a := { Acc.reset with rs := [(31, 0x3FF0000000000000)] }
     let d := fun r => word (fmtF64.encode .rne false (exactSum (fmtF64.decode (SMap.get a.rs 0 r).toNat
       :: (List.range 32).map fun c => (fmtF64.decode (a.get r c).toNat).neg)))
     f.ck = true ∧ a.ckv = true ∧ FVal.le (fmtF64.decode (d 31).toNat).abs (fmtF64.decode (mop (.mchk f) f).x.toNat) = false
      ∧ FVal.le (fmtF64.decode (d 0).toNat).abs (fmtF64.decode (mop (.mchk f) f).x.toNat) = true) := by decide +kernel

/-- O47: a bank with a spare row left, and one without; a slice that is in service. -/
theorem witness_spare_rows :
    (base.pcAt (pcKey 1 5)).owner = none ∧ (base.repaired.filter fun r => r.1 = pcKey 1 5 * 64 + 3).length ≤ Config.spareRows
    ∧ (let s := { base with repaired := List.replicate (Config.spareRows + 1) (pcKey 1 5 * 64 + 3, 7) }
       Config.spareRows < (s.repaired.filter fun r => r.1 = pcKey 1 5 * 64 + 3).length)
    ∧ base.gone 1 55 3 = false ∧ { base with filling := [(1, pcKey 1 55, 3)] }.filling = [(1, pcKey 1 55, 3)] ∧ (3 : Nat) ∈ maskSids 8 := by
  refine ⟨by decide +kernel, ?_, ?_, by decide +kernel, by decide +kernel, by decide +kernel⟩
  · rw [show (base.repaired.filter fun r => r.1 = pcKey 1 5 * 64 + 3) = [] by decide +kernel]
    exact Nat.zero_le _
  · simp

/-- O48: a source without and with a key; each check of a target fails on a window of its own, and one request passes; identifiers inside and outside the 256. -/
theorem witness_peer_checks :
    (let s := exported
     s.linkKey 1 9 = none ∧ s.authentic (toWindow 0) = false ∧ SMap.find { s with routes := [(9, 2)] }.routes 9 = some 2 ∧ SMap.find s.routes 9 = none
      ∧ { s with linkKeys := [⟨1, 9, 0, 1, 0, 0⟩] }.authentic (toWindow 0) = true)
    ∧ SMap.find (base.worldAt 1).exports 0 = none
    ∧ (let e : Export := ⟨2 ^ 52, 1, 7, 0xFF, 0, 1, 3, true, 0, 0, 1, 0⟩
       SMap.find (exported.worldAt 1).exports 0 = some e ∧ e.pages ≠ 0 ∧ e.base % Config.pageBytes = 0 ∧ e.base / 2 ^ 52 = 1
        ∧ e.pages * Config.pageBytes < Config.pageBytes - 63 + 64 ∧ Config.pageBytes - 64 + 64 ≤ e.pages * Config.pageBytes
        ∧ e.perm.getLsbD 2 = true ∧ e.peers = 0xFF ∧ { e with perm := 1 }.perm.getLsbD 1 = false
        ∧ { e with peers := 3 }.peers ≠ 0xFF ∧ 9 ∉ SMap.get (exported.worldAt 1).peerSets [] 3
        ∧ (2 ^ 52 + (Config.pageBytes - 64)) % 2 ^ 52 / 2 ^ 39 = 0 ∧ (2 ^ 52 + (Config.pageBytes - 64)) % Config.pageBytes + 64 ≤ Config.pageBytes
        ∧ SMap.find (exported.fabPages 1) (pageOf (2 ^ 52)) = some ⟨4, false, false⟩ ∧ exported.codeAt 1 (pageOf (2 ^ 52)) 4 = false
        ∧ SMap.find (base.fabPages 1) (pageOf (2 ^ 52)) = none
        ∧ SMap.find ({ base with worlds := [(1, { World.reset with fabView := [(0, ⟨4, true, false⟩)], live := [(0, ⟨4, true, false⟩)] })] }.fabPages 1)
            (pageOf (2 ^ 52)) = some ⟨4, true, false⟩)
    ∧ 256 ≤ identDist (SMap.get base.amoBase 0 9) 256 ∧ identDist (SMap.get base.amoBase 0 9) 255 < 256 ∧ base.onPort 2 = [] := by decide +kernel

/-- O48: parts of a put, of which none is being moved; operations of an atomic. -/
theorem witness_peer_parts :
    (∀ p ∈ [(⟨4, 4 * Config.pageBytes, 0, 64⟩ : PeerPart)], exported.retiring p.frame = false)
    ∧ (∃ p ∈ [(⟨4, 4 * Config.pageBytes, 0, 64⟩ : PeerPart)],
        { exported with notices := [⟨0, (exported.systemPlace (sliceOfFrame 4)).1, 0xF, 0⟩] }.retiring p.frame = true)
    ∧ (10 : BitVec 4).toNat = 10 ∧ (∀ u, u < 8 → base.unitBad u = false) := by decide +kernel

/-- O49: a get of which more lines are to come, and one that is whole with them; ports. -/
theorem witness_fabric_events_more :
    (let o := { fabOp .get (.spad 0 0 0) with bytes := 128, put := 64 }
     o.bytes ≤ o.put + (List.replicate 64 (0 : Byte)).length ∧ ¬ o.bytes ≤ 0 + (List.replicate 64 (0 : Byte)).length)
    ∧ (fabOp .put .none).lost = false ∧ { base with fab := [fabOp .put .none] }.findFab 7 = some (fabOp .put .none)
    ∧ 20 ≤ 31 ∧ (SMap.get base.ports Port.reset 3).up = false := by decide +kernel

/-- O51: launches that are over: all of the grid, stopped by a fault domain, and spent; of two with one number, one is over; one whose workgroup stays blocked. -/
theorem witness_launches_over :
    (let l := { launch with ended := 1 }
     let s := { running enabled id with launches := [{ launch with id := 2 }, l] }
     s.launchWith 1 0 1 s.launchOver = some l ∧ l.ended = l.next ∧ l.next = l.grid ∧ l ∈ s.launches)
    ∧ (let l := { launch with ended := 1, grid := 5, domain := 3 }
       let s := { running enabled (fun w => { w with domains := [(3, 0x10)] }) with launches := [l] }
       s.launchWith 1 0 1 s.launchOver = some l ∧ (s.domainStopped l).isSome = true)
    ∧ (let l := { launch with grid := 5, allowance := 2, charge := 2000 }
       let s := { running enabled id with launches := [l] }
       s.launchWith 1 0 1 (fun l => l.spent && (!l.budget || s.wgs.any (s.stuck l))) = some l ∧ l.spent = true ∧ l.budget = false
        ∧ l.allowance ≠ 0 ∧ l.allowance * 1000 ≤ l.charge)
    ∧ (∀ m ∈ [launch], m.world = 1 → m.queue = 0 → m.seq = 1 → m = launch) := by decide +kernel

/-- World 1 below its cmin; world 2 slow, with two clusters and a cmin of 1; world 3, without targets, a donor of its two; world 4 with a mark that is cancelled, world 5 with one that stays. -/
def evaluated : State :=
  let w (part quota : Nat) (m : Option (Nat × Nat)) : World := { World.reset with pwctl := 0x8000000000000000, pwpart := word part, pwquota := word quota, marked := m, born := 7 }
  { base with
    dstat := 5, ns := 100000
    launches := [{ launch with world := 2, target := 10 }]
    worlds := [(1, w 0 (2 * 256 + 4) none), (2, w (2 ^ 1) (1 * 256 + 4) none), (3, w (2 ^ 2 + 2 ^ 3) (1 * 256 + 4) none),
               (4, w (2 ^ 4) 4 (some (4, 1))), (5, w (2 ^ 5) 4 (some (5, 2)))] }

/-- The same with no cluster free: the rest lie in world 15's partition. -/
def evaluatedFull : State := { evaluated with worlds := SMap.set evaluated.worlds 15 { World.reset with pwpart := word (2 ^ 64 - 64 + 1) } }

/-- O52: an evaluation that is due, with receivers, donors, free clusters, a cancelled mark and one that stays; with no cluster free a donor's cluster is marked; and the readings of the orders. -/
theorem witness_evaluation :
    (evaluated.dstat = 5 ∧ evaluated.governedAt + 100000 ≤ evaluated.ns
      ∧ evaluated.cancelMarks.receivers = [1, 2] ∧ evaluated.cancelMarks.donors = [3, 4]
      ∧ (evaluated.freePool.take 3) = [0, 6, 7]
      ∧ (evaluated.worldAt 4).marked = some (4, 1) ∧ (evaluated.cancelMarks.worldAt 4).marked = none ∧ (evaluated.cancelMarks.worldAt 5).marked = some (5, 2)
      ∧ slow (evaluated.progress 2) = true ∧ fast (evaluated.progress 3) = true ∧ slow (evaluated.progress 1) = false
      ∧ (evaluated.worldAt 1).clusters.length < (evaluated.worldAt 1).cminRoot ∧ (evaluated.worldAt 3).cminRoot < (evaluated.worldAt 3).clusters.length
      ∧ lower (evaluated.progress 2) (evaluated.progress 3) = true)
    ∧ (evaluatedFull.freePool = [] ∧ evaluatedFull.cancelMarks.receivers = [1, 2] ∧ evaluatedFull.cancelMarks.donors = [3, 4]
      ∧ [(3, 1), (4, 2)] = evaluatedFull.cancelMarks.donors.zip (evaluatedFull.cancelMarks.receivers.drop evaluatedFull.freePool.length)) := by decide +kernel

/-- A manifest of epoch 1 of world 0 with one shard, as this device writes and signs it, and one that names another signer. -/
def manifestText : List Byte :=
  [2, 0, 0, 1, 1, 0, 0, 0, 1, 0, 0, 0, 0, 0, 0, 0] ++ hashBytes Config.deviceIdentity ++ List.replicate 1808 0 ++ [0xD4, 0x0C] ++ List.replicate 70 0
def signedManifest : List Byte :=
  manifestText ++ (List.range 3284).map (Config.signature (sha256 manifestText) 0) ++ List.replicate 36 0
def unsignedManifest : List Byte := [2, 0, 0, 2, 1, 0, 0, 0, 1] ++ List.replicate 1847 0 ++ [0xD4, 0x0C] ++ List.replicate 3390 0

/-- The world of a ckload whose block says: manifest of epoch 1, in 5,248 bytes. -/
def fetching (w : World → World) : State :=
  { ckState true w with
    hssLeaves := 1
    cores := [(0, { Core.reset with spad := [(0, 1), (8, 1), (45, 0x48), (47, 0x60), (48, 0x80), (49, 0x14)]
                                    lines := [(0, { LineMeta.reset with written := true }), (1, { LineMeta.reset with written := true })] })] }

/-- O53: a manifest whose signature does not verify; one that this device has signed, without its KC and with it. -/
theorem witness_manifest_fetched :
    (let s := fetching id
     let r := CkReq.ofBytes (s.readSpad 0 0 0 128 0).bytes
     r.bad true = false ∧ r.kind = 1 ∧ r.epoch = 1 ∧ r.capacity = 5248 ∧ (s.worldAt 0).metersFrozen = false
      ∧ Word.field r.place 43 13 ≠ s.device ∧ s.carries 0 (Word.field r.place 43 13) .get = true ∧ unsignedManifest.length = 5248
      ∧ manifestOk unsignedManifest 1 = true ∧ s.manifestSigned 0 unsignedManifest = false)
    ∧ signedManifest.length = 5248 ∧ manifestOk signedManifest 1 = true ∧ (fetching id).manifestSigned 0 signedManifest = true
    ∧ World.reset.manifestKC 0 1 signedManifest none = none
    ∧ { World.reset with kcEpochs := [(1, 5)] }.manifestKC 0 1 signedManifest none = some (keyKC 0 5) := by
  have hw : manifestWriter signedManifest = Config.deviceIdentity := hashOf_hashBytes Config.deviceIdentity
  have hn : 1864 + 64 * leNat ((signedManifest.drop 4).take 4) = manifestText.length := by decide +kernel
  have hb : manifestBody signedManifest = manifestText := by rw [manifestBody, hn, signedManifest, List.append_assoc, List.take_left]
  have hs : manifestSig signedManifest = (List.range 3284).map (Config.signature (sha256 manifestText) 0) := by
    rw [manifestSig, hn, signedManifest, List.append_assoc, List.drop_left]
    exact List.take_left' (by simp)
  have h3 : signedManifest.getD 3 0 = 1 := rfl
  have h2 : (signedManifest.getD 2 0).toNat = 0 := rfl
  refine ⟨by decide +kernel, by decide +kernel, by decide +kernel, ?_, ?_, ?_⟩
  · unfold State.manifestSigned
    rw [h3, hw, hb, hs]
    simp [fetching]
  · simp [World.manifestKC, World.ownKC, World.reset, SMap.find]
  · simp only [World.manifestKC, World.ownKC, hw, h2]
    simp [SMap.find]

/-- O53: a shard that the adopted manifest knows, of 64 bytes, which cannot hold the plaintext for a list that its header does not name. -/
theorem witness_shard_fails :
    (let data : List Byte := List.replicate 64 0
     let w := fun (w : World) => { w with adopted := some 1, adoptedShards := [⟨1, 0, peer 0, 64, 0, sha256 data⟩] }
     let s := { ckState true w with cores := [(0, { Core.reset with spad := [(45, 0x48), (47, 0x60), (48, 0x40)],
                                                                      lines := [(0, { LineMeta.reset with written := true }), (1, { LineMeta.reset with written := true })] })] }
     let r := CkReq.ofBytes (s.readSpad 0 0 0 128 0).bytes
     let sources := 0 :: Config.headerSources (data.take 256)
     r.bad true = false ∧ r.kind ≠ 1 ∧ r.capacity = data.length ∧ (s.worldAt 0).shardKnown r.shard data = true
      ∧ shardHolds (s.worldAt 0).adoptedKC 1 r.shard data sources [] = false) := by
  refine ⟨by decide +kernel, by decide +kernel, by decide +kernel, by decide +kernel, ?_⟩
  have h : ∀ (l shard : Nat) (kc : BitVec 256) (xs : List Nat), (List.replicate 64 (0 : Byte) == shardStored kc l 1 shard xs []) = false := by
    intro l shard kc xs
    rw [beq_eq_false_iff_ne]
    intro he
    have := congrArg List.length he
    simp [shardStored, shardHead] at this
    omega
  simp only [shardHolds, h, Bool.or_eq_false_iff, Bool.and_eq_false_iff]
  refine ⟨by simp, .inl ?_⟩
  rw [beq_eq_false_iff_ne]
  intro he
  have := congrArg List.length he
  simp at this

/-- O54: a measurement list that is fixed, and one that is not. -/
theorem witness_reports :
    ((ofWorld 1 id).worldAt 1).report.isSome = false ∧ ((ofWorld 1 fun w => { w with report := some [1] }).worldAt 1).report.isSome = true
    ∧ ((ofWorld 1 fun w => { w with tdisp := .error }).worldAt 1).finalDue = false := by decide +kernel

/-- A policy of one range without slots, whose region is empty, with the given hash of it. -/
def emptyPolicy (hash : List Byte) : Policy :=
  { bytes := [1, 0, 15, 1, 0, 0, 0, 0] ++ List.replicate 64 0 ++ hash ++ List.replicate 64 0, sigOk := true }

/-- O55: policies, each of which fails one check of METER_BIND, and one that passes all. -/
theorem witness_policies :
    policyFormed { policy 1 with bytes := [] } = false ∧ policyFormed (policy 1) = true ∧ (policy 1).sigOk = true
    ∧ policySlices (policy 1) = [(1, 0)]
    ∧ (let s := ofWorld 1 fun w => { w with tdisp := .run, slices := [(4, (0, 5, 0))] }
       (∀ x ∈ policySlices (policy 1), (SMap.find (s.worldAt 1).slices (x.1 * 4 + x.2)).isSome = true)
        ∧ SMap.find (s.worldAt 1).slices (1 * 4 + 0) = some (0, 5, 0) ∧ (s.pcAt (pcKey 0 5)).owner = none
        ∧ ({ s with pcs := [(5, { Pc.reset with owner := some 1 })] }.pcAt (pcKey 0 5)).owner ≠ none)
    ∧ (∀ h ∈ [List.replicate 32 (0 : Byte), hashBytes (sha256 [])],
        policyFormed (emptyPolicy h) = true ∧ policySlices (emptyPolicy h) = [] ∧ policyMeter (emptyPolicy h) = 15
        ∧ (((ofWorld 1 id).regionPlain 1 (emptyPolicy h)).1 = []))
    ∧ sha256 [] = policyContent (emptyPolicy (hashBytes (sha256 []))) ∧ sha256 [] ≠ policyContent (emptyPolicy (List.replicate 32 0))
    ∧ (∃ b ∈ [(⟨15, 0, []⟩ : MeterBinding)], b.meter = policyMeter (policy 1)) := by decide +kernel

/-- O55: a destination that may arm, with its release key, what another device sent among the copies; one without a key; an escrow with and without a session; what is confirmed. -/
theorem witness_migration_ends :
    (let t : Transfer := ⟨1, true, .sent, World.reset, [], [], [], [], [], [], [], []⟩
     let s := { ofWorld 1 fun w => { w with tdisp := .locked, releaseKey := some [] } with transfers := [t] }
     s.transfers[0]? = some t ∧ t.stage = .sent ∧ t.foreign = true ∧ (s.worldAt 1).migration = .none ∧ (s.worldAt 1).tdisp = .locked
      ∧ s.hssLeaves < 2 ^ 30 ∧ (s.worldAt 1).releaseKey = some [] ∧ (s.worldAt 1).roomFor t = true ∧ (s.worldAt 1).lowered t = false
      ∧ ((ofWorld 1 id).worldAt 1).releaseKey = none)
    ∧ (let t : Transfer := ⟨1, true, .taken 1, World.reset, [], [], [], [], [], [], [], []⟩
       let s := { ofWorld 1 fun w => { w with tdisp := .run, migration := .escrow, escrow := some [], session := true } with transfers := [t] }
       (s.worldAt 1).migration = .escrow ∧ (s.worldAt 1).escrow ≠ none ∧ (s.worldAt 1).session = true ∧ (s.worldAt 1).tdisp = .run
        ∧ (∃ tr ∈ s.transfers, tr.foreign = true ∧ tr.stage = .taken 1))
    ∧ (let s := ofWorld 1 fun w => { w with migration := .escrow }
       (s.worldAt 1).migration = .escrow ∧ (s.worldAt 1).session = false)
    ∧ (let s := ofWorld 1 fun w => { w with tdisp := .error, migration := .quiesced }
       (s.worldAt 1).migration = .quiesced ∧ (s.worldAt 1).tdisp ≠ .run)
    ∧ (let s := ofWorld 1 fun w => { w with tdisp := .run, migration := .armed 0 }
       (∀ tr ∈ s.transfers, tr.stage ≠ .erased (some 1)) ∧ (s.worldAt 1).tdisp = .run) := by decide +kernel

/-- O56: a grant in the march. -/
theorem witness_march_grant : (let s := { base with dstat := 3, ns := 1000 }; 3 ≤ s.dstat ∧ s.dstat ≤ 5 ∧ s.grantedAt + 1000 ≤ s.ns) := by decide +kernel

/-! #### The whole machine -/

theorem witness_EncodedInstructionDecodes :
    (Instr.rotri ⟨31, 31, 63⟩).wf = true ∧ encode .s (.rotri ⟨31, 31, 63⟩) ≠ none := by decide +kernel

theorem witness_DecodedWordIsItsEncoding : decodeSyl .s 1 0x404A0040 = .ok (.addi ⟨4, 20, 64⟩) := rfl

theorem witness_OnlyAStoppedPackageFaults : { base with stopped := true }.stopped = true ∧ base.stopped = false := by decide +kernel

/-- A state with an error counted, whose next step answers. -/
theorem witness_ErrorCountersSumKept :
    { placed with eseq := 3, ecnt := [(2, 1), (7, 2)] }.errorsCounted ∧ (match step { placed with eseq := 3, ecnt := [(2, 1), (7, 2)] } with
      | .next _ => true
      | _ => false) = true := by
  unfold State.errorsCounted; decide +kernel

theorem witness_MemoryReadsBackWhatIsWritten : Memory.wf [(3, 1), (2 ^ 40, 0xFF)] := by decide

theorem witness_SyncWordCounts : (⟨5, 3, 4, 0⟩ : SyncWord).target ≠ 0 := by decide

end Sys2Proof.Tests
end

section
/-! Runs of bytes in a memory: what a read sees after a run is written or cleared, and the bytes of a number, least significant first (R5). -/

namespace Sys2Proof.Machine

open Sys2Proof

/-! ### A run of bytes -/

@[simp] theorem Memory.writeN_nil (m : Memory) (a : Nat) : Memory.writeN m a [] = m := rfl

@[simp] theorem Memory.writeN_cons (m : Memory) (a : Nat) (b : Byte) (bs : List Byte) :
    Memory.writeN m a (b :: bs) = Memory.writeN (Memory.write m a b) (a + 1) bs := rfl

/-- The frame of a written run. -/
theorem Memory.read_writeN_outside (bs : List Byte) (m : Memory) (a x : Nat) (h : x < a ∨ a + bs.length ≤ x) :
    Memory.read (Memory.writeN m a bs) x = Memory.read m x := by
  induction bs generalizing m a with
  | nil => rfl
  | cons b bs ih =>
    rw [List.length_cons] at h
    calc Memory.read (Memory.writeN (Memory.write m a b) (a + 1) bs) x
        = Memory.read (Memory.write m a b) x := ih _ _ (by omega)
      _ = Memory.read m x := Memory.read_write_ne m b (by omega)

theorem Memory.read_writeN_inside (bs : List Byte) (m : Memory) (a i : Nat) (h : i < bs.length) :
    Memory.read (Memory.writeN m a bs) (a + i) = bs.getD i 0 := by
  induction bs generalizing m a i with
  | nil => exact absurd h (Nat.not_lt_zero i)
  | cons b bs ih =>
    cases i with
    | zero =>
      -- the rest of the run lies above the first byte
      rw [writeN_cons, Memory.read_writeN_outside bs _ _ _ (.inl (by omega))]
      simp
    | succ i =>
      have hi : i < bs.length := Nat.lt_of_succ_lt_succ h
      rw [writeN_cons, List.getD_cons_succ, Nat.add_comm i 1, ← Nat.add_assoc]
      exact ih _ _ _ hi

theorem Memory.readN_writeN_same (m : Memory) (a : Nat) (bs : List Byte) :
    Memory.readN (Memory.writeN m a bs) a bs.length = bs := by
  refine List.ext_getElem (by simp [Memory.readN]) fun i _ hi => ?_
  simp [Memory.readN, Memory.read_writeN_inside bs m a i hi, hi]

theorem Memory.read_clear (m : Memory) (a n x : Nat) :
    Memory.read (Memory.clear m a n) x = if a ≤ x ∧ x < a + n then 0 else Memory.read m x := by
  have hfind := SMap.find_filter m (fun k => k < a || a + n ≤ k) x
  unfold Memory.read Memory.clear SMap.get
  rw [hfind]
  by_cases hx : a ≤ x ∧ x < a + n
  · have hout : ¬(x < a ∨ a + n ≤ x) := by omega
    simp [hx, hout]
  · have hkept : x < a ∨ a + n ≤ x := by omega
    simp [hx, hkept]

/-! ### Bytes, least significant first -/

@[simp] theorem length_leBytes (n v : Nat) : (leBytes n v).length = n := by
  induction n generalizing v with
  | zero => rfl
  | succ n ih => rw [leBytes, List.length_cons, ih]

theorem getD_leBytes (n v i : Nat) (h : i < n) : (leBytes n v).getD i 0 = BitVec.ofNat 8 (v / 256 ^ i) := by
  induction n generalizing v i with
  | zero => exact absurd h (Nat.not_lt_zero i)
  | succ n ih =>
    cases i with
    | zero => simp [leBytes]
    | succ i =>
      rw [leBytes, List.getD_cons_succ, ih _ _ (Nat.lt_of_succ_lt_succ h), Nat.div_div_eq_div_mul, Nat.pow_succ']

theorem leNat_leBytes (n v : Nat) : leNat (leBytes n v) = v % 256 ^ n := by
  induction n generalizing v with
  | zero => simp [leBytes, leNat, Nat.mod_one]
  | succ n ih => rw [leBytes, leNat, ih, Nat.pow_succ', Nat.mod_mul, BitVec.toNat_ofNat]

/-! ### A number in memory -/

theorem Memory.read_writeN_leBytes (m : Memory) (a n v i : Nat) (h : i < n) :
    Memory.read (Memory.writeN m a (leBytes n v)) (a + i) = BitVec.ofNat 8 (v / 256 ^ i) := by
  rw [Memory.read_writeN_inside _ _ _ _ (by simpa using h), getD_leBytes n v i h]

theorem Memory.leNat_readN_writeN_leBytes (m : Memory) (a n v : Nat) :
    leNat (Memory.readN (Memory.writeN m a (leBytes n v)) a n) = v % 256 ^ n := by
  have hrun := Memory.readN_writeN_same m a (leBytes n v)
  rw [length_leBytes] at hrun
  rw [hrun, leNat_leBytes]

/-- Settles O60: the canonical form is kept byte by byte, and each read follows from the laws of a written and a cleared run. -/
theorem memoryReadsBackWhatIsWritten : Obligations.MemoryReadsBackWhatIsWritten := by
  intro m a bs hwf
  obtain ⟨hwrite, hclear⟩ := Memory.wf_writeN_clear m hwf
  refine ⟨hwrite bs a, Memory.read_writeN_inside bs m a, Memory.read_writeN_outside bs m a,
    Memory.read_writeN_leBytes m a, fun n v hv => ?_, fun n => ⟨hclear a n, Memory.read_clear m a n⟩⟩
  rw [Memory.leNat_readN_writeN_leBytes, Nat.mod_eq_of_lt hv]

end Sys2Proof.Machine
end

section
/-! The M slot at issue: what a syllable of the matrix unit does to its core when nothing that it asks blocks or faults (R233, R236, R242, R243, R250). -/

namespace Sys2Proof.Machine

open Sys2Proof

/-! ### Conditions that a bundle asks -/

@[simp] theorem State.asks_false (s : State) : s.asks false = false := rfl

@[simp] theorem State.asked_none (s : State) : s.asked none = none := by
  unfold State.asked; split <;> rfl

theorem State.queueFull_eq_false (s : State) (h : s.core.mq.length + s.core.mplaces < 16) : s.queueFull = false := by
  unfold State.queueFull
  rw [decide_eq_false (Nat.not_le.2 h), State.asks_false]

/-! ### The core and the strand after an update of the core -/

@[simp] theorem Core.acc_setAcc_same (k : Core) (t : Nat) (a : Acc) : (k.setAcc t a).acc t = a := by
  simp [Core.acc, Core.setAcc]

theorem Core.acc_setAcc_ne (k : Core) {t u : Nat} (a : Acc) (h : u ≠ t) : (k.setAcc t a).acc u = k.acc u := by
  simp [Core.acc, Core.setAcc, SMap.get_set_ne _ _ _ h]

theorem State.modCore_eq_putCore (s : State) (f : Core → Core) : s.modCore s.cur.core f = s.putCore (f s.core) := rfl

@[simp] theorem State.putCore_putCore (s : State) (k l : Core) : (s.putCore k).putCore l = s.putCore l :=
  State.setCore_setCore s s.cur.core k l

/-- The strands of a core are the core's own: an update of the core that keeps them keeps the strand whose bundle is issued. -/
theorem State.strand_putCore (s : State) (k : Core) (h : k.strands = s.core.strands) : (s.putCore k).strand = s.strand := by
  show (s.putCore k).core.strandAt s.cur.strand = s.core.strandAt s.cur.strand
  rw [State.core_putCore, Core.strandAt, Core.strandAt, h]

/-! ### The queue of the matrix unit -/

/-- The core with an operation at the end of its matrix queue. -/
def Core.pushM (k : Core) (o : MOp) : Core := { k with mq := k.mq ++ [o] }

@[simp] theorem Core.ring_pushM (k : Core) (o : MOp) (q : Nat) : (k.pushM o).ring q = k.ring q := rfl

/-- The core with the watermark of a tile at 0, the operation being its writer (R236). -/
def Core.claimAcc (k : Core) (t : Nat) (o : MOp) : Core := k.setAcc t { k.acc t with w := 0, writer := o.info.id }

theorem State.queueM_reader (s : State) (o : MOp) (f : MF) : s.queueM o f false = s.bumpId.putCore (s.core.pushM o) := rfl

theorem State.queueM_writer (s : State) (o : MOp) (f : MF) :
    s.queueM o f true = s.bumpId.putCore ((s.core.pushM o).claimAcc f.acc.toNat o) := by
  have hclaim : s.queueM o f true
      = (s.bumpId.putCore (s.core.pushM o)).putCore ((s.bumpId.putCore (s.core.pushM o)).core.claimAcc f.acc.toNat o) := rfl
  rw [hclaim, State.core_putCore, State.putCore_putCore]

/-! ### Issue -/

theorem issueProduct_eq (s : State) (i : Instr) (f : MF) (qs pops : List Nat) (hi : Nat) (mask : Option Nat)
    (hplace : s.core.mq.length + s.core.mplaces < 16) (hfault : operandFault s.core qs hi mask = none)
    (htok : ∀ q ∈ qs ++ mask.toList, s.tokensOf s.cur.core q ≠ 0) :
    issueProduct s i f qs pops hi mask
      = .next ((pops.foldl (fun s q => s.consume s.cur.core q 1 true) (s.queueM (s.newMOp i f) f true)).verdict .ok) := by
  have hany : ((qs ++ mask.toList).any fun q => s.tokensOf s.cur.core q == 0) = false :=
    List.any_eq_false.2 fun q hq => by simpa using htok q hq
  simp [issueProduct, s.queueFull_eq_false hplace, hfault, hany, State.ok_eq]

theorem issueWriter_eq (s : State) (i : Instr) (f : MF) (hplace : s.core.mq.length + s.core.mplaces < 16) :
    issueWriter s i f = .next ((s.queueM (s.newMOp i f) f true).verdict .ok) := by
  simp [issueWriter, s.queueFull_eq_false hplace, State.ok_eq]

/-- The operation of an output syllable carries the tail slot that the ring then gives up (R150, R249, R251, R252). -/
theorem issueOutput_eq (s : State) (i : Instr) (f : MF) (bad : Word → Bool) (size : Word → Nat)
    (hplace : s.core.mq.length + s.core.mplaces < 16) (hfault : outputFault s.core f.qa.toNat bad size = none)
    (hpermit : s.permitsOf s.cur.core f.qa.toNat ≠ 0) :
    issueOutput s i f bad size
      = .next ((s.bumpId.putCore ((s.core.pushM { s.newMOp i f with slotA := (s.core.ring f.qa.toNat).tail }).setRing f.qa.toNat
          ((s.core.ring f.qa.toNat).takeTail 1 false))).verdict .ok) := by
  have hany : (s.permitsOf s.cur.core f.qa.toNat == 0) = false := beq_eq_false_iff_ne.2 hpermit
  simp only [issueOutput, s.queueFull_eq_false hplace, hfault, State.asked_none, hany, State.asks_false, State.queueM_reader,
    State.modCore_eq_putCore, State.core_putCore, State.putCore_putCore, Core.ring_pushM, State.ok_eq, Bool.false_eq_true, if_false]

theorem execMgeo_eq (f : MF) (s : State) (hplace : s.core.mq.length + s.core.mplaces < 16) (hok : mgOk (s.src f.x) = true) :
    execMgeo f s = .next (s.putCore { s.core with mg := s.src f.x }).retires := by
  simp [execMgeo, s.queueFull_eq_false hplace, hok, State.retire_eq]

theorem execMgeo_illegal (f : MF) (s : State) (hplace : s.core.mq.length + s.core.mplaces < 16) (hbad : mgOk (s.src f.x) = false) :
    execMgeo f s = .next (s.takePrecise (s.precise cIlleg 0)) := by
  simp [execMgeo, s.queueFull_eq_false hplace, hbad, State.fault_eq]

/-! ### What issue leaves -/

/-- A queued writer: the queue, its tile's watermark, the other tiles, the strand and the counter of operations. -/
theorem State.queueM_writer_effect (s : State) (o : MOp) (f : MF) :
    (s.queueM o f true).core.mq = s.core.mq ++ [o]
    ∧ ((s.queueM o f true).core.acc f.acc.toNat).w = 0
    ∧ (∀ a, a ≠ f.acc.toNat → (s.queueM o f true).core.acc a = s.core.acc a)
    ∧ (s.queueM o f true).strand = s.strand ∧ (s.queueM o f true).nextId = s.nextId + 1 := by
  rw [State.queueM_writer, State.core_putCore]
  refine ⟨rfl, ?_, fun a ha => ?_, State.strand_putCore _ _ rfl, rfl⟩
  · rw [Core.claimAcc, Core.acc_setAcc_same]
  · exact Core.acc_setAcc_ne _ _ ha

/-- An issued output: the queue and the ring that gave its tail slot change; the strand, the other rings, the accumulators and the scratchpad stand. -/
theorem issueOutput_effect (s : State) (i : Instr) (f : MF) (bad : Word → Bool) (size : Word → Nat)
    (hplace : s.core.mq.length + s.core.mplaces < 16) (hfault : outputFault s.core f.qa.toNat bad size = none)
    (hpermit : s.permitsOf s.cur.core f.qa.toNat ≠ 0) :
    ∃ t, issueOutput s i f bad size = .next t ∧ t.cur.verdict = .ok ∧ t.strand = s.strand
      ∧ t.core.mq = s.core.mq ++ [{ s.newMOp i f with slotA := (s.core.ring f.qa.toNat).tail }]
      ∧ t.core.ring f.qa.toNat = (s.core.ring f.qa.toNat).takeTail 1 false
      ∧ (∀ q, q ≠ f.qa.toNat → t.core.ring q = s.core.ring q)
      ∧ (∀ a, t.core.acc a = s.core.acc a) ∧ t.core.spad = s.core.spad := by
  refine ⟨_, issueOutput_eq s i f bad size hplace hfault hpermit, rfl, ?_⟩
  rw [State.strand_verdict, State.core_verdict, State.core_putCore]
  exact ⟨State.strand_putCore _ _ rfl, rfl, Core.ring_setRing_same _ _ _, fun q hq => Core.ring_setRing_ne _ _ hq, fun _ => rfl, rfl⟩

/-- Settles O20: each syllable issues by the rule of its kind (products and `macc`, writers without operands, outputs, `mgeo`), and the two effects say what the queue, the tiles and the rings hold then. -/
theorem matrixInstructionsIssue : Obligations.MatrixInstructionsIssue := by
  refine ⟨fun f s hplace => ⟨?products, ?writers, ?queued⟩, fun f s hplace => ⟨?outputs, ?mgeo, ?mgeoBad⟩⟩
  case products =>
    intro i qs pops hi mask hmem hfault htok
    simp only [List.mem_cons, List.not_mem_nil, or_false, Prod.mk.injEq] at hmem
    rcases hmem with ⟨rfl, rfl, rfl, rfl, rfl⟩ | ⟨rfl, rfl, rfl, rfl, rfl⟩ | ⟨rfl, rfl, rfl, rfl, rfl⟩
    · exact issueProduct_eq s (.mma f) f _ _ _ _ hplace hfault htok
    · exact issueProduct_eq s (.mmas f) f _ _ _ _ hplace hfault htok
    · exact issueProduct_eq s (.macc f) f _ _ _ _ hplace hfault htok
  case writers =>
    intro i hmem
    simp only [List.mem_cons, List.not_mem_nil, or_false] at hmem
    rcases hmem with rfl | rfl
    · exact issueWriter_eq s (.mzero f) f hplace
    · exact issueWriter_eq s (.mscl f) f hplace
  case queued => exact fun i => ⟨rfl, rfl, rfl, rfl, State.queueM_writer_effect s (s.newMOp i f) f⟩
  case outputs =>
    intro i bad size hform hfault hpermit
    rcases hform with ⟨rfl, rfl, rfl⟩ | ⟨rfl, rfl, rfl⟩ | ⟨rfl, rfl, rfl⟩
    · exact issueOutput_effect s (.tquant f) f _ _ hplace hfault hpermit
    · exact issueOutput_effect s (.tcast f) f _ _ hplace hfault hpermit
    · exact issueOutput_effect s (.mchk f) f _ _ hplace hfault hpermit
  case mgeo => exact execMgeo_eq f s hplace
  case mgeoBad => exact execMgeo_illegal f s hplace

end Sys2Proof.Machine
end

section
/-! The C slot's fabric operations at issue: what each does when its checks pass and fewer than 32 of its strand are in progress (R262, R264, R266, R267, R271). -/

namespace Sys2Proof.Machine

open Sys2Proof

/-! ### The local side -/

@[simp] theorem State.takeSide_spad (s : State) (k b off : Nat) (tail : Bool) : s.takeSide (.spad k b off) tail = s := rfl

@[simp] theorem State.coreAt_queueFab (s : State) (o : FabOp) (c : Nat) : (s.queueFab o).coreAt c = s.coreAt c := rfl

@[simp] theorem State.strand_queueFab (s : State) (o : FabOp) : (s.queueFab o).strand = s.strand := rfl

/-- A ring at the local side gives up its head slot as a source, with its permit lent (R152), and its tail slot as a destination (R150). -/
theorem State.takeSide_ring (s : State) (c q sl : Nat) (tail : Bool) :
    s.takeSide (.ring c q sl) tail
      = if tail then s.setCore c ((s.coreAt c).setRing q (((s.coreAt c).ring q).takeTail 1 false)) else s.consume c q 1 false := rfl

/-! ### Issue -/

theorem putGet_eq (s : State) (f : PutF) (kind : FabKind) (peer side : Word) (spaces : List Nat) (writes : Bool) (p : Place)
    (hpeer : s.peerFault peer kind = none) (hspace : spaceIn spaces side = true) (hside : s.sidePlace side = .ok p)
    (hfault : s.sideFault p .none (64 * (f.cnt.toNat + 1)) 0 = none) (hblock : s.sideBlocked p writes = false)
    (hlocal : s.localFault p f.sync = none) (hrange : peerRangeBad peer (64 * (f.cnt.toNat + 1)) 64 = false) (hplace : s.fabFull = false) :
    putGet s f kind peer side spaces writes
      = .next (((s.queueFab (s.newFab kind peer (s.withSlot p writes) (64 * (f.cnt.toNat + 1)) f.notify f.sync)).takeSide
          (s.withSlot p writes) writes).verdict .ok) := by
  simp [putGet, hpeer, hspace, hside, hfault, hblock, hlocal, hrange, hplace, State.ok_eq]

/-- The columns that a pputv reads from its issue on, for the operation of the given number (R264). -/
def State.putvFlight (s : State) (f : PutvF) : Flight :=
  { t := s.strand.ctime, instr := .pputv f, c0 := 0, cols := 2 * 2 ^ f.width.toNat, dcols := 0, lat := 0, s := 0, u := 0, a := 0, b := 0, c := 0,
    em := 0, cm := 0, sc := 0, seen := 0, emFixed := false, block := [], record := [], recBad := false, flags := [], fmt := 0, opId := s.nextId }

theorem execPputv_eq (f : PutvF) (s : State) (hpeer : s.peerFault (s.src f.x) .putv = none) (hsync : s.syncMissing f.sync = false)
    (hrange : peerRangeBad (s.src f.x) (16 * (2 * 2 ^ f.width.toNat)) (16 * (2 * 2 ^ f.width.toNat)) = false) (hplace : s.fabFull = false) :
    execPputv f s
      = .next (((s.queueFab (s.newFab .putv (s.src f.x) .none (16 * (2 * 2 ^ f.width.toNat)) f.notify f.sync)).putStrand
          { s.strand with held := s.strand.held ++ [⟨.vector (s.putvFlight f), false, []⟩] }).verdict .ok) := by
  simp only [execPputv, hpeer, hsync, hrange, hplace, Bool.false_eq_true, if_false, State.strand_queueFab, State.ok_eq]
  rfl

/-- The ring that takes a pamo's return: configured, with a slot's size and format, and a permit that is free (R264). -/
def State.returnReady (s : State) (q : Nat) : Prop :=
  (s.core.ring q).configured = true ∧ ringSizeCode (s.core.ring q).desc ≠ 0
    ∧ bfmtValid (s.core.fmt (ringBank (s.core.ring q).desc)) = true ∧ s.permitsOf s.cur.core q ≠ 0

/-- The operation that a pamo queues (R264, R266, R267). -/
def State.amoOp (s : State) (f : PamoF) : FabOp :=
  { s.newFab .amo (s.src f.x) (if f.ret then .ring s.cur.core f.q.toNat (s.core.ring f.q.toNat).tail else .none) 8 false f.sync with
    wide := f.wide, ret := if f.ret then some f.q.toNat else none, aop := f.aop, v := s.src f.y, c := s.src (f.y + 1) }

theorem State.noPermit_eq_false (s : State) (c q : Nat) (h : s.permitsOf c q ≠ 0) : s.noPermit c q = false := by
  rw [State.noPermit, beq_eq_false_iff_ne.2 h, State.asks_false]

theorem execPamo_eq (f : PamoF) (s : State) (hpeer : s.peerFault (s.src f.x) .amo = none) (hsync : s.syncMissing f.sync = false)
    (hrange : peerRangeBad (s.src f.x) (if f.wide then 8 else 4) (if f.wide then 8 else 4) = false) (hplace : s.fabFull = false)
    (hret : f.ret = true → s.returnReady f.q.toNat) :
    execPamo f s = .next (State.verdict (if f.ret
      then (s.queueFab (s.amoOp f)).setCore s.cur.core (s.core.setRing f.q.toNat ((s.core.ring f.q.toNat).takeTail 1 false))
      else s.queueFab (s.amoOp f)) .ok) := by
  cases hr : f.ret with
  | false =>
    simp only [execPamo, State.amoOp, hpeer, hsync, hrange, hplace, hr, Bool.false_and, Bool.false_eq_true, if_false, State.ok_eq]
  | true =>
    obtain ⟨hconf, hsize, hfmt, hpermit⟩ := hret hr
    simp only [execPamo, State.amoOp, hpeer, hsync, hrange, hplace, hr, hconf, beq_eq_false_iff_ne.2 hsize, hfmt,
      s.noPermit_eq_false _ _ hpermit, State.withSlot, State.takeSide_ring, State.coreAt_queueFab, State.ok_eq, Bool.not_true, Bool.or_self,
      Bool.and_false, Bool.false_eq_true, if_false, if_true]
    rfl

theorem execCsum_eq (f : CopyF) (s : State) (d p : Place) (hx : Word.space (s.src f.x) = 1) (hy : Word.space (s.src f.y) = 1)
    (hd : s.sidePlace (s.src f.x) = .ok d) (hp : s.sidePlace (s.src f.y) = .ok p) (hdrange : rangeBad d 64 = false)
    (hprange : rangeBad p (64 * (f.cnt.toNat + 1)) = false) (hbank : s.placeBad d = false) (hlocal : s.localFault p f.sync = none)
    (hplace : s.fabFull = false) :
    execCsum f s = .next ((s.queueFab (s.newFab .sum (s.src f.x) p (64 * (f.cnt.toNat + 1)) false f.sync)).verdict .ok) := by
  simp [execCsum, hx, hy, hd, hp, hdrange, hprange, hbank, hlocal, hplace, State.ok_eq]

/-- Settles O30: each form issues by its own equation; what a put or a get takes at its local side follows from the kind of the place. -/
theorem fabricOperationsIssue : Obligations.FabricOperationsIssue := by
  intro s hplace
  refine ⟨?putget, ?putv, ?amo, ?csum⟩
  case putget =>
    intro f i kind peer side spaces writes p hform hpeer hspace hside hfault hblock hlocal hrange t ht
    have hexec : exec i s = putGet s f kind peer side spaces writes := by
      simp only [List.mem_cons, List.not_mem_nil, or_false, Prod.mk.injEq] at hform
      rcases hform with ⟨rfl, rfl, rfl, rfl, rfl, rfl⟩ | ⟨rfl, rfl, rfl, rfl, rfl, rfl⟩ <;> rfl
    rw [hexec, putGet_eq s f kind peer side spaces writes p hpeer hspace hside hfault hblock hlocal hrange hplace, ← ht]
    refine ⟨?spad, ?ring⟩
    case spad =>
      rintro k b off rfl
      simp only [State.withSlot, State.takeSide_spad]
    case ring =>
      rintro k q sl rfl
      simp only [State.withSlot, State.takeSide_ring, ht, State.coreAt_queueFab]
  case putv => exact fun f hpeer hsync hrange => ⟨s.putvFlight f, execPputv_eq f s hpeer hsync hrange hplace, rfl, rfl, rfl⟩
  case amo =>
    rintro f hpeer hsync hrange hret o t rfl rfl
    exact execPamo_eq f s hpeer hsync hrange hplace hret
  case csum =>
    intro f d p hx hy hd hp hdrange hprange hbank hlocal
    exact execCsum_eq f s d p hx hy hd hp hdrange hprange hbank hlocal hplace

end Sys2Proof.Machine
end

section
/-! No arm of exec faults the model or is refused: what the shared ways to issue a syllable answer, and from these every row of the table (R257; log 11 for the events that are not enabled). -/

namespace Sys2Proof.Machine

open Sys2Proof

/-! ### The shared ways to end a syllable -/

theorem ite_answers {c : Prop} [Decidable c] {a b : Out State} (ha : ∃ t, a = .next t) (hb : ∃ t, b = .next t) :
    ∃ t, (if c then a else b) = .next t := by
  split
  · exact ha
  · exact hb

theorem State.hold_answers (s : State) (lat : Nat) (ls : List Landing) : ∃ t, s.hold lat ls = .next t := by
  fun_cases State.hold <;> exact ⟨_, rfl⟩

theorem State.result_answers (s : State) (d : R5) (lat : Nat) (v : Word) : ∃ t, s.result d lat v = .next t := State.hold_answers ..

theorem State.divResult_answers (s : State) (d : R5) (unit interval lat : Nat) (v : Word) : ∃ t, s.divResult d unit interval lat v = .next t := by
  fun_cases State.divResult <;> exact ⟨_, rfl⟩

theorem State.startFlight_answers (s : State) (f : Flight) : ∃ t, s.startFlight f = .next t := by
  fun_cases State.startFlight <;> exact ⟨_, rfl⟩

theorem vectorDiv_answers (s : State) (i : Instr) (f : VF) (lat : Nat) : ∃ t, vectorDiv s i f lat = .next t :=
  ite_answers ⟨_, rfl⟩ (State.startFlight_answers ..)

theorem State.targetFails_answers (s : State) (code va : Nat) : ∃ t, s.targetFails code va = .next t := by
  fun_cases State.targetFails <;> exact ⟨_, rfl⟩

theorem State.xlateFault_answers (s : State) (code va : Nat) : ∃ t, s.xlateFault code va = .next t := by
  fun_cases State.xlateFault <;> exact ⟨_, rfl⟩

theorem State.transfer_answers (s : State) (target : Word) (pops : Bool) : ∃ t, s.transfer target pops = .next t := by
  fun_cases State.transfer
  · exact State.targetFails_answers ..
  · exact ⟨_, rfl⟩

/-! ### Accesses and queued operations -/

theorem scalarLoad_answers (f : SI) (size : Nat) (signed : Bool) (s : State) : ∃ t, scalarLoad f size signed s = .next t := by
  fun_cases scalarLoad
  case case6 => exact State.result_answers ..
  case case7 | case8 =>
    split
    · exact State.result_answers ..
    all_goals exact ⟨_, rfl⟩
  all_goals exact ⟨_, rfl⟩

theorem scalarStore_answers (f : SS) (size : Nat) (s : State) : ∃ t, scalarStore f size s = .next t := by
  fun_cases scalarStore
  case case6 | case7 => split <;> exact ⟨_, rfl⟩
  all_goals exact ⟨_, rfl⟩

theorem vectorLoad_answers (s : State) (i : Instr) (f : VF) (kind : Nat) : ∃ t, vectorLoad s i f kind = .next t := by
  fun_cases vectorLoad
  case case4 | case5 => exact State.startFlight_answers ..
  all_goals exact ⟨_, rfl⟩

theorem vectorStore_answers (s : State) (i : Instr) (f : VF) (kind : Nat) : ∃ t, vectorStore s i f kind = .next t := by
  fun_cases vectorStore <;> exact ⟨_, rfl⟩

theorem atomic_answers (f : AtomF) (i : Instr) (s : State) : ∃ t, atomic f i s = .next t := by
  fun_cases atomic
  case case1 => exact State.result_answers ..
  all_goals exact ⟨_, rfl⟩

theorem issueProduct_answers (s : State) (i : Instr) (f : MF) (qs pops : List Nat) (hi : Nat) (mask : Option Nat) :
    ∃ t, issueProduct s i f qs pops hi mask = .next t := by
  fun_cases issueProduct <;> exact ⟨_, rfl⟩

theorem issueWriter_answers (s : State) (i : Instr) (f : MF) : ∃ t, issueWriter s i f = .next t := by
  fun_cases issueWriter <;> exact ⟨_, rfl⟩

theorem issueOutput_answers (s : State) (i : Instr) (f : MF) (bad : Word → Bool) (size : Word → Nat) :
    ∃ t, issueOutput s i f bad size = .next t := by
  fun_cases issueOutput <;> exact ⟨_, rfl⟩

theorem rowCommand_answers (s : State) (i : Instr) (f : MemF) (needSid colByte : Bool) (mk : Pc → Nat → Nat → List TEvent) :
    ∃ t, rowCommand s i f needSid colByte mk = .next t := by
  fun_cases rowCommand <;> exact ⟨_, rfl⟩

theorem readCommand_answers (s : State) (i : Instr) (f : MemF) (transpose : Bool) : ∃ t, readCommand s i f transpose = .next t := by
  fun_cases readCommand <;> exact ⟨_, rfl⟩

theorem copyIssue_answers (s : State) (f : CopyF) (transpose : Bool) (srcs dsts : List Nat) : ∃ t, copyIssue s f transpose srcs dsts = .next t := by
  fun_cases copyIssue
  case case4 | case5 => exact State.xlateFault_answers ..
  all_goals exact ⟨_, rfl⟩

theorem putGet_answers (s : State) (f : PutF) (kind : FabKind) (peer side : Word) (spaces : List Nat) (writes : Bool) :
    ∃ t, putGet s f kind peer side spaces writes = .next t := by
  fun_cases putGet <;> exact ⟨_, rfl⟩

theorem State.pushOwn_answers (s : State) (q n : Nat) : ∃ t, s.pushOwn q n = .next t := by
  fun_cases State.pushOwn <;> exact ⟨_, rfl⟩

theorem State.scrubQueued_answers (s : State) (p : Word) (len : Nat) (sync : BitVec 4) : ∃ t, s.scrubQueued p len sync = .next t := by
  fun_cases State.scrubQueued <;> exact ⟨_, rfl⟩

theorem sealIssue_answers (s : State) (a : R5) (sync : BitVec 4) (isUnseal : Bool) : ∃ t, sealIssue s a sync isUnseal = .next t := by
  fun_cases sealIssue <;> exact ⟨_, rfl⟩

theorem ckIssue_answers (s : State) (x : R5) (sync : BitVec 4) (load : Bool) : ∃ t, ckIssue s x sync load = .next t := by
  fun_cases ckIssue <;> exact ⟨_, rfl⟩

/-! ### Rows with branches of more than one kind, and every row of the table -/

theorem execCall_answers (off : BitVec 24) (s : State) : ∃ t, execCall off s = .next t := by
  fun_cases execCall
  · exact State.targetFails_answers ..
  · exact State.result_answers ..

theorem execRepcWrite_answers (src : R5) (s : State) : ∃ t, execRepcWrite src s = .next t := by
  fun_cases execRepcWrite
  case case3 => exact State.targetFails_answers ..
  all_goals exact ⟨_, rfl⟩

theorem execScrub_answers (a len : R5) (sync : BitVec 4) (s : State) : ∃ t, execScrub a len sync s = .next t := by
  fun_cases execScrub
  case case7 => exact State.scrubQueued_answers ..
  all_goals exact ⟨_, rfl⟩

theorem execQpushRef_answers (x : R5) (n : BitVec 8) (s : State) : ∃ t, execQpushRef x n s = .next t := by
  fun_cases execQpushRef
  case case1 => exact State.pushOwn_answers ..
  all_goals exact ⟨_, rfl⟩

/-- Every row of the table answers a next state: a row that ends in a shared operation answers what that operation does, and every other is followed along the branches of its own meaning. That an event which is not enabled leaves the state is log 11 (DESIGN CHOICE). -/
theorem exec_answers (i : Instr) (s : State) : ∃ t, exec i s = .next t := by
  cases i with
  -- one outcome, a choice of two, and a choice of three; an event that is not enabled leaves the state
  | nop | endStrand | xfence | ifence | cmpd | trap | reset | layerMapOut | channelRetirement | matrixOperationStart | frameAuthFailure
    | peerLost | linkRekey | bridgeFailure | lockstepMismatch | bridgeLaneRepair | systemChannelPatrol => exact ⟨_, rfl⟩
  | rep | repRepetition | phase | cropen | sysw | bwheelWrite | lcWrite | mgWrite | estatWrite | resultLanding | refreshClock
    | rowOpenLimit | withdrawalNotice | withdrawn | logicalChannelMove | systemSliceMove | sliceFillComplete | peerBinding
    | submissionFetchRetry | queueDisable | qconsWrite | coalescingTimeout | governorEvaluation | faultDelivery | scratchpadScrub
    | debugResume | lockInterfaceRequest | startInterfaceRequest | stopInterfaceRequest | ideIntegrityFailure | functionLevelReset
    | spdmSessionLoss | challenge | vfConfigWrite | migrationErase | escrowRelease | drbgReseed | readTelemetry | readRepairInventory
    | stageFirmwareImage | readAgeingRecord | unsupportedRequest | hearthGrant | voltageReplan | replyAcknowledgement
    | lockstepResynchronised => exact ite_answers ⟨_, rfl⟩ ⟨_, rfl⟩
  | mgeo | loop | qwait | vctlWrite | xinvWrite | rowRepair | queueEnable | keyExchange | pwctlWrite | meterBind
    | meterPred => exact ite_answers ⟨_, rfl⟩ (ite_answers ⟨_, rfl⟩ ⟨_, rfl⟩)
  -- the S slot, the V slot and their accesses
  | add | sub | mul | mulh | mulhu | and | or | xor | shl | shr | sra | rotr | min | max | minu | maxu | seq | sne | slt | sltu | sel | clz
    | ctz | popc | mov | padd | addi | andi | ori | xori | shli | shri | srai | rotri | slti | sltui | seqi | ptag | li | lcat | lpc
    | msave | fadd | fsub | fmul | ffma | fmin | fmax | feq | flt | fle | fclass | fcvt | fabs | fneg => exact State.result_answers ..
  | div | divu | rem | remu | fdiv | fsqrt => exact State.divResult_answers ..
  | rng | ctradd | mrest | mcomb | mcm => exact State.hold_answers ..
  | sysr | metr => exact ite_answers ⟨_, rfl⟩ (State.result_answers ..)
  | vadd | vsub | vmul | vfma | vfms | vfnma | vmin | vmax | vabs | vneg | vexp2 | vlog2 | vrcp | vrsqrt | vand | vor | vxor | vshl | vshr
    | vsra | vcmp | vsel | vcvt | vbcst | vmov | vslide | vperm | vscan | vred | vpopc | vdot4 | vclass | vadds | vmuls | vfmas | vmins
    | vmaxs | vminn | vmaxn => exact State.startFlight_answers ..
  | vdiv | vsqrt => exact vectorDiv_answers ..
  | vacr => exact ite_answers ⟨_, rfl⟩ (ite_answers ⟨_, rfl⟩ (State.startFlight_answers ..))
  | vacw => rw [exec_vacw]; fun_cases execVacw <;> exact ⟨_, rfl⟩
  | ldB | ldH | ldW | ldD | ldnB | ldnH | ldnW => exact scalarLoad_answers ..
  | stB | stH | stW | stD => exact scalarStore_answers ..
  | vld | vlds | vldx => exact vectorLoad_answers ..
  | vst | vsts | vstx => exact vectorStore_answers ..
  | aadd | aand | aor | axor | amin | amax | aminu | amaxu | aswp | acas | afadd => exact atomic_answers ..
  -- the M slot, main memory, copies, rings and the fabric
  | mma | mmas | macc => exact issueProduct_answers ..
  | mzero | mscl => exact issueWriter_answers ..
  | tquant | tcast | mchk => exact issueOutput_answers ..
  | mact | mpre | mprea | mref | mrefa | mnop =>
    simp only [exec_mact, exec_mpre, exec_mprea, exec_mref, exec_mrefa, exec_mnop, execMpre]
    exact rowCommand_answers ..
  | mrd | mrdt => exact readCommand_answers ..
  | mwr => rw [exec_mwr]; fun_cases execMwr <;> exact ⟨_, rfl⟩
  | xcpy | xcpyt => exact copyIssue_answers ..
  | xfill => rw [exec_xfill]; fun_cases execXfill <;> exact ⟨_, rfl⟩
  | tscale => rw [exec_tscale]; fun_cases execTscale <;> exact ⟨_, rfl⟩
  | qcfg => rw [exec_qcfg]; fun_cases execQcfg <;> exact ⟨_, rfl⟩
  | qpush | qarv => exact State.pushOwn_answers ..
  | qpushRef => exact execQpushRef_answers ..
  | qpop => rw [exec_qpop]; fun_cases execQpop <;> exact ⟨_, rfl⟩
  | swset => rw [exec_swset]; fun_cases execSwset <;> exact ⟨_, rfl⟩
  | pput | pget => exact putGet_answers ..
  | pputv => rw [exec_pputv]; fun_cases execPputv <;> exact ⟨_, rfl⟩
  | pamo => rw [exec_pamo]; fun_cases execPamo <;> exact ⟨_, rfl⟩
  | csum => rw [exec_csum]; fun_cases execCsum <;> exact ⟨_, rfl⟩
  | cksave | ckload => exact ckIssue_answers ..
  -- the X slot
  | br | ret | jmp => exact State.transfer_answers ..
  | brz | brcm => exact ite_answers (State.transfer_answers ..) ⟨_, rfl⟩
  | brnz => exact ite_answers ⟨_, rfl⟩ (State.transfer_answers ..)
  | call => exact execCall_answers ..
  | repcWrite => exact execRepcWrite_answers ..
  | swwait => rw [exec_swwait]; fun_cases execSwwait <;> exact ⟨_, rfl⟩
  | crclose => rw [exec_crclose]; fun_cases execCrclose <;> exact ⟨_, rfl⟩
  | brk => rw [exec_brk]; fun_cases execBrk <;> exact ⟨_, rfl⟩
  | syncRegisterWrite => rw [exec_syncRegisterWrite]; fun_cases execSyncRegisterWrite <;> exact ⟨_, rfl⟩
  | scrub => exact execScrub_answers ..
  | krot => rw [exec_krot]; fun_cases execKrot <;> exact ⟨_, rfl⟩
  | mets => rw [exec_mets]; fun_cases execMets <;> exact ⟨_, rfl⟩
  -- events of more outcomes
  | atomicPerform => rw [exec_atomicPerform]; fun_cases execAtomicPerform <;> exact ⟨_, rfl⟩
  | commandPlay => rw [exec_commandPlay]; fun_cases execCommandPlay <;> exact ⟨_, rfl⟩
  | grainLanding => rw [exec_grainLanding]; fun_cases execGrainLanding <;> exact ⟨_, rfl⟩
  | lineVerdict => rw [exec_lineVerdict]; fun_cases execLineVerdict <;> exact ⟨_, rfl⟩
  | lineCommit => rw [exec_lineCommit]; fun_cases execLineCommit <;> exact ⟨_, rfl⟩
  | syncCount => rw [exec_syncCount]; fun_cases execSyncCount <;> exact ⟨_, rfl⟩
  | copyComplete => rw [exec_copyComplete]; fun_cases execCopyComplete <;> exact ⟨_, rfl⟩
  | matrixOperationRetire => rw [exec_matrixOperationRetire]; fun_cases execMatrixOperationRetire <;> exact ⟨_, rfl⟩
  | putRequest => rw [exec_putRequest]; fun_cases execPutRequest <;> exact ⟨_, rfl⟩
  | getRequest => rw [exec_getRequest]; fun_cases execGetRequest <;> exact ⟨_, rfl⟩
  | pamoRequest => rw [exec_pamoRequest]; fun_cases execPamoRequest <;> exact ⟨_, rfl⟩
  | putAcknowledgement => rw [exec_putAcknowledgement]; fun_cases execPutAcknowledgement <;> exact ⟨_, rfl⟩
  | getDataArrival => rw [exec_getDataArrival]; fun_cases execGetDataArrival <;> exact ⟨_, rfl⟩
  | pamoReply => rw [exec_pamoReply]; fun_cases execPamoReply <;> exact ⟨_, rfl⟩
  | csumResult => rw [exec_csumResult]; fun_cases execCsumResult <;> exact ⟨_, rfl⟩
  | retryResend => rw [exec_retryResend]; fun_cases execRetryResend <;> exact ⟨_, rfl⟩
  | qnotifyWrite => rw [exec_qnotifyWrite]; fun_cases execQnotifyWrite <;> exact ⟨_, rfl⟩
  | workgroupStart => rw [exec_workgroupStart]; fun_cases execWorkgroupStart <;> exact ⟨_, rfl⟩
  | strandFinish => rw [exec_strandFinish]; fun_cases execStrandFinish <;> exact ⟨_, rfl⟩
  | launchComplete => rw [exec_launchComplete]; fun_cases execLaunchComplete <;> exact ⟨_, rfl⟩
  | allowanceExhausted => rw [exec_allowanceExhausted]; fun_cases execAllowanceExhausted <;> exact ⟨_, rfl⟩
  | waitLimitSwitch => rw [exec_waitLimitSwitch]; fun_cases execWaitLimitSwitch <;> exact ⟨_, rfl⟩
  | clusterMove => rw [exec_clusterMove]; fun_cases execClusterMove <;> exact ⟨_, rfl⟩
  | phaseBoundary => rw [exec_phaseBoundary]; fun_cases execPhaseBoundary <;> exact ⟨_, rfl⟩
  | sealNoticeEnd => rw [exec_sealNoticeEnd]; fun_cases execSealNoticeEnd <;> exact ⟨_, rfl⟩
  | sealStopped => rw [exec_sealStopped]; fun_cases execSealStopped <;> exact ⟨_, rfl⟩
  | sealDrainComplete => rw [exec_sealDrainComplete]; fun_cases execSealDrainComplete <;> exact ⟨_, rfl⟩
  | sealImageCommitted => rw [exec_sealImageCommitted]; fun_cases execSealImageCommitted <;> exact ⟨_, rfl⟩
  | unsealPlacement => rw [exec_unsealPlacement]; fun_cases execUnsealPlacement <;> exact ⟨_, rfl⟩
  | restorePoint => rw [exec_restorePoint]; fun_cases execRestorePoint <;> exact ⟨_, rfl⟩
  | krotComplete => rw [exec_krotComplete]; fun_cases execKrotComplete <;> exact ⟨_, rfl⟩
  | meterStatementSigned => rw [exec_meterStatementSigned]; fun_cases execMeterStatementSigned <;> exact ⟨_, rfl⟩
  | cksaveComplete => rw [exec_cksaveComplete]; fun_cases execCksaveComplete <;> exact ⟨_, rfl⟩
  | ckloadComplete => rw [exec_ckloadComplete]; fun_cases execCkloadComplete <;> exact ⟨_, rfl⟩
  | getMeasurements => rw [exec_getMeasurements]; fun_cases execGetMeasurements <;> exact ⟨_, rfl⟩
  | frozenRegisterWrite => rw [exec_frozenRegisterWrite]; fun_cases execFrozenRegisterWrite <;> exact ⟨_, rfl⟩
  | meterUnbind => rw [exec_meterUnbind]; fun_cases execMeterUnbind <;> exact ⟨_, rfl⟩
  | migrationQuiesce => rw [exec_migrationQuiesce]; fun_cases execMigrationQuiesce <;> exact ⟨_, rfl⟩
  | migrationArm => rw [exec_migrationArm]; fun_cases execMigrationArm <;> exact ⟨_, rfl⟩
  | migrationConfirm => rw [exec_migrationConfirm]; fun_cases execMigrationConfirm <;> exact ⟨_, rfl⟩
  | migrationAbort => rw [exec_migrationAbort]; fun_cases execMigrationAbort <;> exact ⟨_, rfl⟩
  | armedTimeout => rw [exec_armedTimeout]; fun_cases execArmedTimeout <;> exact ⟨_, rfl⟩
  | bar2Access => rw [exec_bar2Access]; fun_cases execBar2Access <;> exact ⟨_, rfl⟩
  | remoteTokenArrival => rw [exec_remoteTokenArrival]; fun_cases execRemoteTokenArrival <;> exact ⟨_, rfl⟩
  -- what is left: `seal` and `unseal`, whose names are keywords of Lean and cannot stand as alternatives here
  | _ => exact sealIssue_answers ..

/-! ### The step -/

theorem step_of_stopped (s : State) (h : s.stopped = true) : step s = .fault .packageStopped := by
  rw [step, if_pos h]

theorem step_of_running (s : State) (h : s.stopped = false) : step s = .next s.takeTurn := by
  rw [step, h]
  rfl

/-- Settles O57: no arm of the dispatch faults or is refused, and the step looks only at whether the package has stopped. -/
theorem onlyAStoppedPackageFaults : Obligations.OnlyAStoppedPackageFaults :=
  ⟨exec_answers, fun s => ⟨step_of_stopped s, fun h => ⟨s.takeTurn, step_of_running s h⟩⟩⟩

end Sys2Proof.Machine
end

section
/-! The events of a queue's registers, fetches and completion: what each does when its conditions hold (R282, R283, R285, R286, R293, R294). -/

namespace Sys2Proof.Machine

open Sys2Proof

/-! ### A queue after an update -/

@[simp] theorem State.queueAt_setQueue_same (s : State) (world q : Nat) (x : Queue) : (s.setQueue world q x).queueAt world q = x := by
  simp [State.queueAt, World.queue, State.setQueue, State.modWorld]

@[simp] theorem State.setQueue_setQueue (s : State) (world q : Nat) (x y : Queue) :
    (s.setQueue world q x).setQueue world q y = s.setQueue world q y := by
  simp [State.setQueue, State.modWorld]

/-- The state with another content of the host's memory. -/
def State.withHost (s : State) (m : Memory) : State := { s with host := m }

theorem State.queueAt_withHost (s : State) (m : Memory) (world q : Nat) : (s.withHost m).queueAt world q = s.queueAt world q := rfl

/-- With no record held, none is written and the queue stands (R293). -/
theorem State.flushRecords_none {s : State} {world q : Nat} {x : Queue} (hx : s.queueAt world q = x) (hheld : x.heldRecords = []) :
    (s.flushRecords world q x.heldRecords).queueAt world q = x ∧ (s.flushRecords world q x.heldRecords).host = s.host := by
  rw [hheld, State.flushRecords, State.queueAt_setQueue_same, hx, ← hheld]
  exact ⟨rfl, rfl⟩

/-- A stop for another cause than QORDER posts no record (R286). -/
theorem State.stopQueue_badnotify (s : State) (world q : Nat) :
    s.stopQueue world q causeBadnotify
      = s.setQueue world q { s.queueAt world q with faulted := true, cause := causeBadnotify, tries := 0 } := rfl

/-! ### QNOTIFY -/

/-- A write of QNOTIFY to a queue that is enabled and has not stopped: the register takes `top`, and the branches that follow (R285). -/
theorem execQnotifyWrite_eq {s : State} {world q n top : Nat} {x : Queue} (hx : x = s.queueAt world q) (hq : q < 8)
    (hbar : s.barOpen world = true) (hen : x.en = true) (hfault : x.faulted = false) (htop : top = max x.qnotify (n % 2 ^ 64)) :
    execQnotifyWrite world q n s = .next
      (if s.queueRuns world q = false then s.setQueue world q { x with qnotify := top }
      else if x.qnext + 2 ^ x.sublog ≤ top then
        s.setQueue world q { x with qnotify := top, faulted := true, cause := causeBadnotify, tries := 0 }
      else if x.tries = 0 then (s.setQueue world q { x with qnotify := top }).fetchAll world q
      else s.setQueue world q { x with qnotify := top }) := by
  have htop' : Nat.max x.qnotify (n % 2 ^ 64) = top := htop.symm
  have hgate : (!(s.barOpen world && decide (q < 8) && x.en && !x.faulted)) = false := by simp [hbar, hq, hen, hfault]
  simp only [execQnotifyWrite, ← hx, htop', hgate, Bool.false_eq_true, if_false, State.stopQueue_badnotify, State.queueAt_setQueue_same,
    State.setQueue_setQueue, apply_ite Host.Outcome.next]
  cases s.queueRuns world q <;> simp

/-! ### QCONS, QCFG -/

theorem execQconsWrite_eq {s : State} {world q : Nat} {x : Queue} (hx : x = s.queueAt world q) (hq : q < 8) (hbar : s.barOpen world = true)
    (hhost : s.hostOpen world = true) (n : Nat) :
    execQconsWrite world q n s
      = .next ((s.setQueue world q { x with qcons := n % 2 ^ 64 }).flushRecords world q x.heldRecords) := by
  simp [execQconsWrite, hbar, hq, hhost, hx]

/-- The queue that a write of QCFG leaves where it enables it (R283). -/
def Queue.started (y : Queue) : Queue := { y with faulted := false, cause := 0, tries := 0, qnotify := 0, word := 0, pending := 0 }

section
variable {s : State} {world q : Nat} {v : Word} {x y : Queue} (hx : x = s.queueAt world q)
  (hy : y = { x with qcfg := (v &&& qcfgMask) ||| 0x8000000000000000 }) (hq : q < 8) (hopen : s.cfgOpen world = true)
  (hoff : x.en = false)
include hx hy hq hopen hoff

theorem execQueueEnable_started (hok : y.cfgOk = true) (hheld : y.started.heldRecords = []) (hhost : s.hostOpen world = true) :
    ∃ t, execQueueEnable world q v s = .next t ∧ t.queueAt world q = y.started
      ∧ t.host = Memory.writeN s.host x.qcwa.toNat (leBytes 8 0) := by
  have hset := (State.queueAt_withHost _ (Memory.writeN s.host x.qcwa.toNat (leBytes 8 0)) world q).trans
    (s.queueAt_setQueue_same world q y.started)
  refine ⟨_, ?_, State.flushRecords_none hset hheld⟩
  subst hx hy
  have hgate : ¬((!(s.cfgOpen world && decide (q < 8)) || (s.queueAt world q).en) = true) := by simp [hopen, hq, hoff]
  rw [execQueueEnable, hhost]
  dsimp only
  rw [if_neg hgate, if_pos hok]
  rfl

theorem execQueueEnable_badcfg (hbad : y.cfgOk = false) :
    execQueueEnable world q v s
      = .next (s.setQueue world q { x with qcfg := v &&& qcfgMask &&& 0x7FFFFFFFFFFFFFFF, cause := causeBadcfg }) := by
  subst hx hy
  have hgate : ¬((!(s.cfgOpen world && decide (q < 8)) || (s.queueAt world q).en) = true) := by simp [hopen, hq, hoff]
  rw [execQueueEnable]
  dsimp only
  rw [if_neg hgate, if_neg (by rw [hbad]; exact Bool.false_ne_true)]

end

theorem execQueueDisable_eq {s : State} {world q : Nat} {x : Queue} (hx : x = s.queueAt world q) (hq : q < 8)
    (hopen : s.cfgOpen world = true) :
    execQueueDisable world q s = .next (s.setQueue world q { x with qcfg := x.qcfg &&& 0x7FFFFFFFFFFFFFFF, tries := 0 }) := by
  simp [execQueueDisable, hopen, hq, hx]

/-! ### Fetching again, and the timeout of a prompt queue -/

theorem execSubmissionFetchRetry_due {s : State} {world q : Nat} {x : Queue} (hx : x = s.queueAt world q) (htries : x.tries ≠ 0)
    (hdue : x.retryAt ≤ s.ns) (hen : x.en = true) (hfault : x.faulted = false) :
    execSubmissionFetchRetry world q s = .next (s.fetchAll world q) := by
  subst hx
  simp [execSubmissionFetchRetry, htries, hdue, hen, hfault]

/-- A fetch whose entry does not fit: it is to be made again, or the queue stops where it was made again sixteen times (R285). -/
theorem State.fetchAll_unfit {s : State} {world q : Nat} {x : Queue} (hx : x = s.queueAt world q) (hen : x.en = true)
    (hfault : x.faulted = false) (hruns : s.queueRuns world q = true) (hdue : x.qnext ≤ x.qnotify) (hentry : s.entryOf world q = none) :
    s.fetchAll world q
      = if x.tries = 16 then (s.sysChecked world x.entryAt 16).stopQueue world q causeQorder
        else (s.sysChecked world x.entryAt 16).setQueue world q { x with tries := x.tries + 1, retryAt := s.ns + 1000 } := by
  subst hx
  have hfuel : (s.queueAt world q).qnotify + 1 - (s.queueAt world q).qnext
      = (s.queueAt world q).qnotify - (s.queueAt world q).qnext + 1 := by omega
  simp [State.fetchAll, hfuel, State.fetchQueue, hen, hfault, hruns, Nat.not_lt.2 hdue, hentry]

theorem execCoalescingTimeout_due {s : State} {world q : Nat} {x : Queue} (hx : x = s.queueAt world q) (hprompt : x.prompt = true)
    (hpend : x.pending ≠ 0) (hdue : x.firstPending + x.cwin * 1000 ≤ s.ns) (hhost : s.hostOpen world = true) :
    execCoalescingTimeout world q s = .next ((s.setQueue world q { x with pending := 0 }).interrupt world x.vec) := by
  subst hx
  simp [execCoalescingTimeout, hprompt, hpend, hdue, hhost]

/-- Settles O50: each event of a queue by its own equation; a list of no held records leaves the queue as the event has set it. -/
theorem queueEventsComplete : Obligations.QueueEventsComplete := by
  intro s world q x hx hq
  refine ⟨fun hbar => ⟨?idle, ?tooFar, ?fetches, ?cons⟩, fun hopen => ⟨fun v hoff => ⟨?started, ?badcfg⟩, ?disable⟩, ?retry, ?unfit, ?timeout⟩
  case idle =>
    intro n hen hfault hidle
    rw [exec_qnotifyWrite, execQnotifyWrite_eq hx hq hbar hen hfault rfl, if_pos hidle]
  case tooFar =>
    intro n hen hfault hruns hfar
    rw [exec_qnotifyWrite, execQnotifyWrite_eq hx hq hbar hen hfault rfl, if_neg (by simp [hruns]), if_pos hfar]
  case fetches =>
    rintro n t hen hfault hruns hnear rfl
    rw [exec_qnotifyWrite, execQnotifyWrite_eq hx hq hbar hen hfault rfl, if_neg (by simp [hruns]), if_neg (Nat.not_le.2 hnear)]
  case cons =>
    intro n hheld hhost
    exact ⟨_, execQconsWrite_eq hx hq hbar hhost n, State.flushRecords_none (s.queueAt_setQueue_same world q _) hheld⟩
  case started =>
    intro hok hheld hhost
    obtain ⟨t, hexec, hqueue, hmem⟩ := execQueueEnable_started hx rfl hq hopen hoff hok hheld hhost
    refine ⟨t, hexec, hqueue, fun j hj => ?_⟩
    rw [hmem, Memory.read_writeN_leBytes _ _ _ _ _ hj, Nat.zero_div]
    rfl
  case badcfg => exact execQueueEnable_badcfg hx rfl hq hopen hoff
  case disable => exact execQueueDisable_eq hx hq hopen
  case retry => exact execSubmissionFetchRetry_due hx
  case unfit =>
    intro htries hdue hen hfault hruns hnext hentry
    rw [exec_submissionFetchRetry, execSubmissionFetchRetry_due hx htries hdue hen hfault,
      State.fetchAll_unfit hx hen hfault hruns hnext hentry]
    exact ⟨fun hlt => by rw [if_neg (Nat.ne_of_lt hlt)], fun heq => by rw [if_pos heq]⟩
  case timeout =>
    intro hprompt hpend hdue hhost
    exact ⟨_, execCoalescingTimeout_due hx hprompt hpend hdue hhost, rfl, State.queueAt_setQueue_same ..⟩

end Sys2Proof.Machine
end

section
/-! Starts and ends of launches: what the cores of a starting workgroup hold, which launch an event names, and what a completion and a spent allowance leave (R287 to R291, R295 to R298, R318). -/

namespace Sys2Proof.Machine

open Sys2Proof

/-! ### A core at the start of a workgroup (R296, R297) -/

/-- A write of the scratchpad leaves the core's workgroup and rank. -/
theorem Core.writeSpad_seat (k : Core) (world a : Nat) (bs : List Byte) :
    (k.writeSpad world a bs).wg = k.wg ∧ (k.writeSpad world a bs).rank = k.rank := by
  have hfrom : ∀ (fuel : Nat) (k : Core) (a : Nat) (bs : List Byte),
      (k.writeSpadFrom world (fun _ => false) fuel a bs).wg = k.wg ∧ (k.writeSpadFrom world (fun _ => false) fuel a bs).rank = k.rank := by
    intro fuel
    induction fuel with
    | zero => exact fun _ _ _ => ⟨rfl, rfl⟩
    | succ fuel ih =>
      intro k a bs
      cases bs with
      | nil => exact ⟨rfl, rfl⟩
      | cons b bs => exact ih (k.writeLine world (a / 64) (a % 64) ((b :: bs).take (64 - a % 64)) false) _ _
  exact hfrom _ k a bs

/-- Set-up records leave the core's workgroup and rank. -/
theorem applySetup_seat (k : Core) (rs : List (Nat × Nat × Word)) : (applySetup k rs).wg = k.wg ∧ (applySetup k rs).rank = k.rank := by
  refine List.foldlRecOn (motive := fun c : Core => c.wg = k.wg ∧ c.rank = k.rank) rs _ ⟨rfl, rfl⟩ fun c hc r _ => ?_
  -- a format, a wheel, a ring, and a record of another kind
  split
  · exact hc
  · split
    · exact hc
    · split <;> exact hc

theorem Launch.core_seat (l : Launch) (k : Core) (wg index rank : Nat) :
    (l.core k wg index rank).wg = some wg ∧ (l.core k wg index rank).rank = rank := by
  refine List.foldlRecOn (motive := fun c : Core => c.wg = some wg ∧ c.rank = rank) (l.setup.filter fun r => r.1 == 4) _
    (applySetup_seat { k.startReset with wg := some wg, rank := rank } l.setup) fun c hc r _ => ?_
  obtain ⟨hwg, hrank⟩ := c.writeSpad_seat l.world (syncAddr r.2.2) (leBytes 4 (Word.field r.2.2 32 32) ++ List.replicate 12 0)
  exact ⟨hwg.trans hc.1, hrank.trans hc.2⟩

theorem SMap.get_map_mem {α : Type} (f : Nat → α) (d : α) {i : Nat} {ts : List Nat} (h : i ∈ ts) :
    SMap.get (ts.map fun t => (t, f t)) d i = f i := by
  induction ts with
  | nil => exact absurd h List.not_mem_nil
  | cons t ts ih =>
    rw [SMap.get] at ih ⊢
    rw [List.map_cons, SMap.find]
    split
    · next e => rw [e]; rfl
    · next e => exact ih ((List.mem_cons.1 h).resolve_left (Ne.symm e))

theorem Launch.strandAt_core (l : Launch) (k : Core) (wg index rank : Nat) {i : Nat} (hi : i < l.strands) :
    (l.core k wg index rank).strandAt i = l.strand index rank i :=
  SMap.get_map_mem (l.strand index rank) Strand.reset (List.mem_range.2 hi)

/-! ### The cores of a starting workgroup -/

/-- Give a core to a starting workgroup, with its rank. -/
def Launch.seat (l : Launch) (wg index : Nat) (s : State) (p : Nat × Nat) : State := s.setCore p.1 (l.core (s.coreAt p.1) wg index p.2)

theorem Launch.wgs_seats (l : Launch) (wg index : Nat) (ps : List (Nat × Nat)) (s : State) :
    (ps.foldl (l.seat wg index) s).wgs = s.wgs :=
  List.foldlRecOn (motive := fun t : State => t.wgs = s.wgs) ps _ rfl fun _ ht _ _ => ht

theorem Launch.coreAt_seats_other (l : Launch) (wg index : Nat) (ps : List (Nat × Nat)) (s : State) {c : Nat}
    (h : ∀ p ∈ ps, c ≠ p.1) : (ps.foldl (l.seat wg index) s).coreAt c = s.coreAt c :=
  List.foldlRecOn (motive := fun t : State => t.coreAt c = s.coreAt c) ps _ rfl
    fun t ht p hp => (t.coreAt_setCore_ne _ (h p hp)).trans ht

/-- Cores that are all different get their ranks in order. -/
theorem Launch.coreAt_seats (l : Launch) (wg index : Nat) {cores : List Nat} (hnd : cores.Nodup) (s : State) (n : Nat) {rank c : Nat}
    (hc : cores[rank]? = some c) :
    ((cores.zipIdx n).foldl (l.seat wg index) s).coreAt c = l.core (s.coreAt c) wg index (n + rank) := by
  induction cores generalizing s n rank with
  | nil => exact absurd hc (by simp)
  | cons d cores ih =>
    obtain ⟨hd, hnd⟩ := List.nodup_cons.1 hnd
    rw [List.zipIdx_cons, List.foldl_cons]
    cases rank with
    | zero =>
      obtain rfl : d = c := by simpa using hc
      rw [Launch.coreAt_seats_other]
      · exact s.coreAt_setCore_same d _
      · rintro p hp rfl
        exact hd (List.fst_mem_of_mem_zipIdx hp)
    | succ rank =>
      have hmem : cores[rank]? = some c := by simpa using hc
      have hne : c ≠ d := fun e => hd (e ▸ List.mem_of_getElem? hmem)
      rw [ih hnd _ _ hmem, Launch.seat, s.coreAt_setCore_ne _ hne, Nat.add_assoc, Nat.add_comm 1]

/-! ### The start (R296) -/

/-- The grants of a window are made in the pseudo-channels (R54). -/
theorem State.grantAll_frame (s : State) (wg world : Nat) (chans : List Chan) :
    (s.grantAll wg world chans).wgs = s.wgs ∧ (s.grantAll wg world chans).cores = s.cores := by
  refine List.foldlRecOn (motive := fun t : State => t.wgs = s.wgs ∧ t.cores = s.cores) chans _ ⟨rfl, rfl⟩ fun t ht ch _ => ?_
  split <;> exact ht

/-- The workgroup that a start adds (R296). -/
def State.newWg (s : State) (l : Launch) (cluster : Nat) (cores : List Nat) : Workgroup :=
  { id := s.nextId, launch := l.id, world := l.world, queue := l.queue, seq := l.seq, index := l.next, cluster := cluster, cores := cores,
    strands := l.strands, mprof := l.mprof, state := .running, boundary := 0, window := s.windowOf l, remap := false,
    view := (s.worldAt l.world).live, stale := false, meterGrains := 0, started := s.ns }

/-- The state in which the cores of a starting workgroup are seated. -/
def State.seated (s : State) (l : Launch) (cluster : Nat) (cores : List Nat) : State :=
  cores.zipIdx.foldl (l.seat s.nextId l.next) { s.bumpId with wgs := s.wgs ++ [s.newWg l cluster cores] }

/-- The last updates of a start are of the launch and of its world. -/
theorem State.modLaunch_modWorld_frame (s : State) (id w : Nat) (f : Launch → Launch) (g : World → World) :
    ((s.modLaunch id f).modWorld w g).wgs = s.wgs ∧ ((s.modLaunch id f).modWorld w g).cores = s.cores := ⟨rfl, rfl⟩

/-- A start leaves the workgroups and the cores as the seating has set them. -/
theorem State.startWg_frame (s : State) (l : Launch) (cluster : Nat) (cores : List Nat) :
    (s.startWg l cluster cores).wgs = (s.seated l cluster cores).wgs
      ∧ (s.startWg l cluster cores).cores = (s.seated l cluster cores).cores := by
  obtain ⟨hwgs, hcores⟩ := (s.seated l cluster cores).grantAll_frame s.nextId l.world (s.windowOf l)
  unfold State.startWg
  dsimp only
  rw [(State.modLaunch_modWorld_frame ..).1, (State.modLaunch_modWorld_frame ..).2]
  exact ⟨hwgs, hcores⟩

theorem State.startWg_wgs (s : State) (l : Launch) (cluster : Nat) (cores : List Nat) :
    (s.startWg l cluster cores).wgs = s.wgs ++ [s.newWg l cluster cores] :=
  (s.startWg_frame l cluster cores).1.trans (l.wgs_seats ..)

theorem State.coreAt_startWg (s : State) (l : Launch) (cluster : Nat) {cores : List Nat} (hnd : cores.Nodup) {rank c : Nat}
    (hc : cores[rank]? = some c) :
    (s.startWg l cluster cores).coreAt c = l.core (s.coreAt c) s.nextId l.next rank := by
  have hseat := l.coreAt_seats s.nextId l.next hnd { s.bumpId with wgs := s.wgs ++ [s.newWg l cluster cores] } 0 hc
  rw [Nat.zero_add] at hseat
  rw [State.coreAt, (s.startWg_frame l cluster cores).2]
  exact hseat

/-- Cores without lasting lines need no spares (R346). -/
theorem State.spareAll_none (s : State) (cores : List Nat) (h : ∀ c ∈ cores, s.lastingLines c = []) : s.spareAll cores = s := by
  refine List.foldlRecOn (motive := fun t : State => t = s) cores _ rfl fun t ht c hc => ?_
  rw [ht, h c hc, List.foldl_nil]

theorem execWorkgroupStart_starts {s : State} {world k : Nat} {l : Launch} {cores : List Nat} (hruns : s.worldRuns world = true)
    (hnext : s.nextStart world = some (l, k)) (hcores : cores = (s.freeRanks (s.worldAt world) k).take l.cores)
    (hlasting : ∀ c ∈ cores, s.lastingLines c = []) (hfenced : ∀ c ∈ cores, s.fenced.contains c = false) :
    execWorkgroupStart world s = .next (s.startWg l k cores) := by
  have hany : cores.any s.fenced.contains = false := List.any_eq_false.2 fun c hc => by rw [hfenced c hc]; exact Bool.false_ne_true
  simp only [execWorkgroupStart, hruns, hnext, ← hcores, s.spareAll_none cores hlasting, hany, Bool.not_true, Bool.false_eq_true, if_false]

/-! ### The launch that an event names -/

theorem State.launchWith_some {s : State} {world q seq : Nat} {p : Launch → Bool} {l : Launch} (h : s.launchWith world q seq p = some l) :
    l ∈ s.launches ∧ l.world = world ∧ l.queue = q ∧ l.seq = seq ∧ p l = true := by
  have hp := List.find?_some h
  simp only [Bool.and_eq_true, beq_iff_eq] at hp
  obtain ⟨⟨⟨hworld, hqueue⟩, hseq⟩, hp⟩ := hp
  exact ⟨List.mem_of_find?_eq_some h, hworld, hqueue, hseq, hp⟩

theorem State.launchWith_isSome {s : State} {p : Launch → Bool} {l : Launch} (hmem : l ∈ s.launches) (hp : p l = true) :
    (s.launchWith l.world l.queue l.seq p).isSome = true :=
  List.find?_isSome.2 ⟨l, hmem, by simp [hp]⟩

theorem State.launchOver_iff (s : State) (l : Launch) :
    s.launchOver l = true ↔ l.ended = l.next ∧ (l.next = l.grid ∨ (s.domainStopped l).isSome = true ∨ l.spent = true) := by
  simp [State.launchOver, or_assoc]

theorem Launch.spent_iff (l : Launch) : l.spent = true ↔ l.budget = true ∨ (l.allowance ≠ 0 ∧ l.allowance * 1000 ≤ l.charge) := by
  simp [Launch.spent]

/-! ### Completion (R290, R291) -/

@[simp] theorem State.postRecord_launches (s : State) (world q : Nat) (bs : List Byte) : (s.postRecord world q bs).launches = s.launches := by
  fun_cases State.postRecord <;> rfl

@[simp] theorem State.flushRecords_launches (s : State) (world q : Nat) (rs : List (List Byte)) :
    (s.flushRecords world q rs).launches = s.launches := by
  induction rs generalizing s with
  | nil => rfl
  | cons r rs ih =>
    rw [State.flushRecords]
    split
    · rfl
    · rw [ih, State.postRecord_launches]

@[simp] theorem State.addRecord_launches (s : State) (world q : Nat) (bs : List Byte) : (s.addRecord world q bs).launches = s.launches := by
  unfold State.addRecord
  split
  · rfl
  · exact State.flushRecords_launches ..

theorem State.completeLaunch_launches (s : State) (l : Launch) (measure : List Byte) :
    (s.completeLaunch l measure).launches = s.launches.filter fun x => x.id != l.id := State.addRecord_launches ..

/-- Settles O51: the seated cores say how each strand starts; the launch that an event names is the first in the list to which it applies. -/
theorem workgroupsStartAndLaunchesComplete : Obligations.WorkgroupsStartAndLaunchesComplete := by
  intro s world
  refine ⟨?starts, ?completes, ?named, ?allowance, ?exhausted⟩
  case starts =>
    intro l k cores hruns hnext hcores hnd hworld hlasting hfenced
    refine ⟨_, s.newWg l k cores, execWorkgroupStart_starts hruns hnext hcores hlasting hfenced, s.startWg_wgs l k cores,
      rfl, hworld, rfl, rfl, rfl, rfl, rfl, by rw [← hworld]; rfl, fun rank c hc i hi => ?_⟩
    rw [State.strandAt, s.coreAt_startWg l k hnd hc, l.strandAt_core _ _ _ _ hi]
    obtain ⟨hwg, hrank⟩ := l.core_seat (s.coreAt c) s.nextId l.next rank
    exact ⟨hwg, hrank, _, rfl, rfl, rfl, hworld, rfl, rfl, rfl, rfl⟩
  case completes =>
    intro q seq l hl
    obtain ⟨-, hworld, hqueue, hseq, hover⟩ := State.launchWith_some hl
    obtain ⟨hended, hwhy⟩ := (s.launchOver_iff l).1 hover
    refine ⟨hended, hwhy, hworld, hqueue, hseq, ?_, s.completeLaunch_launches l _⟩
    rw [exec_launchComplete, execLaunchComplete, hl]
  case named =>
    rintro _ _ l hmem rfl rfl rfl hended hwhy
    obtain ⟨first, hfirst⟩ := Option.isSome_iff_exists.1 (State.launchWith_isSome hmem ((s.launchOver_iff l).2 ⟨hended, hwhy⟩))
    obtain ⟨hin, hworld, hqueue, hseq, -⟩ := State.launchWith_some hfirst
    exact ⟨first, hin, hfirst, fun hone => hone first hin hworld hqueue hseq⟩
  case allowance =>
    intro q seq l hl
    obtain ⟨-, -, -, -, hp⟩ := State.launchWith_some hl
    refine ⟨l.spent_iff.1 (Bool.and_eq_true_iff.1 hp).1, ?_⟩
    rw [exec_allowanceExhausted, execAllowanceExhausted, hl]
  case exhausted =>
    rintro _ _ l hmem rfl rfl rfl hset hspent hbudget
    have hl : l.spent = true := l.spent_iff.2 (.inr ⟨hset, hspent⟩)
    exact State.launchWith_isSome hmem (by rw [hl, hbudget]; rfl)

end Sys2Proof.Machine
end

section
/-! Phases and fences: which strands pass a phase boundary, what the boundary leaves in their workgroup, and the syllables that wait for it or order accesses (R316 to R321, R325). -/

namespace Sys2Proof.Machine

open Sys2Proof

/-! ### The syllables (R316, R317, R319 to R321) -/

theorem execPhase_released {s : State} {w : Workgroup} (hreleased : s.strand.released = true) (hw : s.wg = some w)
    (hboundary : w.boundary < 2 ^ 64) :
    execPhase s = .next (s.putStrand { s.strand with released := false, phasen := w.boundary }).retires := by
  have hnumber : ((s.wg.map (·.boundary)).getD 0) % 2 ^ 64 = w.boundary := by
    rw [hw]
    exact Nat.mod_eq_of_lt hboundary
  simp only [execPhase, hreleased, if_true, hnumber, State.retire_eq]

theorem execPhase_arrives {s : State} (hreleased : s.strand.released = false) :
    execPhase s = .next ((s.putStrand { s.strand with arrived := true, notified := false }).verdict .blocked) := by
  simp only [execPhase, hreleased, Bool.false_eq_true, if_false, State.block_eq]

/-! ### A workgroup after its update -/

/-- An update of a workgroup that keeps its number is found under that number. -/
theorem State.wgAt_modWg_same {s : State} {id : Nat} {w : Workgroup} {f : Workgroup → Workgroup} (hw : s.wgAt id = some w)
    (hid : ∀ w, (f w).id = w.id) : (s.modWg id f).wgAt id = some (f w) := by
  have hkeys : ((fun w : Workgroup => w.id == id) ∘ fun w => if w.id == id then f w else w) = fun w => w.id == id := by
    funext w
    simp only [Function.comp_apply, apply_ite, hid, ite_self]
  have hfound : (w.id == id) = true := List.find?_some (p := fun w : Workgroup => w.id == id) hw
  rw [State.wgAt] at hw
  rw [State.wgAt, State.modWg_wgs, List.find?_map, hkeys, hw, Option.map_some, if_pos hfound]

/-! ### The translation that a workgroup takes at its boundary (R317, R325) -/

theorem State.wgAt_freshView {s : State} {id : Nat} {w : Workgroup} (h : s.wgAt id = some w) :
    (s.freshView id).wgAt id = some { w with view := (s.worldAt w.world).live, stale := false } := by
  simp only [State.freshView, h]
  exact State.wgAt_modWg_same h fun _ => rfl

@[simp] theorem State.strandAt_modWg (s : State) (id c t : Nat) (f : Workgroup → Workgroup) :
    (s.modWg id f).strandAt c t = s.strandAt c t := rfl

/-- The new translation leaves the strands. -/
theorem State.strandAt_freshView (s : State) (id c t : Nat) : (s.freshView id).strandAt c t = s.strandAt c t := by
  unfold State.freshView
  split <;> rfl

/-- The new translation leaves what the memories hold. -/
theorem State.freshView_memories (s : State) (id : Nat) : (s.freshView id).sysmem = s.sysmem ∧ (s.freshView id).dram = s.dram := by
  unfold State.freshView
  split <;> exact ⟨rfl, rfl⟩

/-! ### The strands at a boundary (R317) -/

/-- An arrived strand is released, and its arrival is used up; another stays as it is. -/
def Strand.passBoundary (x : Strand) : Strand := if x.arrived then { x with arrived := false, released := true } else x

theorem Strand.passBoundary_arrived {x : Strand} (h : x.arrived = true) :
    x.passBoundary = { x with arrived := false, released := true } := if_pos h

theorem Strand.passBoundary_passBoundary (x : Strand) : x.passBoundary.passBoundary = x.passBoundary := by
  cases h : x.arrived <;> simp [Strand.passBoundary, h]

/-- The listed strands pass the boundary, one after the other. -/
def State.passStrands (s : State) (ps : List (Nat × Nat × Strand)) : State :=
  ps.foldl (fun s p => s.modStrandAt p.1 p.2.1 Strand.passBoundary) s

/-- A boundary reaches the listed strands and no other, and each of them once however often it is listed. -/
theorem State.strandAt_passStrands (s : State) (ps : List (Nat × Nat × Strand)) (c t : Nat) :
    (s.passStrands ps).strandAt c t
      = if (c, t) ∈ ps.map fun p => (p.1, p.2.1) then (s.strandAt c t).passBoundary else s.strandAt c t := by
  induction ps generalizing s with
  | nil => rfl
  | cons p ps ih =>
    rw [State.passStrands, List.foldl_cons, ← State.passStrands, ih, List.map_cons, State.modStrandAt]
    by_cases hhead : (c, t) = (p.1, p.2.1)
    · obtain ⟨rfl, rfl⟩ := Prod.mk.inj hhead
      rw [if_pos (List.mem_cons_self ..), State.strandAt_setStrandAt_same, Strand.passBoundary_passBoundary, ite_self]
    · rw [State.strandAt_setStrandAt_ne _ _ (Decidable.not_and_iff_not_or_not.1 fun h => hhead (Prod.ext h.1 h.2))]
      simp only [List.mem_cons, hhead, false_or]

/-- The boundary leaves the workgroups, the worlds and what the memories hold. -/
theorem State.passStrands_frame (s : State) (ps : List (Nat × Nat × Strand)) :
    (s.passStrands ps).wgs = s.wgs ∧ (s.passStrands ps).worlds = s.worlds
      ∧ (s.passStrands ps).sysmem = s.sysmem ∧ (s.passStrands ps).dram = s.dram :=
  List.foldlRecOn (motive := fun t : State => t.wgs = s.wgs ∧ t.worlds = s.worlds ∧ t.sysmem = s.sysmem ∧ t.dram = s.dram)
    ps _ ⟨rfl, rfl, rfl, rfl⟩ fun _ ht _ _ => ht

theorem State.mem_strandsOf {s : State} {w : Workgroup} {c t : Nat} {x : Strand} (hc : c ∈ w.cores) (ht : (t, x) ∈ (s.coreAt c).strands) :
    (c, t, x) ∈ s.strandsOf w :=
  List.mem_flatMap.2 ⟨c, hc, List.mem_map.2 ⟨(t, x), ht, rfl⟩⟩

/-! ### The boundary (R316 to R318) -/

/-- The state after the workgroup's boundary. -/
def State.afterBoundary (s : State) (id : Nat) (w : Workgroup) : State :=
  ((s.passStrands (s.strandsOf w)).modWg id fun w => { w with boundary := w.boundary + 1 }).freshView id

theorem execPhaseBoundary_passes {s : State} {id : Nat} {w : Workgroup} (hw : s.wgAt id = some w)
    (hstate : w.state = .running ∨ (w.state = .sealing ∧ s.sealStopped id = false)) (hdue : s.boundaryDue w = true) :
    execPhaseBoundary id s = .next (s.afterBoundary id w) := by
  obtain hrun | ⟨hseal, hstopped⟩ := hstate
  · simp only [execPhaseBoundary, hw, hrun, hdue]
    rfl
  · simp only [execPhaseBoundary, hw, hseal, hstopped, hdue]
    rfl

theorem execPhaseBoundary_waits {s : State} {id : Nat} {w : Workgroup} (hw : s.wgAt id = some w) (hdue : s.boundaryDue w = false) :
    execPhaseBoundary id s = .next s := by
  simp only [execPhaseBoundary, hw, hdue, Bool.and_false, Bool.false_eq_true, if_false]

theorem State.wgAt_afterBoundary {s : State} {id : Nat} {w : Workgroup} (hw : s.wgAt id = some w) :
    (s.afterBoundary id w).wgAt id
      = some { w with boundary := w.boundary + 1, view := (s.worldAt w.world).live, stale := false } := by
  obtain ⟨hwgs, hworlds, -, -⟩ := s.passStrands_frame (s.strandsOf w)
  have hpassed : (s.passStrands (s.strandsOf w)).wgAt id = some w := by rw [State.wgAt, hwgs]; exact hw
  have hnumbered : ((s.passStrands (s.strandsOf w)).modWg id fun w => { w with boundary := w.boundary + 1 }).wgAt id
      = some { w with boundary := w.boundary + 1 } := State.wgAt_modWg_same hpassed fun _ => rfl
  rw [State.afterBoundary, State.wgAt_freshView hnumbered, State.worldAt, State.modWg_worlds, hworlds, ← State.worldAt]

theorem State.afterBoundary_memories (s : State) (id : Nat) (w : Workgroup) :
    (s.afterBoundary id w).sysmem = s.sysmem ∧ (s.afterBoundary id w).dram = s.dram := by
  obtain ⟨-, -, hsysmem, hdram⟩ := s.passStrands_frame (s.strandsOf w)
  exact ⟨(State.freshView_memories _ id).1.trans hsysmem, (State.freshView_memories _ id).2.trans hdram⟩

theorem State.strandAt_afterBoundary {s : State} {w : Workgroup} {c t : Nat} {x : Strand} (id : Nat) (hmem : (c, t, x) ∈ s.strandsOf w) :
    (s.afterBoundary id w).strandAt c t = (s.strandAt c t).passBoundary := by
  have hlisted : (c, t) ∈ (s.strandsOf w).map fun p => (p.1, p.2.1) := List.mem_map_of_mem hmem
  rw [State.afterBoundary, State.strandAt_freshView, State.strandAt_modWg, State.strandAt_passStrands, if_pos hlisted]

/-- Settles O34: each syllable by its own equation; the boundary releases every listed strand that has arrived, and the workgroup's own update follows it. -/
theorem phasesAndFencesComplete : Obligations.PhasesAndFencesComplete := by
  refine ⟨fun s src dst => ⟨?released, ?arrives, ?xfence, ?ifence⟩, fun s id w hw => ⟨fun hstate hdue => ?passes, fun hdue => ?waits⟩⟩
  case released =>
    intro hreleased w hwg hboundary
    rw [exec_phase, execPhase_released hreleased hwg hboundary]
  case arrives =>
    intro hreleased
    rw [exec_phase, execPhase_arrives hreleased]
  case xfence =>
    exact ⟨s.strand.fences.filter fun g => g.waits.any s.inFlight, rfl, fun g => List.mem_filter⟩
  case ifence =>
    rw [exec_ifence, execIfence, State.retire_eq]
  case passes =>
    obtain ⟨hsysmem, hdram⟩ := s.afterBoundary_memories id w
    refine ⟨s.afterBoundary id w, _, execPhaseBoundary_passes hw hstate hdue, State.wgAt_afterBoundary hw, rfl, rfl, rfl,
      hsysmem, hdram, fun c t hc hmem harrived => ?_⟩
    rw [State.strandAt_afterBoundary id (State.mem_strandsOf hc hmem), Strand.passBoundary_arrived harrived]
    exact ⟨rfl, rfl⟩
  case waits =>
    rw [exec_phaseBoundary, execPhaseBoundary_waits hw hdue]

end Sys2Proof.Machine
end
